-- ==== Sys2Proof/Word.lean ====
section
/-! DEFINITION. The word types and their plainest arithmetic (R3, R10). -/
namespace Sys2Proof

/-- A 64-bit register or memory word. -/
abbrev Word := BitVec 64

/-- A byte of memory. -/
abbrev Byte := BitVec 8

/-- A 48-bit code address: bit 0 is the code form (R49). -/
abbrev Addr48 := BitVec 48

end Sys2Proof
end

