-- ==== Sys2Proof/Syntax.lean ====
section
/-! DEFINITION. The abstract syntax: the operand types, the arguments of hardware events and firmware
commands, and the ONE inductive `Instr`, one constructor per row of the opcode table (R69 and the event rows). -/
namespace Sys2Proof

/-- The guard pair G, N of formats Q and V (R55): register number and negation. -/
structure Guard where
  g : BitVec 5
  n : Bool
  deriving DecidableEq, Repr

/-- The exception-mask pair E, M of formats Q and V (R58, R59). -/
structure Exc where
  e : Bool
  m : BitVec 5
  deriving DecidableEq, Repr

/-- An issue stream's name: the control thread of row `r` of pack `p`, or the stream that holds strand `k`
(`p` and `r` are positions in `State.packs` and `Pack.rows`). -/
inductive Agent where
  | control (p r : Nat)
  | strand (p r k : Nat)
  deriving DecidableEq, Repr

/-- What a translation is wanted for (R401). -/
inductive AccessKind where
  | read | write | readWrite | fetch
  deriving DecidableEq, Repr

/-- What another device contributes to an xdred strip (R490): its position, its VL, type and operation, and
its present elements. -/
structure PeerStrip where
  pos : Nat
  vl : Nat
  vtype : BitVec 5
  op : BitVec 4
  elems : List (Option (BitVec 64))
  deriving DecidableEq, Repr

/-- The core SRAM in which a SECDED event happens (R226, R229, R296, R298); `p` and `r` name the row whose instruction or
access consumed the word. A control or strand register number counts p after x, and p after g. -/
inductive SramUnit where
  | controlReg (p r reg : Nat)
  | strandReg (p r k reg : Nat)
  | scratchpad (addr : Nat)
  | accumulator (p tile word : Nat) (follower : Bool)
  | l1 (p r pa : Nat)
  | datapath (p r lane : Nat)
  | icache
  deriving DecidableEq, Repr

/-- A SECDED event: correctable or not, and whether the error is persistent (R168, R226, R298). -/
structure SramError where
  unit : SramUnit
  correctable : Bool
  persistent : Bool
  deriving DecidableEq, Repr

/-- The L2 error events of R326 and R327. -/
inductive L2ErrorKind where
  | correctable
  | uncorrectableClean (persistent : Bool)
  | uncorrectableDirty (persistent : Bool)
  | tag (dirty : Bool)
  deriving DecidableEq, Repr

/-- The HBM read errors of R408: corrected, rebuilt from the stripe, not to be rebuilt as a second member is lost too, in the
line's `i`-th old version (R423), or uncorrectable in a memory-side-cache line, `dirty` or clean. -/
inductive HbmErrorKind where
  | correctable
  | uncorrectable
  | unrebuildable
  | oldVersion (i : Nat)
  | cached (dirty : Bool)
  deriving DecidableEq, Repr

/-- One edit of the slot tables (R373): the multicast connections of a litter placed whole are set up, a row's collective is, or
connections no longer wanted are removed. -/
inductive SlotEdit where
  | litter (launch index : Nat)
  | collective (pack row : Nat)
  | release
  deriving DecidableEq, Repr

/-- A host CXL.mem access (R474). -/
inductive HostAccess where
  | read (n : Nat)
  | write (bytes : List (BitVec 8))
  deriving DecidableEq, Repr

/-- The three classes of command issuer (R480). -/
inductive Issuer where
  | host
  | owner (part : Nat)
  | exec (part : Nat)
  deriving DecidableEq, Repr

/-- A firmware command's header (R479) with its issuer: PART, TAG, LENGTH and the bytes from 0x14 on; OPCODE is the row's own.
`formed` is false for a payload that is not in the command's form. -/
structure Cmd where
  issuer : Issuer
  part : Nat
  tag : BitVec 64
  length : Nat
  zero : BitVec 96
  formed : Bool
  deriving DecidableEq, Repr

/-- Under whose key a signature verifies (EXEC_LOAD, PATCH_LOAD, R480). -/
inductive Signer where
  | nobody
  | korlan
  | owner (key : BitVec 256)
  deriving DecidableEq, Repr

/-- The filter of a comparator (R456): `none` is "any"; `queue` only for the trace comparator (R463). -/
structure Filter where
  packId : Option (BitVec 32)
  rowId : Option Nat
  launchId : Option (BitVec 32)
  queue : Option Nat
  deriving DecidableEq, Repr

/-- A breakpoint comparator (R456): `elem = none` is ALL. -/
structure Comparator where
  addr : BitVec 48
  elem : Option Nat
  filter : Filter
  deriving DecidableEq, Repr

/-- A trace setting (R463): filter and buffer (physical base, size in bytes). -/
structure TraceSet where
  filter : Filter
  base : Nat
  size : Nat
  deriving DecidableEq, Repr

/-- A sampling setting (R464): period N and buffer. -/
structure SampleSet where
  period : Nat
  base : Nat
  size : Nat
  deriving DecidableEq, Repr

/-- The units FAIL_UNIT can fail (R480). -/
inductive FailUnit where
  | lane (core lane : Nat)
  | channel (stack chan : Nat)
  | core (c : Nat)
  | link (l : Nat)
  deriving DecidableEq, Repr

/-- The parameters of SET_PARAM (R480): SWAPN of a die (host) or of the issuer's partition, the lane retirement
count, the version store size in 64ths of usable memory. -/
inductive Param where
  | swapn (die : Nat) (value : Nat)
  | swapnPart (value : Nat)
  | laneRetire (count : Nat)
  | versionStore (per64 : Nat)
  deriving DecidableEq, Repr

/-- Debug state access of a halted row (R460) in the layouts of R293 and R294: byte offset and word. -/
inductive DebugAccess where
  | readRow (off : Nat)
  | writeRow (off : Nat) (value : BitVec 64)
  | readStrand (k off : Nat)
  | writeStrand (k off : Nat) (value : BitVec 64)
  | readLink (q1 : Bool) (j off : Nat)
  | writeLink (q1 : Bool) (j off : Nat) (value : BitVec 64)
  | readQueued (i off : Nat)
  | writeQueued (i off : Nat) (value : BitVec 64)
  deriving DecidableEq, Repr

/-- The SPDM requests of R477. -/
inductive SpdmRequest where
  | getVersion | getCapabilities | negotiateAlgorithms | getCertificate | challenge | keyExchange
  deriving DecidableEq, Repr

/-- An access arriving over a link (R421). -/
inductive RemoteOp where
  | read (n : Nat)
  | write (bytes : List (BitVec 8))
  | atomic (f : BitVec 4) (w32 : Bool) (b c : BitVec 64)
  deriving DecidableEq, Repr

/-- A native translation of an Adtan function (R451, R452): the function's Adtan bytes (virtual start, size), the
map of Adtan addresses (bit 0 set) to native addresses, the lines it needs and where they go. -/
structure Translation where
  start : BitVec 48
  size : Nat
  map : List (BitVec 48 × BitVec 48)
  dest : Nat
  lines : List (BitVec 8)
  deriving DecidableEq, Repr

/-- One constructor per row of the opcode table: native instructions with their operand fields, then the
hardware events and firmware commands with what happened as arguments. -/
inductive Instr where
  /-- NOP (R142) -/
  | nop
  /-- STOP (R141) -/
  | stop
  /-- HALT (R141) -/
  | halt
  /-- HEEL (R140) -/
  | heel
  /-- RWAIT (R197) -/
  | rwait
  /-- BRK (R142) -/
  | brk
  /-- TRET (R281) -/
  | tret
  /-- VDRAIN_LD (R220) -/
  | vdrainLd
  /-- VDRAIN_ST (R220) -/
  | vdrainSt
  /-- VDRAIN (R220) -/
  | vdrain
  /-- TXABORT (R435) -/
  | txabort
  /-- ADD (R119) -/
  | add (d : BitVec 6) (a : BitVec 6) (b : BitVec 6)
  /-- SUB (R119) -/
  | sub (d : BitVec 6) (a : BitVec 6) (b : BitVec 6)
  /-- AND (R119) -/
  | and (d : BitVec 6) (a : BitVec 6) (b : BitVec 6)
  /-- OR (R119) -/
  | or (d : BitVec 6) (a : BitVec 6) (b : BitVec 6)
  /-- XOR (R119) -/
  | xor (d : BitVec 6) (a : BitVec 6) (b : BitVec 6)
  /-- ANDN (R119) -/
  | andn (d : BitVec 6) (a : BitVec 6) (b : BitVec 6)
  /-- SLL (R119) -/
  | sll (d : BitVec 6) (a : BitVec 6) (b : BitVec 6)
  /-- SRL (R119) -/
  | srl (d : BitVec 6) (a : BitVec 6) (b : BitVec 6)
  /-- SRA (R119) -/
  | sra (d : BitVec 6) (a : BitVec 6) (b : BitVec 6)
  /-- ROL (R119) -/
  | rol (d : BitVec 6) (a : BitVec 6) (b : BitVec 6)
  /-- MIN (R119) -/
  | min (d : BitVec 6) (a : BitVec 6) (b : BitVec 6)
  /-- MAX (R119) -/
  | max (d : BitVec 6) (a : BitVec 6) (b : BitVec 6)
  /-- MINU (R119) -/
  | minu (d : BitVec 6) (a : BitVec 6) (b : BitVec 6)
  /-- MAXU (R119) -/
  | maxu (d : BitVec 6) (a : BitVec 6) (b : BitVec 6)
  /-- ADDW (R119) -/
  | addw (d : BitVec 6) (a : BitVec 6) (b : BitVec 6)
  /-- SUBW (R119) -/
  | subw (d : BitVec 6) (a : BitVec 6) (b : BitVec 6)
  /-- MUL (R120) -/
  | mul (d : BitVec 6) (a : BitVec 6) (b : BitVec 6)
  /-- MULH (R120) -/
  | mulh (d : BitVec 6) (a : BitVec 6) (b : BitVec 6)
  /-- MULHU (R120) -/
  | mulhu (d : BitVec 6) (a : BitVec 6) (b : BitVec 6)
  /-- DIV (R120) -/
  | div (d : BitVec 6) (a : BitVec 6) (b : BitVec 6)
  /-- DIVU (R120) -/
  | divu (d : BitVec 6) (a : BitVec 6) (b : BitVec 6)
  /-- REM (R120) -/
  | rem (d : BitVec 6) (a : BitVec 6) (b : BitVec 6)
  /-- REMU (R120) -/
  | remu (d : BitVec 6) (a : BitVec 6) (b : BitVec 6)
  /-- MULW (R120) -/
  | mulw (d : BitVec 6) (a : BitVec 6) (b : BitVec 6)
  /-- CLZ (R121) -/
  | clz (d : BitVec 6) (a : BitVec 6)
  /-- CTZ (R121) -/
  | ctz (d : BitVec 6) (a : BitVec 6)
  /-- POPC (R121) -/
  | popc (d : BitVec 6) (a : BitVec 6)
  /-- BSWAP (R121) -/
  | bswap (d : BitVec 6) (a : BitVec 6)
  /-- BREV (R121) -/
  | brev (d : BitVec 6) (a : BitVec 6)
  /-- SXB (R121) -/
  | sxb (d : BitVec 6) (a : BitVec 6)
  /-- SXH (R121) -/
  | sxh (d : BitVec 6) (a : BitVec 6)
  /-- SXW (R121) -/
  | sxw (d : BitVec 6) (a : BitVec 6)
  /-- ZXW (R121) -/
  | zxw (d : BitVec 6) (a : BitVec 6)
  /-- ADDI (R122) -/
  | addi (d : BitVec 6) (a : BitVec 6) (imm : BitVec 22)
  /-- ANDI (R122) -/
  | andi (d : BitVec 6) (a : BitVec 6) (imm : BitVec 22)
  /-- ORI (R122) -/
  | ori (d : BitVec 6) (a : BitVec 6) (imm : BitVec 22)
  /-- XORI (R122) -/
  | xori (d : BitVec 6) (a : BitVec 6) (imm : BitVec 22)
  /-- SLLI (R122) -/
  | slli (d : BitVec 6) (a : BitVec 6) (sh : BitVec 6)
  /-- SRLI (R122) -/
  | srli (d : BitVec 6) (a : BitVec 6) (sh : BitVec 6)
  /-- SRAI (R122) -/
  | srai (d : BitVec 6) (a : BitVec 6) (sh : BitVec 6)
  /-- ROLI (R122) -/
  | roli (d : BitVec 6) (a : BitVec 6) (sh : BitVec 6)
  /-- LI (R123) -/
  | li (d : BitVec 6) (imm : BitVec 38)
  /-- LHI (R123) -/
  | lhi (d : BitVec 6) (imm : BitVec 22)
  /-- SEL (R124) -/
  | sel (gd : Guard) (d : BitVec 6) (a : BitVec 6) (b : BitVec 6)
  /-- ADDA (R125) -/
  | adda (gd : Guard) (d : BitVec 6) (a : BitVec 6) (b : BitVec 6) (sh : BitVec 2)
  /-- CEQ (R126) -/
  | ceq (pd : BitVec 5) (a : BitVec 6) (b : BitVec 6)
  /-- CNE (R126) -/
  | cne (pd : BitVec 5) (a : BitVec 6) (b : BitVec 6)
  /-- CLT (R126) -/
  | clt (pd : BitVec 5) (a : BitVec 6) (b : BitVec 6)
  /-- CGE (R126) -/
  | cge (pd : BitVec 5) (a : BitVec 6) (b : BitVec 6)
  /-- CLTU (R126) -/
  | cltu (pd : BitVec 5) (a : BitVec 6) (b : BitVec 6)
  /-- CGEU (R126) -/
  | cgeu (pd : BitVec 5) (a : BitVec 6) (b : BitVec 6)
  /-- CEQI (R127) -/
  | ceqi (pd : BitVec 5) (a : BitVec 6) (imm : BitVec 22)
  /-- CNEI (R127) -/
  | cnei (pd : BitVec 5) (a : BitVec 6) (imm : BitVec 22)
  /-- CLTI (R127) -/
  | clti (pd : BitVec 5) (a : BitVec 6) (imm : BitVec 22)
  /-- CGEI (R127) -/
  | cgei (pd : BitVec 5) (a : BitVec 6) (imm : BitVec 22)
  /-- CLTUI (R127) -/
  | cltui (pd : BitVec 5) (a : BitVec 6) (imm : BitVec 22)
  /-- CGEUI (R127) -/
  | cgeui (pd : BitVec 5) (a : BitVec 6) (imm : BitVec 22)
  /-- PAND (R128) -/
  | pand (pd : BitVec 5) (pa : BitVec 5) (pb : BitVec 5)
  /-- POR (R128) -/
  | por (pd : BitVec 5) (pa : BitVec 5) (pb : BitVec 5)
  /-- PXOR (R128) -/
  | pxor (pd : BitVec 5) (pa : BitVec 5) (pb : BitVec 5)
  /-- PANDN (R128) -/
  | pandn (pd : BitVec 5) (pa : BitVec 5) (pb : BitVec 5)
  /-- PNOT (R128) -/
  | pnot (pd : BitVec 5) (pa : BitVec 5)
  /-- PMOV (R128) -/
  | pmov (pd : BitVec 5) (pa : BitVec 5)
  /-- LD8 (R130) -/
  | ld8 (d : BitVec 6) (a : BitVec 6) (imm : BitVec 22)
  /-- LD16 (R130) -/
  | ld16 (d : BitVec 6) (a : BitVec 6) (imm : BitVec 22)
  /-- LD32 (R130) -/
  | ld32 (d : BitVec 6) (a : BitVec 6) (imm : BitVec 22)
  /-- LD64 (R130) -/
  | ld64 (d : BitVec 6) (a : BitVec 6) (imm : BitVec 22)
  /-- LD8S (R130) -/
  | ld8s (d : BitVec 6) (a : BitVec 6) (imm : BitVec 22)
  /-- LD16S (R130) -/
  | ld16s (d : BitVec 6) (a : BitVec 6) (imm : BitVec 22)
  /-- LD32S (R130) -/
  | ld32s (d : BitVec 6) (a : BitVec 6) (imm : BitVec 22)
  /-- ST8 (R130) -/
  | st8 (d : BitVec 6) (a : BitVec 6) (imm : BitVec 22)
  /-- ST16 (R130) -/
  | st16 (d : BitVec 6) (a : BitVec 6) (imm : BitVec 22)
  /-- ST32 (R130) -/
  | st32 (d : BitVec 6) (a : BitVec 6) (imm : BitVec 22)
  /-- ST64 (R130) -/
  | st64 (d : BitVec 6) (a : BitVec 6) (imm : BitVec 22)
  /-- LDL8 (R133) -/
  | ldl8 (d : BitVec 6) (a : BitVec 6) (imm : BitVec 22)
  /-- LDL16 (R133) -/
  | ldl16 (d : BitVec 6) (a : BitVec 6) (imm : BitVec 22)
  /-- LDL32 (R133) -/
  | ldl32 (d : BitVec 6) (a : BitVec 6) (imm : BitVec 22)
  /-- LDL64 (R133) -/
  | ldl64 (d : BitVec 6) (a : BitVec 6) (imm : BitVec 22)
  /-- STL8 (R133) -/
  | stl8 (d : BitVec 6) (a : BitVec 6) (imm : BitVec 22)
  /-- STL16 (R133) -/
  | stl16 (d : BitVec 6) (a : BitVec 6) (imm : BitVec 22)
  /-- STL32 (R133) -/
  | stl32 (d : BitVec 6) (a : BitVec 6) (imm : BitVec 22)
  /-- STL64 (R133) -/
  | stl64 (d : BitVec 6) (a : BitVec 6) (imm : BitVec 22)
  /-- LDV8 (R134) -/
  | ldv8 (d : BitVec 6) (a : BitVec 6) (imm : BitVec 22)
  /-- LDV16 (R134) -/
  | ldv16 (d : BitVec 6) (a : BitVec 6) (imm : BitVec 22)
  /-- LDV32 (R134) -/
  | ldv32 (d : BitVec 6) (a : BitVec 6) (imm : BitVec 22)
  /-- LDV64 (R134) -/
  | ldv64 (d : BitVec 6) (a : BitVec 6) (imm : BitVec 22)
  /-- BR (R135) -/
  | br (neg : Bool) (pa : BitVec 5) (imm : BitVec 22)
  /-- JMP (R136) -/
  | jmp (imm : BitVec 38)
  /-- CALL (R136) -/
  | call (d : BitVec 6) (imm : BitVec 38)
  /-- JMPR (R136) -/
  | jmpr (a : BitVec 6)
  /-- CALLR (R136) -/
  | callr (d : BitVec 6) (a : BitVec 6)
  /-- RET (R136) -/
  | ret (a : BitVec 6)
  /-- FETCH (R138) -/
  | fetch (imm : BitVec 38)
  /-- FETCHR (R138) -/
  | fetchr (a : BitVec 6)
  /-- LEASH (R139) -/
  | leash (imm : BitVec 38)
  /-- LEASHR (R139) -/
  | leashr (a : BitVec 6)
  /-- QSEND_Q0 (R144) -/
  | qsendQ0 (d : BitVec 6)
  /-- QSEND_Q1 (R144) -/
  | qsendQ1 (d : BitVec 6)
  /-- QRECV_Q0 (R144) -/
  | qrecvQ0 (d : BitVec 6)
  /-- QRECV_Q1 (R144) -/
  | qrecvQ1 (d : BitVec 6)
  /-- XQPUSH_Q0 (R198) -/
  | xqpushQ0 (xd : BitVec 5)
  /-- XQPUSH_Q1 (R198) -/
  | xqpushQ1 (xd : BitVec 5)
  /-- XQPOP_Q0 (R198) -/
  | xqpopQ0 (xd : BitVec 5)
  /-- XQPOP_Q1 (R198) -/
  | xqpopQ1 (xd : BitVec 5)
  /-- QUEUE_WAIT_COMPLETE (R107) -/
  | queueWaitComplete (t : Agent)
  /-- FADD_S (R146) -/
  | faddS (gd : Guard) (ex : Exc) (rm : BitVec 4) (d : BitVec 6) (a : BitVec 6) (b : BitVec 6)
  /-- FSUB_S (R146) -/
  | fsubS (gd : Guard) (ex : Exc) (rm : BitVec 4) (d : BitVec 6) (a : BitVec 6) (b : BitVec 6)
  /-- FMUL_S (R146) -/
  | fmulS (gd : Guard) (ex : Exc) (rm : BitVec 4) (d : BitVec 6) (a : BitVec 6) (b : BitVec 6)
  /-- FDIV_S (R146) -/
  | fdivS (gd : Guard) (ex : Exc) (rm : BitVec 4) (d : BitVec 6) (a : BitVec 6) (b : BitVec 6)
  /-- FMIN_S (R146) -/
  | fminS (gd : Guard) (ex : Exc) (d : BitVec 6) (a : BitVec 6) (b : BitVec 6)
  /-- FMAX_S (R146) -/
  | fmaxS (gd : Guard) (ex : Exc) (d : BitVec 6) (a : BitVec 6) (b : BitVec 6)
  /-- FSQRT_S (R146) -/
  | fsqrtS (gd : Guard) (ex : Exc) (rm : BitVec 4) (d : BitVec 6) (a : BitVec 6)
  /-- FABS_S (R146) -/
  | fabsS (gd : Guard) (ex : Exc) (d : BitVec 6) (a : BitVec 6)
  /-- FNEG_S (R146) -/
  | fnegS (gd : Guard) (ex : Exc) (d : BitVec 6) (a : BitVec 6)
  /-- FADD_D (R146) -/
  | faddD (gd : Guard) (ex : Exc) (rm : BitVec 4) (d : BitVec 6) (a : BitVec 6) (b : BitVec 6)
  /-- FSUB_D (R146) -/
  | fsubD (gd : Guard) (ex : Exc) (rm : BitVec 4) (d : BitVec 6) (a : BitVec 6) (b : BitVec 6)
  /-- FMUL_D (R146) -/
  | fmulD (gd : Guard) (ex : Exc) (rm : BitVec 4) (d : BitVec 6) (a : BitVec 6) (b : BitVec 6)
  /-- FDIV_D (R146) -/
  | fdivD (gd : Guard) (ex : Exc) (rm : BitVec 4) (d : BitVec 6) (a : BitVec 6) (b : BitVec 6)
  /-- FMIN_D (R146) -/
  | fminD (gd : Guard) (ex : Exc) (d : BitVec 6) (a : BitVec 6) (b : BitVec 6)
  /-- FMAX_D (R146) -/
  | fmaxD (gd : Guard) (ex : Exc) (d : BitVec 6) (a : BitVec 6) (b : BitVec 6)
  /-- FSQRT_D (R146) -/
  | fsqrtD (gd : Guard) (ex : Exc) (rm : BitVec 4) (d : BitVec 6) (a : BitVec 6)
  /-- FABS_D (R146) -/
  | fabsD (gd : Guard) (ex : Exc) (d : BitVec 6) (a : BitVec 6)
  /-- FNEG_D (R146) -/
  | fnegD (gd : Guard) (ex : Exc) (d : BitVec 6) (a : BitVec 6)
  /-- FFMA_S (R147) -/
  | ffmaS (gd : Guard) (ex : Exc) (rm : BitVec 4) (d : BitVec 6) (a : BitVec 6) (b : BitVec 6) (c : BitVec 6)
  /-- FFMS_S (R147) -/
  | ffmsS (gd : Guard) (ex : Exc) (rm : BitVec 4) (d : BitVec 6) (a : BitVec 6) (b : BitVec 6) (c : BitVec 6)
  /-- FFNMA_S (R147) -/
  | ffnmaS (gd : Guard) (ex : Exc) (rm : BitVec 4) (d : BitVec 6) (a : BitVec 6) (b : BitVec 6) (c : BitVec 6)
  /-- FFMA_D (R147) -/
  | ffmaD (gd : Guard) (ex : Exc) (rm : BitVec 4) (d : BitVec 6) (a : BitVec 6) (b : BitVec 6) (c : BitVec 6)
  /-- FFMS_D (R147) -/
  | ffmsD (gd : Guard) (ex : Exc) (rm : BitVec 4) (d : BitVec 6) (a : BitVec 6) (b : BitVec 6) (c : BitVec 6)
  /-- FFNMA_D (R147) -/
  | ffnmaD (gd : Guard) (ex : Exc) (rm : BitVec 4) (d : BitVec 6) (a : BitVec 6) (b : BitVec 6) (c : BitVec 6)
  /-- FEQ_S (R148) -/
  | feqS (pd : BitVec 5) (a : BitVec 6) (b : BitVec 6)
  /-- FLT_S (R148) -/
  | fltS (pd : BitVec 5) (a : BitVec 6) (b : BitVec 6)
  /-- FLE_S (R148) -/
  | fleS (pd : BitVec 5) (a : BitVec 6) (b : BitVec 6)
  /-- FUNORD_S (R148) -/
  | funordS (pd : BitVec 5) (a : BitVec 6) (b : BitVec 6)
  /-- FEQ_D (R148) -/
  | feqD (pd : BitVec 5) (a : BitVec 6) (b : BitVec 6)
  /-- FLT_D (R148) -/
  | fltD (pd : BitVec 5) (a : BitVec 6) (b : BitVec 6)
  /-- FLE_D (R148) -/
  | fleD (pd : BitVec 5) (a : BitVec 6) (b : BitVec 6)
  /-- FUNORD_D (R148) -/
  | funordD (pd : BitVec 5) (a : BitVec 6) (b : BitVec 6)
  /-- CVT_F64_F32 (R149) -/
  | cvtF64F32 (gd : Guard) (ex : Exc) (rm : BitVec 4) (d : BitVec 6) (a : BitVec 6)
  /-- CVT_F32_F64 (R149) -/
  | cvtF32F64 (gd : Guard) (ex : Exc) (rm : BitVec 4) (d : BitVec 6) (a : BitVec 6)
  /-- CVT_F32_I64 (R149) -/
  | cvtF32I64 (gd : Guard) (ex : Exc) (rm : BitVec 4) (d : BitVec 6) (a : BitVec 6)
  /-- CVT_I64_F32 (R149) -/
  | cvtI64F32 (gd : Guard) (ex : Exc) (rm : BitVec 4) (d : BitVec 6) (a : BitVec 6)
  /-- CVT_F64_I64 (R149) -/
  | cvtF64I64 (gd : Guard) (ex : Exc) (rm : BitVec 4) (d : BitVec 6) (a : BitVec 6)
  /-- CVT_I64_F64 (R149) -/
  | cvtI64F64 (gd : Guard) (ex : Exc) (rm : BitVec 4) (d : BitVec 6) (a : BitVec 6)
  /-- CVT_BF16_F32 (R149) -/
  | cvtBf16F32 (gd : Guard) (ex : Exc) (rm : BitVec 4) (d : BitVec 6) (a : BitVec 6)
  /-- CVT_F32_BF16 (R149) -/
  | cvtF32Bf16 (gd : Guard) (ex : Exc) (rm : BitVec 4) (d : BitVec 6) (a : BitVec 6)
  /-- CVT_FP16_F32 (R149) -/
  | cvtFp16F32 (gd : Guard) (ex : Exc) (rm : BitVec 4) (d : BitVec 6) (a : BitVec 6)
  /-- CVT_F32_FP16 (R149) -/
  | cvtF32Fp16 (gd : Guard) (ex : Exc) (rm : BitVec 4) (d : BitVec 6) (a : BitVec 6)
  /-- CVT_E4M3_F32 (R149) -/
  | cvtE4m3F32 (gd : Guard) (ex : Exc) (rm : BitVec 4) (d : BitVec 6) (a : BitVec 6)
  /-- CVT_F32_E4M3 (R149) -/
  | cvtF32E4m3 (gd : Guard) (ex : Exc) (rm : BitVec 4) (d : BitVec 6) (a : BitVec 6)
  /-- CVT_E5M2_F32 (R149) -/
  | cvtE5m2F32 (gd : Guard) (ex : Exc) (rm : BitVec 4) (d : BitVec 6) (a : BitVec 6)
  /-- CVT_F32_E5M2 (R149) -/
  | cvtF32E5m2 (gd : Guard) (ex : Exc) (rm : BitVec 4) (d : BitVec 6) (a : BitVec 6)
  /-- CVT_LG_F32 (R33) -/
  | cvtLgF32 (gd : Guard) (ex : Exc) (rm : BitVec 4) (d : BitVec 6) (a : BitVec 6)
  /-- CVT_F32_LG (R35) -/
  | cvtF32Lg (gd : Guard) (ex : Exc) (rm : BitVec 4) (d : BitVec 6) (a : BitVec 6)
  /-- GETSR (R150) -/
  | getsr (d : BitVec 6) (a : BitVec 6) (b : BitVec 6)
  /-- SETSR (R150) -/
  | setsr (d : BitVec 6) (a : BitVec 6) (b : BitVec 6)
  /-- CPGO (R234) -/
  | cpgo (d : BitVec 6)
  /-- TRAP (R153) -/
  | trap (a : BitVec 6) (b : BitVec 6)
  /-- RDCYC (R154) -/
  | rdcyc (d : BitVec 6)
  /-- RFETCH (R196) -/
  | rfetch (imm : BitVec 38)
  /-- RFETCH_IDEM (R196) -/
  | rfetchIdem (imm : BitVec 38)
  /-- RFETCHR (R196) -/
  | rfetchr (xa : BitVec 5)
  /-- RFETCHR_IDEM (R196) -/
  | rfetchrIdem (xa : BitVec 5)
  /-- SETVL (R195) -/
  | setvl (xd : BitVec 5) (xa : BitVec 5) (vt : BitVec 5)
  /-- LAUNCH (R379) -/
  | launch (xd : BitVec 5) (xa : BitVec 5)
  /-- VADD (R199) -/
  | vadd (gd : Guard) (vd : BitVec 6) (va : BitVec 6) (vb : BitVec 6)
  /-- VSUB (R199) -/
  | vsub (gd : Guard) (vd : BitVec 6) (va : BitVec 6) (vb : BitVec 6)
  /-- VMUL (R199) -/
  | vmul (gd : Guard) (vd : BitVec 6) (va : BitVec 6) (vb : BitVec 6)
  /-- VMULH (R199) -/
  | vmulh (gd : Guard) (vd : BitVec 6) (va : BitVec 6) (vb : BitVec 6)
  /-- VAND (R199) -/
  | vand (gd : Guard) (vd : BitVec 6) (va : BitVec 6) (vb : BitVec 6)
  /-- VOR (R199) -/
  | vor (gd : Guard) (vd : BitVec 6) (va : BitVec 6) (vb : BitVec 6)
  /-- VXOR (R199) -/
  | vxor (gd : Guard) (vd : BitVec 6) (va : BitVec 6) (vb : BitVec 6)
  /-- VSLL (R199) -/
  | vsll (gd : Guard) (vd : BitVec 6) (va : BitVec 6) (vb : BitVec 6)
  /-- VSRL (R199) -/
  | vsrl (gd : Guard) (vd : BitVec 6) (va : BitVec 6) (vb : BitVec 6)
  /-- VSRA (R199) -/
  | vsra (gd : Guard) (vd : BitVec 6) (va : BitVec 6) (vb : BitVec 6)
  /-- VMIN (R199) -/
  | vmin (gd : Guard) (vd : BitVec 6) (va : BitVec 6) (vb : BitVec 6)
  /-- VMAX (R199) -/
  | vmax (gd : Guard) (vd : BitVec 6) (va : BitVec 6) (vb : BitVec 6)
  /-- VMINU (R199) -/
  | vminu (gd : Guard) (vd : BitVec 6) (va : BitVec 6) (vb : BitVec 6)
  /-- VMAXU (R199) -/
  | vmaxu (gd : Guard) (vd : BitVec 6) (va : BitVec 6) (vb : BitVec 6)
  /-- VADC (R200) -/
  | vadc (gd : Guard) (vd : BitVec 6) (va : BitVec 6) (vb : BitVec 6) (mc : BitVec 5) (mm : BitVec 5)
  /-- VSBC (R200) -/
  | vsbc (gd : Guard) (vd : BitVec 6) (va : BitVec 6) (vb : BitVec 6) (mc : BitVec 5) (mm : BitVec 5)
  /-- VADD_VX (R199) -/
  | vaddVx (gd : Guard) (vd : BitVec 6) (va : BitVec 6) (xb : BitVec 5)
  /-- VSUB_VX (R199) -/
  | vsubVx (gd : Guard) (vd : BitVec 6) (va : BitVec 6) (xb : BitVec 5)
  /-- VMUL_VX (R199) -/
  | vmulVx (gd : Guard) (vd : BitVec 6) (va : BitVec 6) (xb : BitVec 5)
  /-- VMULH_VX (R199) -/
  | vmulhVx (gd : Guard) (vd : BitVec 6) (va : BitVec 6) (xb : BitVec 5)
  /-- VAND_VX (R199) -/
  | vandVx (gd : Guard) (vd : BitVec 6) (va : BitVec 6) (xb : BitVec 5)
  /-- VOR_VX (R199) -/
  | vorVx (gd : Guard) (vd : BitVec 6) (va : BitVec 6) (xb : BitVec 5)
  /-- VXOR_VX (R199) -/
  | vxorVx (gd : Guard) (vd : BitVec 6) (va : BitVec 6) (xb : BitVec 5)
  /-- VSLL_VX (R199) -/
  | vsllVx (gd : Guard) (vd : BitVec 6) (va : BitVec 6) (xb : BitVec 5)
  /-- VSRL_VX (R199) -/
  | vsrlVx (gd : Guard) (vd : BitVec 6) (va : BitVec 6) (xb : BitVec 5)
  /-- VSRA_VX (R199) -/
  | vsraVx (gd : Guard) (vd : BitVec 6) (va : BitVec 6) (xb : BitVec 5)
  /-- VMIN_VX (R199) -/
  | vminVx (gd : Guard) (vd : BitVec 6) (va : BitVec 6) (xb : BitVec 5)
  /-- VMAX_VX (R199) -/
  | vmaxVx (gd : Guard) (vd : BitVec 6) (va : BitVec 6) (xb : BitVec 5)
  /-- VMINU_VX (R199) -/
  | vminuVx (gd : Guard) (vd : BitVec 6) (va : BitVec 6) (xb : BitVec 5)
  /-- VMAXU_VX (R199) -/
  | vmaxuVx (gd : Guard) (vd : BitVec 6) (va : BitVec 6) (xb : BitVec 5)
  /-- VADC_VX (R200) -/
  | vadcVx (gd : Guard) (vd : BitVec 6) (va : BitVec 6) (xb : BitVec 5) (mc : BitVec 5) (mm : BitVec 5)
  /-- VSBC_VX (R200) -/
  | vsbcVx (gd : Guard) (vd : BitVec 6) (va : BitVec 6) (xb : BitVec 5) (mc : BitVec 5) (mm : BitVec 5)
  /-- VFADD (R201) -/
  | vfadd (gd : Guard) (ex : Exc) (rm : BitVec 4) (fp16 : Bool) (vd : BitVec 6) (va : BitVec 6) (vb : BitVec 6)
  /-- VFSUB (R201) -/
  | vfsub (gd : Guard) (ex : Exc) (rm : BitVec 4) (fp16 : Bool) (vd : BitVec 6) (va : BitVec 6) (vb : BitVec 6)
  /-- VFMUL (R201) -/
  | vfmul (gd : Guard) (ex : Exc) (rm : BitVec 4) (fp16 : Bool) (vd : BitVec 6) (va : BitVec 6) (vb : BitVec 6)
  /-- VFDIV (R201) -/
  | vfdiv (gd : Guard) (ex : Exc) (rm : BitVec 4) (fp16 : Bool) (vd : BitVec 6) (va : BitVec 6) (vb : BitVec 6)
  /-- VFMIN (R201) -/
  | vfmin (gd : Guard) (ex : Exc) (fp16 : Bool) (vd : BitVec 6) (va : BitVec 6) (vb : BitVec 6)
  /-- VFMAX (R201) -/
  | vfmax (gd : Guard) (ex : Exc) (fp16 : Bool) (vd : BitVec 6) (va : BitVec 6) (vb : BitVec 6)
  /-- VFSQRT (R201) -/
  | vfsqrt (gd : Guard) (ex : Exc) (rm : BitVec 4) (fp16 : Bool) (vd : BitVec 6) (va : BitVec 6)
  /-- VFMA (R201) -/
  | vfma (gd : Guard) (ex : Exc) (rm : BitVec 4) (fp16 : Bool) (vd : BitVec 6) (va : BitVec 6) (vb : BitVec 6) (vc : BitVec 6)
  /-- VFMS (R201) -/
  | vfms (gd : Guard) (ex : Exc) (rm : BitVec 4) (fp16 : Bool) (vd : BitVec 6) (va : BitVec 6) (vb : BitVec 6) (vc : BitVec 6)
  /-- VFNMA (R201) -/
  | vfnma (gd : Guard) (ex : Exc) (rm : BitVec 4) (fp16 : Bool) (vd : BitVec 6) (va : BitVec 6) (vb : BitVec 6) (vc : BitVec 6)
  /-- VFABS (R201) -/
  | vfabs (gd : Guard) (ex : Exc) (fp16 : Bool) (vd : BitVec 6) (va : BitVec 6)
  /-- VFNEG (R201) -/
  | vfneg (gd : Guard) (ex : Exc) (fp16 : Bool) (vd : BitVec 6) (va : BitVec 6)
  /-- VCEQ (R202) -/
  | vceq (gd : Guard) (xb : Bool) (md : BitVec 5) (va : BitVec 6) (b : BitVec 6)
  /-- VCNE (R202) -/
  | vcne (gd : Guard) (xb : Bool) (md : BitVec 5) (va : BitVec 6) (b : BitVec 6)
  /-- VCLT (R202) -/
  | vclt (gd : Guard) (xb : Bool) (md : BitVec 5) (va : BitVec 6) (b : BitVec 6)
  /-- VCGE (R202) -/
  | vcge (gd : Guard) (xb : Bool) (md : BitVec 5) (va : BitVec 6) (b : BitVec 6)
  /-- VCLTU (R202) -/
  | vcltu (gd : Guard) (xb : Bool) (md : BitVec 5) (va : BitVec 6) (b : BitVec 6)
  /-- VCGEU (R202) -/
  | vcgeu (gd : Guard) (xb : Bool) (md : BitVec 5) (va : BitVec 6) (b : BitVec 6)
  /-- VFEQ (R202) -/
  | vfeq (gd : Guard) (ex : Exc) (xb : Bool) (md : BitVec 5) (va : BitVec 6) (b : BitVec 6)
  /-- VFLT (R202) -/
  | vflt (gd : Guard) (ex : Exc) (xb : Bool) (md : BitVec 5) (va : BitVec 6) (b : BitVec 6)
  /-- VFLE (R202) -/
  | vfle (gd : Guard) (ex : Exc) (xb : Bool) (md : BitVec 5) (va : BitVec 6) (b : BitVec 6)
  /-- VFUNORD (R202) -/
  | vfunord (gd : Guard) (ex : Exc) (xb : Bool) (md : BitVec 5) (va : BitVec 6) (b : BitVec 6)
  /-- MAND (R203) -/
  | mand (gd : Guard) (md : BitVec 5) (ma : BitVec 5) (mb : BitVec 5)
  /-- MOR (R203) -/
  | mor (gd : Guard) (md : BitVec 5) (ma : BitVec 5) (mb : BitVec 5)
  /-- MXOR (R203) -/
  | mxor (gd : Guard) (md : BitVec 5) (ma : BitVec 5) (mb : BitVec 5)
  /-- MANDN (R203) -/
  | mandn (gd : Guard) (md : BitVec 5) (ma : BitVec 5) (mb : BitVec 5)
  /-- MNOT (R203) -/
  | mnot (gd : Guard) (md : BitVec 5) (ma : BitVec 5)
  /-- MMOV (R203) -/
  | mmov (gd : Guard) (md : BitVec 5) (ma : BitVec 5)
  /-- MSHL (R203) -/
  | mshl (gd : Guard) (md : BitVec 5) (ma : BitVec 5)
  /-- MSHR (R203) -/
  | mshr (gd : Guard) (md : BitVec 5) (ma : BitVec 5)
  /-- MSET (R203) -/
  | mset (gd : Guard) (md : BitVec 5)
  /-- MCLR (R203) -/
  | mclr (gd : Guard) (md : BitVec 5)
  /-- MRDD (R203) -/
  | mrdd (gd : Guard) (md : BitVec 5)
  /-- MWRD (R203) -/
  | mwrd (gd : Guard) (ma : BitVec 5)
  /-- MPOP (R204) -/
  | mpop (xd : BitVec 5) (ma : BitVec 5)
  /-- MFFS (R204) -/
  | mffs (xd : BitVec 5) (ma : BitVec 5)
  /-- MFLS (R204) -/
  | mfls (xd : BitVec 5) (ma : BitVec 5)
  /-- VSLIDEUP (R206) -/
  | vslideup (gd : Guard) (vd : BitVec 6) (va : BitVec 6) (xb : BitVec 5)
  /-- VSLIDEDN (R206) -/
  | vslidedn (gd : Guard) (vd : BitVec 6) (va : BitVec 6) (xb : BitVec 5)
  /-- VPERM (R206) -/
  | vperm (gd : Guard) (vd : BitVec 6) (va : BitVec 6) (vb : BitVec 6)
  /-- VBCAST (R206) -/
  | vbcast (gd : Guard) (vd : BitVec 6) (xa : BitVec 5)
  /-- VCOMPRESS (R206) -/
  | vcompress (vd : BitVec 6) (va : BitVec 6) (mb : BitVec 5)
  /-- VEXPAND (R206) -/
  | vexpand (vd : BitVec 6) (va : BitVec 6) (mb : BitVec 5)
  /-- VEXT (R206) -/
  | vext (xd : BitVec 5) (va : BitVec 6) (xb : BitVec 5)
  /-- VINS (R206) -/
  | vins (vd : BitVec 6) (xa : BitVec 5) (xb : BitVec 5)
  /-- VREDO_FADD (R42) -/
  | vredoFadd (gd : Guard) (fp16 : Bool) (xd : BitVec 5) (va : BitVec 6) (xb : BitVec 5)
  /-- VREDT_FADD (R43) -/
  | vredtFadd (gd : Guard) (fp16 : Bool) (xd : BitVec 5) (va : BitVec 6) (xb : BitVec 5)
  /-- VRED_FMAX (R207) -/
  | vredFmax (gd : Guard) (fp16 : Bool) (xd : BitVec 5) (va : BitVec 6) (xb : BitVec 5)
  /-- VRED_FMIN (R207) -/
  | vredFmin (gd : Guard) (fp16 : Bool) (xd : BitVec 5) (va : BitVec 6) (xb : BitVec 5)
  /-- VRED_ADD (R207) -/
  | vredAdd (gd : Guard) (xd : BitVec 5) (va : BitVec 6) (xb : BitVec 5)
  /-- VRED_AND (R207) -/
  | vredAnd (gd : Guard) (xd : BitVec 5) (va : BitVec 6) (xb : BitVec 5)
  /-- VRED_OR (R207) -/
  | vredOr (gd : Guard) (xd : BitVec 5) (va : BitVec 6) (xb : BitVec 5)
  /-- VRED_XOR (R207) -/
  | vredXor (gd : Guard) (xd : BitVec 5) (va : BitVec 6) (xb : BitVec 5)
  /-- VRED_MAX (R207) -/
  | vredMax (gd : Guard) (xd : BitVec 5) (va : BitVec 6) (xb : BitVec 5)
  /-- VRED_MIN (R207) -/
  | vredMin (gd : Guard) (xd : BitVec 5) (va : BitVec 6) (xb : BitVec 5)
  /-- VRED_MAXU (R207) -/
  | vredMaxu (gd : Guard) (xd : BitVec 5) (va : BitVec 6) (xb : BitVec 5)
  /-- VRED_MINU (R207) -/
  | vredMinu (gd : Guard) (xd : BitVec 5) (va : BitVec 6) (xb : BitVec 5)
  /-- VCVT_F64_F32 (R208) -/
  | vcvtF64F32 (gd : Guard) (ex : Exc) (rm : BitVec 4) (vd : BitVec 6) (va : BitVec 6)
  /-- VCVT_F32_F64 (R208) -/
  | vcvtF32F64 (gd : Guard) (ex : Exc) (rm : BitVec 4) (vd : BitVec 6) (va : BitVec 6)
  /-- VCVT_F32_I64 (R208) -/
  | vcvtF32I64 (gd : Guard) (ex : Exc) (rm : BitVec 4) (vd : BitVec 6) (va : BitVec 6)
  /-- VCVT_I64_F32 (R208) -/
  | vcvtI64F32 (gd : Guard) (ex : Exc) (rm : BitVec 4) (vd : BitVec 6) (va : BitVec 6)
  /-- VCVT_F64_I64 (R208) -/
  | vcvtF64I64 (gd : Guard) (ex : Exc) (rm : BitVec 4) (vd : BitVec 6) (va : BitVec 6)
  /-- VCVT_I64_F64 (R208) -/
  | vcvtI64F64 (gd : Guard) (ex : Exc) (rm : BitVec 4) (vd : BitVec 6) (va : BitVec 6)
  /-- VCVT_BF16_F32 (R208) -/
  | vcvtBf16F32 (gd : Guard) (ex : Exc) (rm : BitVec 4) (vd : BitVec 6) (va : BitVec 6)
  /-- VCVT_F32_BF16 (R208) -/
  | vcvtF32Bf16 (gd : Guard) (ex : Exc) (rm : BitVec 4) (vd : BitVec 6) (va : BitVec 6)
  /-- VCVT_FP16_F32 (R208) -/
  | vcvtFp16F32 (gd : Guard) (ex : Exc) (rm : BitVec 4) (vd : BitVec 6) (va : BitVec 6)
  /-- VCVT_F32_FP16 (R208) -/
  | vcvtF32Fp16 (gd : Guard) (ex : Exc) (rm : BitVec 4) (vd : BitVec 6) (va : BitVec 6)
  /-- VCVT_E4M3_F32 (R208) -/
  | vcvtE4m3F32 (gd : Guard) (ex : Exc) (rm : BitVec 4) (vd : BitVec 6) (va : BitVec 6)
  /-- VCVT_F32_E4M3 (R208) -/
  | vcvtF32E4m3 (gd : Guard) (ex : Exc) (rm : BitVec 4) (vd : BitVec 6) (va : BitVec 6)
  /-- VCVT_E5M2_F32 (R208) -/
  | vcvtE5m2F32 (gd : Guard) (ex : Exc) (rm : BitVec 4) (vd : BitVec 6) (va : BitVec 6)
  /-- VCVT_F32_E5M2 (R208) -/
  | vcvtF32E5m2 (gd : Guard) (ex : Exc) (rm : BitVec 4) (vd : BitVec 6) (va : BitVec 6)
  /-- VCVT_LG_F32 (R208) -/
  | vcvtLgF32 (gd : Guard) (ex : Exc) (rm : BitVec 4) (vd : BitVec 6) (va : BitVec 6)
  /-- VCVT_F32_LG (R208) -/
  | vcvtF32Lg (gd : Guard) (ex : Exc) (rm : BitVec 4) (vd : BitVec 6) (va : BitVec 6)
  /-- VLD (R209) -/
  | vld (vd : BitVec 6) (xa : BitVec 5) (imm : BitVec 22)
  /-- VLDFF (R212) -/
  | vldff (vd : BitVec 6) (xa : BitVec 5) (imm : BitVec 22)
  /-- VLDV (R213) -/
  | vldv (vd : BitVec 6) (xa : BitVec 5) (imm : BitVec 22)
  /-- VLDSP (R214) -/
  | vldsp (vd : BitVec 6) (xa : BitVec 5) (imm : BitVec 22)
  /-- VLDS (R209) -/
  | vlds (gd : Guard) (vd : BitVec 6) (xa : BitVec 5) (xb : BitVec 5)
  /-- VLDX (R209) -/
  | vldx (gd : Guard) (vd : BitVec 6) (xa : BitVec 5) (vb : BitVec 6)
  /-- VLDL (R215) -/
  | vldl (gd : Guard) (vd : BitVec 6) (xa : BitVec 5) (vb : BitVec 6)
  /-- VLDXV (R213) -/
  | vldxv (gd : Guard) (vd : BitVec 6) (xa : BitVec 5) (vb : BitVec 6)
  /-- VST (R209) -/
  | vst (gd : Guard) (vd : BitVec 6) (xa : BitVec 5)
  /-- VSTS (R209) -/
  | vsts (gd : Guard) (vd : BitVec 6) (xa : BitVec 5) (xb : BitVec 5)
  /-- VSTX (R209) -/
  | vstx (gd : Guard) (vd : BitVec 6) (xa : BitVec 5) (vb : BitVec 6)
  /-- VSTL (R215) -/
  | vstl (gd : Guard) (vd : BitVec 6) (xa : BitVec 5) (vb : BitVec 6)
  /-- VSTMC (R216) -/
  | vstmc (gd : Guard) (vd : BitVec 6) (xa : BitVec 5)
  /-- VSTRC (R217) -/
  | vstrc (gd : Guard) (vd : BitVec 6) (xa : BitVec 5) (xb : BitVec 5)
  /-- VSTSP (R214) -/
  | vstsp (gd : Guard) (vd : BitVec 6) (xa : BitVec 5)
  /-- VAMO_ADD (R219) -/
  | vamoAdd (gd : Guard) (old : Bool) (vd : BitVec 6) (xa : BitVec 5) (vb : BitVec 6) (vc : BitVec 6)
  /-- VAMO_AND (R219) -/
  | vamoAnd (gd : Guard) (old : Bool) (vd : BitVec 6) (xa : BitVec 5) (vb : BitVec 6) (vc : BitVec 6)
  /-- VAMO_OR (R219) -/
  | vamoOr (gd : Guard) (old : Bool) (vd : BitVec 6) (xa : BitVec 5) (vb : BitVec 6) (vc : BitVec 6)
  /-- VAMO_XOR (R219) -/
  | vamoXor (gd : Guard) (old : Bool) (vd : BitVec 6) (xa : BitVec 5) (vb : BitVec 6) (vc : BitVec 6)
  /-- VAMO_MAX (R219) -/
  | vamoMax (gd : Guard) (old : Bool) (vd : BitVec 6) (xa : BitVec 5) (vb : BitVec 6) (vc : BitVec 6)
  /-- VAMO_MIN (R219) -/
  | vamoMin (gd : Guard) (old : Bool) (vd : BitVec 6) (xa : BitVec 5) (vb : BitVec 6) (vc : BitVec 6)
  /-- VAMO_SWAP (R219) -/
  | vamoSwap (gd : Guard) (old : Bool) (vd : BitVec 6) (xa : BitVec 5) (vb : BitVec 6) (vc : BitVec 6)
  /-- VAMO_FADD (R219) -/
  | vamoFadd (gd : Guard) (old : Bool) (vd : BitVec 6) (xa : BitVec 5) (vb : BitVec 6) (vc : BitVec 6)
  /-- MMA (R255) -/
  | mma (zd : BitVec 4) (va : BitVec 6) (xb : BitVec 5) (ta : BitVec 3) (tb : BitVec 3) (keep : Bool) (brace : Bool) (clear : Bool)
  /-- MMAFF (R261) -/
  | mmaff (zd : BitVec 4) (va : BitVec 6) (xb : BitVec 5) (xc : BitVec 5) (ta : BitVec 3) (tb : BitVec 3) (keep : Bool) (clear : Bool)
  /-- ZCLR (R264) -/
  | zclr (zd : BitVec 4)
  /-- ZLD (R264) -/
  | zld (zd : BitVec 4) (xa : BitVec 5)
  /-- ZST (R264) -/
  | zst (zd : BitVec 4) (xa : BitVec 5)
  /-- ZRD (R265) -/
  | zrd (vd : BitVec 6) (za : BitVec 4) (q : BitVec 4)
  /-- ZWR (R265) -/
  | zwr (zd : BitVec 4) (va : BitVec 6) (q : BitVec 4)
  /-- ZCVT (R267) -/
  | zcvt (zd : BitVec 4) (xa : BitVec 5) (src : BitVec 5) (tgt : BitVec 4)
  /-- TLWAIT (R269) -/
  | tlwait (gd : Guard) (xa : BitVec 5) (xb : BitVec 5) (sc : BitVec 4)
  /-- TLWAIT_RETURN (R242) -/
  | tlwaitReturn (p : Nat) (r : Nat)
  /-- TLPOST (R271) -/
  | tlpost (gd : Guard) (xa : BitVec 5) (xb : BitVec 5) (sc : BitVec 4)
  /-- TLPOST_APPLY (R271) -/
  | tlpostApply (p : Nat) (r : Nat)
  /-- RINGDEF (R273) -/
  | ringdef (n : BitVec 3) (xa : BitVec 5) (xb : BitVec 5) (xc : BitVec 5) (stages : BitVec 5)
  /-- RINGARR (R274) -/
  | ringarr (n : BitVec 3)
  /-- RINGGEN (R274) -/
  | ringgen (xd : BitVec 5) (n : BitVec 3)
  /-- RINGFREE (R275) -/
  | ringfree (n : BitVec 3)
  /-- RING_ARRIVAL_COUNT (R245) -/
  | ringArrivalCount (p : Nat) (r : Nat)
  /-- RING_STALL_END (R244) -/
  | ringStallEnd (p : Nat) (r : Nat)
  /-- AMO_ADD (R351) -/
  | amoAdd (gd : Guard) (xd : BitVec 5) (xa : BitVec 5) (xb : BitVec 5) (ord : BitVec 2) (sc : BitVec 3) (w32 : Bool)
  /-- AMO_AND (R351) -/
  | amoAnd (gd : Guard) (xd : BitVec 5) (xa : BitVec 5) (xb : BitVec 5) (ord : BitVec 2) (sc : BitVec 3) (w32 : Bool)
  /-- AMO_OR (R351) -/
  | amoOr (gd : Guard) (xd : BitVec 5) (xa : BitVec 5) (xb : BitVec 5) (ord : BitVec 2) (sc : BitVec 3) (w32 : Bool)
  /-- AMO_XOR (R351) -/
  | amoXor (gd : Guard) (xd : BitVec 5) (xa : BitVec 5) (xb : BitVec 5) (ord : BitVec 2) (sc : BitVec 3) (w32 : Bool)
  /-- AMO_MAX (R351) -/
  | amoMax (gd : Guard) (xd : BitVec 5) (xa : BitVec 5) (xb : BitVec 5) (ord : BitVec 2) (sc : BitVec 3) (w32 : Bool)
  /-- AMO_MIN (R351) -/
  | amoMin (gd : Guard) (xd : BitVec 5) (xa : BitVec 5) (xb : BitVec 5) (ord : BitVec 2) (sc : BitVec 3) (w32 : Bool)
  /-- AMO_MAXU (R351) -/
  | amoMaxu (gd : Guard) (xd : BitVec 5) (xa : BitVec 5) (xb : BitVec 5) (ord : BitVec 2) (sc : BitVec 3) (w32 : Bool)
  /-- AMO_MINU (R351) -/
  | amoMinu (gd : Guard) (xd : BitVec 5) (xa : BitVec 5) (xb : BitVec 5) (ord : BitVec 2) (sc : BitVec 3) (w32 : Bool)
  /-- AMO_SWAP (R351) -/
  | amoSwap (gd : Guard) (xd : BitVec 5) (xa : BitVec 5) (xb : BitVec 5) (ord : BitVec 2) (sc : BitVec 3) (w32 : Bool)
  /-- AMO_CAS (R351) -/
  | amoCas (gd : Guard) (xd : BitVec 5) (xa : BitVec 5) (xb : BitVec 5) (xc : BitVec 5) (ord : BitVec 2) (sc : BitVec 3) (w32 : Bool)
  /-- AMO_FADD (R352) -/
  | amoFadd (gd : Guard) (xd : BitVec 5) (xa : BitVec 5) (xb : BitVec 5) (ord : BitVec 2) (sc : BitVec 3) (w32 : Bool)
  /-- LDA (R356) -/
  | lda (gd : Guard) (xd : BitVec 5) (xa : BitVec 5) (sc : BitVec 4)
  /-- LDA32 (R356) -/
  | lda32 (gd : Guard) (xd : BitVec 5) (xa : BitVec 5) (sc : BitVec 4)
  /-- STRL (R356) -/
  | strl (gd : Guard) (xd : BitVec 5) (xa : BitVec 5) (sc : BitVec 4)
  /-- STRL32 (R356) -/
  | strl32 (gd : Guard) (xd : BitVec 5) (xa : BitVec 5) (sc : BitVec 4)
  /-- FENCE (R358) -/
  | fence (sc : BitVec 6)
  /-- FENCE_ACQ (R358) -/
  | fenceAcq (sc : BitVec 6)
  /-- FENCE_REL (R358) -/
  | fenceRel (sc : BitVec 6)
  /-- BAR_ARRIVE (R364) -/
  | barArrive (n : BitVec 6)
  /-- BAR_WAIT (R365) -/
  | barWait (n : BitVec 6)
  /-- BAR_SYNC (R365) -/
  | barSync (n : BitVec 6)
  /-- BAR_ARRIVAL_COUNT (R364) -/
  | barArrivalCount (p : Nat) (r : Nat)
  /-- BAR_WAIT_RETURN (R365) -/
  | barWaitReturn (p : Nat) (r : Nat)
  /-- TXBEGIN (R433) -/
  | txbegin (xd : BitVec 5)
  /-- TXCOMMIT (R434) -/
  | txcommit (xd : BitVec 5)
  /-- SNOPEN (R429) -/
  | snopen (xd : BitVec 5)
  /-- SNCLOSE (R429) -/
  | snclose (xd : BitVec 5) (xa : BitVec 5)
  /-- SNSET (R429) -/
  | snset (xa : BitVec 5)
  /-- XDRED (R490) -/
  | xdred (gd : Guard) (vd : BitVec 6) (xa : BitVec 5) (op : BitVec 4)
  /-- XDRED_COMPLETE (R490) -/
  | xdredComplete (p : Nat) (r : Nat) (peers : List PeerStrip)
  /-- XDRED_TIMEOUT (R491) -/
  | xdredTimeout (p : Nat) (r : Nat)
  /-- RUN_LIMIT (R63) -/
  | runLimit (t : Agent)
  /-- RELEASE (R103) -/
  | release (p : Nat) (r : Nat) (leash : BitVec 48)
  /-- STRAND_FAULT_TRAP (R112) -/
  | strandFaultTrap (p : Nat) (r : Nat)
  /-- MACHINE_CHECK (R297) -/
  | machineCheck (p : Nat) (r : Nat)
  /-- VQUEUE_EXECUTE (R191) -/
  | vqueueExecute (p : Nat) (r : Nat)
  /-- RFETCH_TAKE_EFFECT (R104) -/
  | rfetchTakeEffect (p : Nat) (r : Nat)
  /-- RWAIT_COMPLETE (R197) -/
  | rwaitComplete (p : Nat) (r : Nat)
  /-- COPY_START (R235) -/
  | copyStart (j : Nat)
  /-- COPY_COMPLETE (R236) -/
  | copyComplete (j : Nat)
  /-- PREEMPT_WITHDRAW (R285) -/
  | preemptWithdraw (p : Nat)
  /-- SETVL_SAVE (R286) -/
  | setvlSave (p : Nat)
  /-- FORCED_SAVE (R287) -/
  | forcedSave (p : Nat) (discard : Bool)
  /-- PACK_RESUME (R289) -/
  | packResume
  /-- CORE_QUIESCE (R168) -/
  | coreQuiesce (core : Nat)
  /-- SECDED_ERROR (R296) -/
  | secdedError (core : Nat) (err : SramError)
  /-- LANE_GROUP_GATE (R169) -/
  | laneGroupGate (core : Nat) (grp : Nat)
  /-- LANE_GROUP_WAKE (R169) -/
  | laneGroupWake (core : Nat) (grp : Nat)
  /-- STRIP_AHEAD_HINT (R175) -/
  | stripAheadHint (p : Nat) (r : Nat)
  /-- L2_ERROR (R326) -/
  | l2Error (cluster : Nat) (bank : Nat) (way : Nat) (kind : L2ErrorKind) (line : Nat)
  /-- BENES_PARITY_ERROR (R318) -/
  | benesParityError (core : Nat) (again : Bool)
  /-- PAGE_WALK (R324) -/
  | pageWalk (core : Nat) (ctx : Nat) (va : BitVec 64) (kind : AccessKind) (user : Bool)
  /-- TLB_PARITY_ERROR (R325) -/
  | tlbParityError (cluster : Nat) (idx : Nat)
  /-- HBM_ERROR (R408) -/
  | hbmError (line : Nat) (kind : HbmErrorKind)
  /-- CHANNEL_FAIL (R409) -/
  | channelFail (stack : Nat) (chan : Nat)
  /-- SLOT_TABLE_EDIT (R373) -/
  | slotTableEdit (die : Nat) (edit : SlotEdit)
  /-- ROUTER_PARITY_ERROR (R393) -/
  | routerParityError (die : Nat) (router : Nat) (port : Nat) (slot : Nat)
  /-- LAUNCH_RECORD_TAKE (R378) -/
  | launchRecordTake (ctx : Nat) (q : Nat)
  /-- LAUNCH_SELECT (R381) -/
  | launchSelect
  /-- PACK_PLACE (R383) -/
  | packPlace
  /-- SWAP_EXPIRY (R388) -/
  | swapExpiry (die : Nat)
  /-- LAUNCH_COMPLETE (R390) -/
  | launchComplete (l : Nat)
  /-- CRUMB_RECLAIM (R438) -/
  | crumbReclaim (line : Nat)
  /-- OSPEC_COMMIT (R440) -/
  | ospecCommit (p : Nat)
  /-- ADTAN_TRANSLATE (R451) -/
  | adtanTranslate (ctx : Nat) (tr : Translation)
  /-- SAMPLE_RECORD (R464) -/
  | sampleRecord (core : Nat) (entries : List (BitVec 64))
  /-- TRACE_SUMMARY (R463) -/
  | traceSummary (p : Nat) (r : Nat)
  /-- DOORBELL (R475) -/
  | doorbell (part : Nat) (off : Nat) (value : BitVec 64)
  /-- HOST_MEM_ACCESS (R474) -/
  | hostMemAccess (stream : Nat) (pa : Nat) (acc : HostAccess)
  /-- PART_CREATE (R480) -/
  | partCreate (cmd : Cmd) (slotShare : Nat) (snapShare : Nat) (ownerKey : Option (BitVec 256)) (mailbox : Nat)
  /-- PART_DESTROY (R480) -/
  | partDestroy (cmd : Cmd)
  /-- GRANULE_ASSIGN (R420) -/
  | granuleAssign (cmd : Cmd) (base : Nat) (count : Nat)
  /-- GRANULE_REMOVE (R480) -/
  | granuleRemove (cmd : Cmd) (base : Nat) (count : Nat)
  /-- EXEC_LOAD (R480) -/
  | execLoad (cmd : Cmd) (image : List (BitVec 8)) (signedBy : Signer)
  /-- CTX_CREATE (R481) -/
  | ctxCreate (cmd : Cmd) (block : Nat)
  /-- CTX_DESTROY (R480) -/
  | ctxDestroy (cmd : Cmd) (ctx : Nat)
  /-- DEBUG_GRANT (R480) -/
  | debugGrant (cmd : Cmd) (ctx : Nat)
  /-- DEBUG_REVOKE (R465) -/
  | debugRevoke (cmd : Cmd) (ctx : Nat)
  /-- DEBUG_SET_COMPARATOR (R456) -/
  | debugSetComparator (cmd : Cmd) (ctx : Nat) (core : Nat) (idx : Nat) (cmp : Option Comparator)
  /-- DEBUG_HALT (R460) -/
  | debugHalt (cmd : Cmd) (p : Nat) (r : Nat)
  /-- DEBUG_RELEASE (R460) -/
  | debugRelease (cmd : Cmd) (p : Nat) (r : Nat)
  /-- DEBUG_STATE_ACCESS (R460) -/
  | debugStateAccess (cmd : Cmd) (p : Nat) (r : Nat) (acc : DebugAccess)
  /-- DEBUG_HISTORY_READ (R462) -/
  | debugHistoryRead (cmd : Cmd) (p : Nat) (r : Nat)
  /-- DEBUG_TRACE_SET (R463) -/
  | debugTraceSet (cmd : Cmd) (ctx : Nat) (core : Nat) (set : Option TraceSet)
  /-- DEBUG_SAMPLE_SET (R464) -/
  | debugSampleSet (cmd : Cmd) (ctx : Nat) (core : Nat) (set : Option SampleSet)
  /-- HEALTH (R480) -/
  | health (cmd : Cmd)
  /-- FAIL_UNIT (R480) -/
  | failUnit (cmd : Cmd) (unit : FailUnit)
  /-- POISON_CLEAR (R411) -/
  | poisonClear (cmd : Cmd) (line : Nat)
  /-- RESET (R480) -/
  | reset (cmd : Cmd)
  /-- PATCH_LOAD (R81) -/
  | patchLoad (cmd : Cmd) (image : List (BitVec 8)) (signedBy : Signer)
  /-- SET_PARAM (R388) -/
  | setParam (cmd : Cmd) (par : Param)
  /-- LINK_SESSION (R484) -/
  | linkSession (cmd : Cmd) (tdev : Nat) (route : List Nat) (digestOk : Bool)
  /-- LAUNCH_END (R389) -/
  | launchEnd (cmd : Cmd) (ctx : Nat) (lid : BitVec 32)
  /-- GET_MEASUREMENTS (R478) -/
  | getMeasurements (part : Nat)
  /-- STOP_INTERFACE (R476) -/
  | stopInterface (part : Nat)
  /-- KEY_UPDATE (R483) -/
  | keyUpdate (tdev : Nat)
  /-- LINK_FLIT_RECEIVE (R482) -/
  | linkFlitReceive (link : Nat) (flit : List (BitVec 8)) (tagOk : Bool)
  /-- LINK_DOWN (R486) -/
  | linkDown (link : Nat)
  /-- THERMAL_LIMIT (R493) -/
  | thermalLimit (die : Nat)
  /-- PACKAGE_RESET (R492) -/
  | packageReset
  /-- ILLEGAL_INSTRUCTION (R70) -/
  | illegalInstruction (raw : BitVec 64)
  /-- PATCH_SUBSTITUTE (R80) -/
  | patchSubstitute (entry : Nat)
  /-- WRITE_BECOMES_VISIBLE (R333) -/
  | writeBecomesVisible (core : Nat) (idx : Nat)
  /-- COUNTED_LINE_EVICTION (R416) -/
  | countedLineEviction (line : Nat)
  /-- LOCK_INTERFACE (R476) -/
  | lockInterface (part : Nat)
  /-- START_INTERFACE (R476) -/
  | startInterface (part : Nat)
  /-- SPDM_REQUEST (R477) -/
  | spdmRequest (req : SpdmRequest)
  /-- REMOTE_ACCESS (R421) -/
  | remoteAccess (tdev : Nat) (pa : Nat) (acc : RemoteOp)
  deriving DecidableEq, Repr

/-- The kind of an instruction (R9); `hw` marks the rows that no thread issues. -/
inductive Kind where
  | s | t | c | hw
  deriving DecidableEq, Repr

/-- The kind of each instruction (R69). ILLEGAL_INSTRUCTION and PATCH_SUBSTITUTE arise in either thread kind. -/
def Instr.kind : Instr → Kind
  | .nop => .s
  | .stop => .t
  | .halt => .s
  | .heel => .t
  | .rwait => .c
  | .brk => .s
  | .tret => .s
  | .vdrainLd => .c
  | .vdrainSt => .c
  | .vdrain => .c
  | .txabort => .c
  | .add _ _ _ => .s
  | .sub _ _ _ => .s
  | .and _ _ _ => .s
  | .or _ _ _ => .s
  | .xor _ _ _ => .s
  | .andn _ _ _ => .s
  | .sll _ _ _ => .s
  | .srl _ _ _ => .s
  | .sra _ _ _ => .s
  | .rol _ _ _ => .s
  | .min _ _ _ => .s
  | .max _ _ _ => .s
  | .minu _ _ _ => .s
  | .maxu _ _ _ => .s
  | .addw _ _ _ => .s
  | .subw _ _ _ => .s
  | .mul _ _ _ => .s
  | .mulh _ _ _ => .s
  | .mulhu _ _ _ => .s
  | .div _ _ _ => .s
  | .divu _ _ _ => .s
  | .rem _ _ _ => .s
  | .remu _ _ _ => .s
  | .mulw _ _ _ => .s
  | .clz _ _ => .s
  | .ctz _ _ => .s
  | .popc _ _ => .s
  | .bswap _ _ => .s
  | .brev _ _ => .s
  | .sxb _ _ => .s
  | .sxh _ _ => .s
  | .sxw _ _ => .s
  | .zxw _ _ => .s
  | .addi _ _ _ => .s
  | .andi _ _ _ => .s
  | .ori _ _ _ => .s
  | .xori _ _ _ => .s
  | .slli _ _ _ => .s
  | .srli _ _ _ => .s
  | .srai _ _ _ => .s
  | .roli _ _ _ => .s
  | .li _ _ => .s
  | .lhi _ _ => .s
  | .sel _ _ _ _ => .s
  | .adda _ _ _ _ _ => .s
  | .ceq _ _ _ => .s
  | .cne _ _ _ => .s
  | .clt _ _ _ => .s
  | .cge _ _ _ => .s
  | .cltu _ _ _ => .s
  | .cgeu _ _ _ => .s
  | .ceqi _ _ _ => .s
  | .cnei _ _ _ => .s
  | .clti _ _ _ => .s
  | .cgei _ _ _ => .s
  | .cltui _ _ _ => .s
  | .cgeui _ _ _ => .s
  | .pand _ _ _ => .s
  | .por _ _ _ => .s
  | .pxor _ _ _ => .s
  | .pandn _ _ _ => .s
  | .pnot _ _ => .s
  | .pmov _ _ => .s
  | .ld8 _ _ _ => .s
  | .ld16 _ _ _ => .s
  | .ld32 _ _ _ => .s
  | .ld64 _ _ _ => .s
  | .ld8s _ _ _ => .s
  | .ld16s _ _ _ => .s
  | .ld32s _ _ _ => .s
  | .st8 _ _ _ => .s
  | .st16 _ _ _ => .s
  | .st32 _ _ _ => .s
  | .st64 _ _ _ => .s
  | .ldl8 _ _ _ => .s
  | .ldl16 _ _ _ => .s
  | .ldl32 _ _ _ => .s
  | .ldl64 _ _ _ => .s
  | .stl8 _ _ _ => .s
  | .stl16 _ _ _ => .s
  | .stl32 _ _ _ => .s
  | .stl64 _ _ _ => .s
  | .ldv8 _ _ _ => .s
  | .ldv16 _ _ _ => .s
  | .ldv32 _ _ _ => .s
  | .ldv64 _ _ _ => .s
  | .br _ _ _ => .s
  | .jmp _ => .s
  | .call _ _ => .s
  | .jmpr _ => .s
  | .callr _ _ => .s
  | .ret _ => .s
  | .fetch _ => .t
  | .fetchr _ => .t
  | .leash _ => .t
  | .leashr _ => .t
  | .qsendQ0 _ => .t
  | .qsendQ1 _ => .t
  | .qrecvQ0 _ => .t
  | .qrecvQ1 _ => .t
  | .xqpushQ0 _ => .c
  | .xqpushQ1 _ => .c
  | .xqpopQ0 _ => .c
  | .xqpopQ1 _ => .c
  | .queueWaitComplete _ => .hw
  | .faddS _ _ _ _ _ _ => .s
  | .fsubS _ _ _ _ _ _ => .s
  | .fmulS _ _ _ _ _ _ => .s
  | .fdivS _ _ _ _ _ _ => .s
  | .fminS _ _ _ _ _ => .s
  | .fmaxS _ _ _ _ _ => .s
  | .fsqrtS _ _ _ _ _ => .s
  | .fabsS _ _ _ _ => .s
  | .fnegS _ _ _ _ => .s
  | .faddD _ _ _ _ _ _ => .s
  | .fsubD _ _ _ _ _ _ => .s
  | .fmulD _ _ _ _ _ _ => .s
  | .fdivD _ _ _ _ _ _ => .s
  | .fminD _ _ _ _ _ => .s
  | .fmaxD _ _ _ _ _ => .s
  | .fsqrtD _ _ _ _ _ => .s
  | .fabsD _ _ _ _ => .s
  | .fnegD _ _ _ _ => .s
  | .ffmaS _ _ _ _ _ _ _ => .s
  | .ffmsS _ _ _ _ _ _ _ => .s
  | .ffnmaS _ _ _ _ _ _ _ => .s
  | .ffmaD _ _ _ _ _ _ _ => .s
  | .ffmsD _ _ _ _ _ _ _ => .s
  | .ffnmaD _ _ _ _ _ _ _ => .s
  | .feqS _ _ _ => .s
  | .fltS _ _ _ => .s
  | .fleS _ _ _ => .s
  | .funordS _ _ _ => .s
  | .feqD _ _ _ => .s
  | .fltD _ _ _ => .s
  | .fleD _ _ _ => .s
  | .funordD _ _ _ => .s
  | .cvtF64F32 _ _ _ _ _ => .s
  | .cvtF32F64 _ _ _ _ _ => .s
  | .cvtF32I64 _ _ _ _ _ => .s
  | .cvtI64F32 _ _ _ _ _ => .s
  | .cvtF64I64 _ _ _ _ _ => .s
  | .cvtI64F64 _ _ _ _ _ => .s
  | .cvtBf16F32 _ _ _ _ _ => .s
  | .cvtF32Bf16 _ _ _ _ _ => .s
  | .cvtFp16F32 _ _ _ _ _ => .s
  | .cvtF32Fp16 _ _ _ _ _ => .s
  | .cvtE4m3F32 _ _ _ _ _ => .s
  | .cvtF32E4m3 _ _ _ _ _ => .s
  | .cvtE5m2F32 _ _ _ _ _ => .s
  | .cvtF32E5m2 _ _ _ _ _ => .s
  | .cvtLgF32 _ _ _ _ _ => .s
  | .cvtF32Lg _ _ _ _ _ => .s
  | .getsr _ _ _ => .s
  | .setsr _ _ _ => .s
  | .cpgo _ => .s
  | .trap _ _ => .s
  | .rdcyc _ => .s
  | .rfetch _ => .c
  | .rfetchIdem _ => .c
  | .rfetchr _ => .c
  | .rfetchrIdem _ => .c
  | .setvl _ _ _ => .c
  | .launch _ _ => .c
  | .vadd _ _ _ _ => .c
  | .vsub _ _ _ _ => .c
  | .vmul _ _ _ _ => .c
  | .vmulh _ _ _ _ => .c
  | .vand _ _ _ _ => .c
  | .vor _ _ _ _ => .c
  | .vxor _ _ _ _ => .c
  | .vsll _ _ _ _ => .c
  | .vsrl _ _ _ _ => .c
  | .vsra _ _ _ _ => .c
  | .vmin _ _ _ _ => .c
  | .vmax _ _ _ _ => .c
  | .vminu _ _ _ _ => .c
  | .vmaxu _ _ _ _ => .c
  | .vadc _ _ _ _ _ _ => .c
  | .vsbc _ _ _ _ _ _ => .c
  | .vaddVx _ _ _ _ => .c
  | .vsubVx _ _ _ _ => .c
  | .vmulVx _ _ _ _ => .c
  | .vmulhVx _ _ _ _ => .c
  | .vandVx _ _ _ _ => .c
  | .vorVx _ _ _ _ => .c
  | .vxorVx _ _ _ _ => .c
  | .vsllVx _ _ _ _ => .c
  | .vsrlVx _ _ _ _ => .c
  | .vsraVx _ _ _ _ => .c
  | .vminVx _ _ _ _ => .c
  | .vmaxVx _ _ _ _ => .c
  | .vminuVx _ _ _ _ => .c
  | .vmaxuVx _ _ _ _ => .c
  | .vadcVx _ _ _ _ _ _ => .c
  | .vsbcVx _ _ _ _ _ _ => .c
  | .vfadd _ _ _ _ _ _ _ => .c
  | .vfsub _ _ _ _ _ _ _ => .c
  | .vfmul _ _ _ _ _ _ _ => .c
  | .vfdiv _ _ _ _ _ _ _ => .c
  | .vfmin _ _ _ _ _ _ => .c
  | .vfmax _ _ _ _ _ _ => .c
  | .vfsqrt _ _ _ _ _ _ => .c
  | .vfma _ _ _ _ _ _ _ _ => .c
  | .vfms _ _ _ _ _ _ _ _ => .c
  | .vfnma _ _ _ _ _ _ _ _ => .c
  | .vfabs _ _ _ _ _ => .c
  | .vfneg _ _ _ _ _ => .c
  | .vceq _ _ _ _ _ => .c
  | .vcne _ _ _ _ _ => .c
  | .vclt _ _ _ _ _ => .c
  | .vcge _ _ _ _ _ => .c
  | .vcltu _ _ _ _ _ => .c
  | .vcgeu _ _ _ _ _ => .c
  | .vfeq _ _ _ _ _ _ => .c
  | .vflt _ _ _ _ _ _ => .c
  | .vfle _ _ _ _ _ _ => .c
  | .vfunord _ _ _ _ _ _ => .c
  | .mand _ _ _ _ => .c
  | .mor _ _ _ _ => .c
  | .mxor _ _ _ _ => .c
  | .mandn _ _ _ _ => .c
  | .mnot _ _ _ => .c
  | .mmov _ _ _ => .c
  | .mshl _ _ _ => .c
  | .mshr _ _ _ => .c
  | .mset _ _ => .c
  | .mclr _ _ => .c
  | .mrdd _ _ => .c
  | .mwrd _ _ => .c
  | .mpop _ _ => .c
  | .mffs _ _ => .c
  | .mfls _ _ => .c
  | .vslideup _ _ _ _ => .c
  | .vslidedn _ _ _ _ => .c
  | .vperm _ _ _ _ => .c
  | .vbcast _ _ _ => .c
  | .vcompress _ _ _ => .c
  | .vexpand _ _ _ => .c
  | .vext _ _ _ => .c
  | .vins _ _ _ => .c
  | .vredoFadd _ _ _ _ _ => .c
  | .vredtFadd _ _ _ _ _ => .c
  | .vredFmax _ _ _ _ _ => .c
  | .vredFmin _ _ _ _ _ => .c
  | .vredAdd _ _ _ _ => .c
  | .vredAnd _ _ _ _ => .c
  | .vredOr _ _ _ _ => .c
  | .vredXor _ _ _ _ => .c
  | .vredMax _ _ _ _ => .c
  | .vredMin _ _ _ _ => .c
  | .vredMaxu _ _ _ _ => .c
  | .vredMinu _ _ _ _ => .c
  | .vcvtF64F32 _ _ _ _ _ => .c
  | .vcvtF32F64 _ _ _ _ _ => .c
  | .vcvtF32I64 _ _ _ _ _ => .c
  | .vcvtI64F32 _ _ _ _ _ => .c
  | .vcvtF64I64 _ _ _ _ _ => .c
  | .vcvtI64F64 _ _ _ _ _ => .c
  | .vcvtBf16F32 _ _ _ _ _ => .c
  | .vcvtF32Bf16 _ _ _ _ _ => .c
  | .vcvtFp16F32 _ _ _ _ _ => .c
  | .vcvtF32Fp16 _ _ _ _ _ => .c
  | .vcvtE4m3F32 _ _ _ _ _ => .c
  | .vcvtF32E4m3 _ _ _ _ _ => .c
  | .vcvtE5m2F32 _ _ _ _ _ => .c
  | .vcvtF32E5m2 _ _ _ _ _ => .c
  | .vcvtLgF32 _ _ _ _ _ => .c
  | .vcvtF32Lg _ _ _ _ _ => .c
  | .vld _ _ _ => .c
  | .vldff _ _ _ => .c
  | .vldv _ _ _ => .c
  | .vldsp _ _ _ => .c
  | .vlds _ _ _ _ => .c
  | .vldx _ _ _ _ => .c
  | .vldl _ _ _ _ => .c
  | .vldxv _ _ _ _ => .c
  | .vst _ _ _ => .c
  | .vsts _ _ _ _ => .c
  | .vstx _ _ _ _ => .c
  | .vstl _ _ _ _ => .c
  | .vstmc _ _ _ => .c
  | .vstrc _ _ _ _ => .c
  | .vstsp _ _ _ => .c
  | .vamoAdd _ _ _ _ _ _ => .c
  | .vamoAnd _ _ _ _ _ _ => .c
  | .vamoOr _ _ _ _ _ _ => .c
  | .vamoXor _ _ _ _ _ _ => .c
  | .vamoMax _ _ _ _ _ _ => .c
  | .vamoMin _ _ _ _ _ _ => .c
  | .vamoSwap _ _ _ _ _ _ => .c
  | .vamoFadd _ _ _ _ _ _ => .c
  | .mma _ _ _ _ _ _ _ _ => .c
  | .mmaff _ _ _ _ _ _ _ _ => .c
  | .zclr _ => .c
  | .zld _ _ => .c
  | .zst _ _ => .c
  | .zrd _ _ _ => .c
  | .zwr _ _ _ => .c
  | .zcvt _ _ _ _ => .c
  | .tlwait _ _ _ _ => .c
  | .tlwaitReturn _ _ => .hw
  | .tlpost _ _ _ _ => .c
  | .tlpostApply _ _ => .hw
  | .ringdef _ _ _ _ _ => .c
  | .ringarr _ => .c
  | .ringgen _ _ => .c
  | .ringfree _ => .c
  | .ringArrivalCount _ _ => .hw
  | .ringStallEnd _ _ => .hw
  | .amoAdd _ _ _ _ _ _ _ => .c
  | .amoAnd _ _ _ _ _ _ _ => .c
  | .amoOr _ _ _ _ _ _ _ => .c
  | .amoXor _ _ _ _ _ _ _ => .c
  | .amoMax _ _ _ _ _ _ _ => .c
  | .amoMin _ _ _ _ _ _ _ => .c
  | .amoMaxu _ _ _ _ _ _ _ => .c
  | .amoMinu _ _ _ _ _ _ _ => .c
  | .amoSwap _ _ _ _ _ _ _ => .c
  | .amoCas _ _ _ _ _ _ _ _ => .c
  | .amoFadd _ _ _ _ _ _ _ => .c
  | .lda _ _ _ _ => .c
  | .lda32 _ _ _ _ => .c
  | .strl _ _ _ _ => .c
  | .strl32 _ _ _ _ => .c
  | .fence _ => .c
  | .fenceAcq _ => .c
  | .fenceRel _ => .c
  | .barArrive _ => .c
  | .barWait _ => .c
  | .barSync _ => .c
  | .barArrivalCount _ _ => .hw
  | .barWaitReturn _ _ => .hw
  | .txbegin _ => .c
  | .txcommit _ => .c
  | .snopen _ => .c
  | .snclose _ _ => .c
  | .snset _ => .c
  | .xdred _ _ _ _ => .c
  | .xdredComplete _ _ _ => .hw
  | .xdredTimeout _ _ => .hw
  | .runLimit _ => .hw
  | .release _ _ _ => .hw
  | .strandFaultTrap _ _ => .hw
  | .machineCheck _ _ => .hw
  | .vqueueExecute _ _ => .hw
  | .rfetchTakeEffect _ _ => .hw
  | .rwaitComplete _ _ => .hw
  | .copyStart _ => .hw
  | .copyComplete _ => .hw
  | .preemptWithdraw _ => .hw
  | .setvlSave _ => .hw
  | .forcedSave _ _ => .hw
  | .packResume => .hw
  | .coreQuiesce _ => .hw
  | .secdedError _ _ => .hw
  | .laneGroupGate _ _ => .hw
  | .laneGroupWake _ _ => .hw
  | .stripAheadHint _ _ => .hw
  | .l2Error _ _ _ _ _ => .hw
  | .benesParityError _ _ => .hw
  | .pageWalk _ _ _ _ _ => .hw
  | .tlbParityError _ _ => .hw
  | .hbmError _ _ => .hw
  | .channelFail _ _ => .hw
  | .slotTableEdit _ _ => .hw
  | .routerParityError _ _ _ _ => .hw
  | .launchRecordTake _ _ => .hw
  | .launchSelect => .hw
  | .packPlace => .hw
  | .swapExpiry _ => .hw
  | .launchComplete _ => .hw
  | .crumbReclaim _ => .hw
  | .ospecCommit _ => .hw
  | .adtanTranslate _ _ => .hw
  | .sampleRecord _ _ => .hw
  | .traceSummary _ _ => .hw
  | .doorbell _ _ _ => .hw
  | .hostMemAccess _ _ _ => .hw
  | .partCreate _ _ _ _ _ => .hw
  | .partDestroy _ => .hw
  | .granuleAssign _ _ _ => .hw
  | .granuleRemove _ _ _ => .hw
  | .execLoad _ _ _ => .hw
  | .ctxCreate _ _ => .hw
  | .ctxDestroy _ _ => .hw
  | .debugGrant _ _ => .hw
  | .debugRevoke _ _ => .hw
  | .debugSetComparator _ _ _ _ _ => .hw
  | .debugHalt _ _ _ => .hw
  | .debugRelease _ _ _ => .hw
  | .debugStateAccess _ _ _ _ => .hw
  | .debugHistoryRead _ _ _ => .hw
  | .debugTraceSet _ _ _ _ => .hw
  | .debugSampleSet _ _ _ _ => .hw
  | .health _ => .hw
  | .failUnit _ _ => .hw
  | .poisonClear _ _ => .hw
  | .reset _ => .hw
  | .patchLoad _ _ _ => .hw
  | .setParam _ _ => .hw
  | .linkSession _ _ _ _ => .hw
  | .launchEnd _ _ _ => .hw
  | .getMeasurements _ => .hw
  | .stopInterface _ => .hw
  | .keyUpdate _ => .hw
  | .linkFlitReceive _ _ _ => .hw
  | .linkDown _ => .hw
  | .thermalLimit _ => .hw
  | .packageReset => .hw
  | .illegalInstruction _ => .s
  | .patchSubstitute _ => .s
  | .writeBecomesVisible _ _ => .hw
  | .countedLineEviction _ => .hw
  | .lockInterface _ => .hw
  | .startInterface _ => .hw
  | .spdmRequest _ => .hw
  | .remoteAccess _ _ _ => .hw

end Sys2Proof
end

