-- ==== Sys2Proof/WellFormed.lean ====
section
/-! DEFINITION. Which instructions the encodings allow: the checks of R55, R58, R72 that a typed operand does not
already make. -/
namespace Sys2Proof

/-- G = 0 with N = 1 is reserved (R55). -/
abbrev Guard.wf (g : Guard) : Prop := ¬ (g.g = 0#5 ∧ g.n = true)

/-- With E = 0, M is 0 (R58). -/
abbrev Exc.wf (x : Exc) : Prop := x.e = true ∨ x.m = 0#5

/-- A well-formed instruction: guard and exception pairs legal (R55, R58), rounding modes 0–5 (R19), scopes 0–5
(R8), matrix types 0–5, ring stages 2–16 (R72), an x operand in x0–x31 (R53), no destination without `old` (R218); `getsr` of register 0x029 is written `cpgo` (R71). Hardware events
and commands have no encoding and no such check. -/
def Instr.WellFormed : Instr → Prop
  | .nop => True
  | .stop => True
  | .halt => True
  | .heel => True
  | .rwait => True
  | .brk => True
  | .tret => True
  | .vdrainLd => True
  | .vdrainSt => True
  | .vdrain => True
  | .txabort => True
  | .add _ _ _ => True
  | .sub _ _ _ => True
  | .and _ _ _ => True
  | .or _ _ _ => True
  | .xor _ _ _ => True
  | .andn _ _ _ => True
  | .sll _ _ _ => True
  | .srl _ _ _ => True
  | .sra _ _ _ => True
  | .rol _ _ _ => True
  | .min _ _ _ => True
  | .max _ _ _ => True
  | .minu _ _ _ => True
  | .maxu _ _ _ => True
  | .addw _ _ _ => True
  | .subw _ _ _ => True
  | .mul _ _ _ => True
  | .mulh _ _ _ => True
  | .mulhu _ _ _ => True
  | .div _ _ _ => True
  | .divu _ _ _ => True
  | .rem _ _ _ => True
  | .remu _ _ _ => True
  | .mulw _ _ _ => True
  | .clz _ _ => True
  | .ctz _ _ => True
  | .popc _ _ => True
  | .bswap _ _ => True
  | .brev _ _ => True
  | .sxb _ _ => True
  | .sxh _ _ => True
  | .sxw _ _ => True
  | .zxw _ _ => True
  | .addi _ _ _ => True
  | .andi _ _ _ => True
  | .ori _ _ _ => True
  | .xori _ _ _ => True
  | .slli _ _ _ => True
  | .srli _ _ _ => True
  | .srai _ _ _ => True
  | .roli _ _ _ => True
  | .li _ _ => True
  | .lhi _ _ => True
  | .sel gd _ _ _ => gd.wf
  | .adda gd _ _ _ _ => gd.wf
  | .ceq _ _ _ => True
  | .cne _ _ _ => True
  | .clt _ _ _ => True
  | .cge _ _ _ => True
  | .cltu _ _ _ => True
  | .cgeu _ _ _ => True
  | .ceqi _ _ _ => True
  | .cnei _ _ _ => True
  | .clti _ _ _ => True
  | .cgei _ _ _ => True
  | .cltui _ _ _ => True
  | .cgeui _ _ _ => True
  | .pand _ _ _ => True
  | .por _ _ _ => True
  | .pxor _ _ _ => True
  | .pandn _ _ _ => True
  | .pnot _ _ => True
  | .pmov _ _ => True
  | .ld8 _ _ _ => True
  | .ld16 _ _ _ => True
  | .ld32 _ _ _ => True
  | .ld64 _ _ _ => True
  | .ld8s _ _ _ => True
  | .ld16s _ _ _ => True
  | .ld32s _ _ _ => True
  | .st8 _ _ _ => True
  | .st16 _ _ _ => True
  | .st32 _ _ _ => True
  | .st64 _ _ _ => True
  | .ldl8 _ _ _ => True
  | .ldl16 _ _ _ => True
  | .ldl32 _ _ _ => True
  | .ldl64 _ _ _ => True
  | .stl8 _ _ _ => True
  | .stl16 _ _ _ => True
  | .stl32 _ _ _ => True
  | .stl64 _ _ _ => True
  | .ldv8 _ _ _ => True
  | .ldv16 _ _ _ => True
  | .ldv32 _ _ _ => True
  | .ldv64 _ _ _ => True
  | .br _ _ _ => True
  | .jmp _ => True
  | .call _ _ => True
  | .jmpr _ => True
  | .callr _ _ => True
  | .ret _ => True
  | .fetch _ => True
  | .fetchr _ => True
  | .leash _ => True
  | .leashr _ => True
  | .qsendQ0 _ => True
  | .qsendQ1 _ => True
  | .qrecvQ0 _ => True
  | .qrecvQ1 _ => True
  | .xqpushQ0 _ => True
  | .xqpushQ1 _ => True
  | .xqpopQ0 _ => True
  | .xqpopQ1 _ => True
  | .queueWaitComplete _ => True
  | .faddS gd ex rm _ _ _ => gd.wf ∧ ex.wf ∧ rm ≤ 5#4
  | .fsubS gd ex rm _ _ _ => gd.wf ∧ ex.wf ∧ rm ≤ 5#4
  | .fmulS gd ex rm _ _ _ => gd.wf ∧ ex.wf ∧ rm ≤ 5#4
  | .fdivS gd ex rm _ _ _ => gd.wf ∧ ex.wf ∧ rm ≤ 5#4
  | .fminS gd ex _ _ _ => gd.wf ∧ ex.wf
  | .fmaxS gd ex _ _ _ => gd.wf ∧ ex.wf
  | .fsqrtS gd ex rm _ _ => gd.wf ∧ ex.wf ∧ rm ≤ 5#4
  | .fabsS gd ex _ _ => gd.wf ∧ ex.wf
  | .fnegS gd ex _ _ => gd.wf ∧ ex.wf
  | .faddD gd ex rm _ _ _ => gd.wf ∧ ex.wf ∧ rm ≤ 5#4
  | .fsubD gd ex rm _ _ _ => gd.wf ∧ ex.wf ∧ rm ≤ 5#4
  | .fmulD gd ex rm _ _ _ => gd.wf ∧ ex.wf ∧ rm ≤ 5#4
  | .fdivD gd ex rm _ _ _ => gd.wf ∧ ex.wf ∧ rm ≤ 5#4
  | .fminD gd ex _ _ _ => gd.wf ∧ ex.wf
  | .fmaxD gd ex _ _ _ => gd.wf ∧ ex.wf
  | .fsqrtD gd ex rm _ _ => gd.wf ∧ ex.wf ∧ rm ≤ 5#4
  | .fabsD gd ex _ _ => gd.wf ∧ ex.wf
  | .fnegD gd ex _ _ => gd.wf ∧ ex.wf
  | .ffmaS gd ex rm _ _ _ _ => gd.wf ∧ ex.wf ∧ rm ≤ 5#4
  | .ffmsS gd ex rm _ _ _ _ => gd.wf ∧ ex.wf ∧ rm ≤ 5#4
  | .ffnmaS gd ex rm _ _ _ _ => gd.wf ∧ ex.wf ∧ rm ≤ 5#4
  | .ffmaD gd ex rm _ _ _ _ => gd.wf ∧ ex.wf ∧ rm ≤ 5#4
  | .ffmsD gd ex rm _ _ _ _ => gd.wf ∧ ex.wf ∧ rm ≤ 5#4
  | .ffnmaD gd ex rm _ _ _ _ => gd.wf ∧ ex.wf ∧ rm ≤ 5#4
  | .feqS _ _ _ => True
  | .fltS _ _ _ => True
  | .fleS _ _ _ => True
  | .funordS _ _ _ => True
  | .feqD _ _ _ => True
  | .fltD _ _ _ => True
  | .fleD _ _ _ => True
  | .funordD _ _ _ => True
  | .cvtF64F32 gd ex rm _ _ => gd.wf ∧ ex.wf ∧ rm ≤ 5#4
  | .cvtF32F64 gd ex rm _ _ => gd.wf ∧ ex.wf ∧ rm ≤ 5#4
  | .cvtF32I64 gd ex rm _ _ => gd.wf ∧ ex.wf ∧ rm ≤ 5#4
  | .cvtI64F32 gd ex rm _ _ => gd.wf ∧ ex.wf ∧ rm ≤ 5#4
  | .cvtF64I64 gd ex rm _ _ => gd.wf ∧ ex.wf ∧ rm ≤ 5#4
  | .cvtI64F64 gd ex rm _ _ => gd.wf ∧ ex.wf ∧ rm ≤ 5#4
  | .cvtBf16F32 gd ex rm _ _ => gd.wf ∧ ex.wf ∧ rm ≤ 5#4
  | .cvtF32Bf16 gd ex rm _ _ => gd.wf ∧ ex.wf ∧ rm ≤ 5#4
  | .cvtFp16F32 gd ex rm _ _ => gd.wf ∧ ex.wf ∧ rm ≤ 5#4
  | .cvtF32Fp16 gd ex rm _ _ => gd.wf ∧ ex.wf ∧ rm ≤ 5#4
  | .cvtE4m3F32 gd ex rm _ _ => gd.wf ∧ ex.wf ∧ rm ≤ 5#4
  | .cvtF32E4m3 gd ex rm _ _ => gd.wf ∧ ex.wf ∧ rm ≤ 5#4
  | .cvtE5m2F32 gd ex rm _ _ => gd.wf ∧ ex.wf ∧ rm ≤ 5#4
  | .cvtF32E5m2 gd ex rm _ _ => gd.wf ∧ ex.wf ∧ rm ≤ 5#4
  | .cvtLgF32 gd ex rm _ _ => gd.wf ∧ ex.wf ∧ rm ≤ 5#4
  | .cvtF32Lg gd ex rm _ _ => gd.wf ∧ ex.wf ∧ rm ≤ 5#4
  | .getsr _ a b => ¬ (a = 0#6 ∧ b = 41#6)
  | .setsr _ _ _ => True
  | .cpgo _ => True
  | .trap _ _ => True
  | .rdcyc _ => True
  | .rfetch _ => True
  | .rfetchIdem _ => True
  | .rfetchr _ => True
  | .rfetchrIdem _ => True
  | .setvl _ _ _ => True
  | .launch _ _ => True
  | .vadd gd _ _ _ => gd.wf
  | .vsub gd _ _ _ => gd.wf
  | .vmul gd _ _ _ => gd.wf
  | .vmulh gd _ _ _ => gd.wf
  | .vand gd _ _ _ => gd.wf
  | .vor gd _ _ _ => gd.wf
  | .vxor gd _ _ _ => gd.wf
  | .vsll gd _ _ _ => gd.wf
  | .vsrl gd _ _ _ => gd.wf
  | .vsra gd _ _ _ => gd.wf
  | .vmin gd _ _ _ => gd.wf
  | .vmax gd _ _ _ => gd.wf
  | .vminu gd _ _ _ => gd.wf
  | .vmaxu gd _ _ _ => gd.wf
  | .vadc gd _ _ _ _ _ => gd.wf
  | .vsbc gd _ _ _ _ _ => gd.wf
  | .vaddVx gd _ _ _ => gd.wf
  | .vsubVx gd _ _ _ => gd.wf
  | .vmulVx gd _ _ _ => gd.wf
  | .vmulhVx gd _ _ _ => gd.wf
  | .vandVx gd _ _ _ => gd.wf
  | .vorVx gd _ _ _ => gd.wf
  | .vxorVx gd _ _ _ => gd.wf
  | .vsllVx gd _ _ _ => gd.wf
  | .vsrlVx gd _ _ _ => gd.wf
  | .vsraVx gd _ _ _ => gd.wf
  | .vminVx gd _ _ _ => gd.wf
  | .vmaxVx gd _ _ _ => gd.wf
  | .vminuVx gd _ _ _ => gd.wf
  | .vmaxuVx gd _ _ _ => gd.wf
  | .vadcVx gd _ _ _ _ _ => gd.wf
  | .vsbcVx gd _ _ _ _ _ => gd.wf
  | .vfadd gd ex rm _ _ _ _ => gd.wf ∧ ex.wf ∧ rm ≤ 5#4
  | .vfsub gd ex rm _ _ _ _ => gd.wf ∧ ex.wf ∧ rm ≤ 5#4
  | .vfmul gd ex rm _ _ _ _ => gd.wf ∧ ex.wf ∧ rm ≤ 5#4
  | .vfdiv gd ex rm _ _ _ _ => gd.wf ∧ ex.wf ∧ rm ≤ 5#4
  | .vfmin gd ex _ _ _ _ => gd.wf ∧ ex.wf
  | .vfmax gd ex _ _ _ _ => gd.wf ∧ ex.wf
  | .vfsqrt gd ex rm _ _ _ => gd.wf ∧ ex.wf ∧ rm ≤ 5#4
  | .vfma gd ex rm _ _ _ _ _ => gd.wf ∧ ex.wf ∧ rm ≤ 5#4
  | .vfms gd ex rm _ _ _ _ _ => gd.wf ∧ ex.wf ∧ rm ≤ 5#4
  | .vfnma gd ex rm _ _ _ _ _ => gd.wf ∧ ex.wf ∧ rm ≤ 5#4
  | .vfabs gd ex _ _ _ => gd.wf ∧ ex.wf
  | .vfneg gd ex _ _ _ => gd.wf ∧ ex.wf
  | .vceq gd xb _ _ b => gd.wf ∧ (xb = true → b < 32#6)
  | .vcne gd xb _ _ b => gd.wf ∧ (xb = true → b < 32#6)
  | .vclt gd xb _ _ b => gd.wf ∧ (xb = true → b < 32#6)
  | .vcge gd xb _ _ b => gd.wf ∧ (xb = true → b < 32#6)
  | .vcltu gd xb _ _ b => gd.wf ∧ (xb = true → b < 32#6)
  | .vcgeu gd xb _ _ b => gd.wf ∧ (xb = true → b < 32#6)
  | .vfeq gd ex xb _ _ b => gd.wf ∧ ex.wf ∧ (xb = true → b < 32#6)
  | .vflt gd ex xb _ _ b => gd.wf ∧ ex.wf ∧ (xb = true → b < 32#6)
  | .vfle gd ex xb _ _ b => gd.wf ∧ ex.wf ∧ (xb = true → b < 32#6)
  | .vfunord gd ex xb _ _ b => gd.wf ∧ ex.wf ∧ (xb = true → b < 32#6)
  | .mand gd _ _ _ => gd.wf
  | .mor gd _ _ _ => gd.wf
  | .mxor gd _ _ _ => gd.wf
  | .mandn gd _ _ _ => gd.wf
  | .mnot gd _ _ => gd.wf
  | .mmov gd _ _ => gd.wf
  | .mshl gd _ _ => gd.wf
  | .mshr gd _ _ => gd.wf
  | .mset gd _ => gd.wf
  | .mclr gd _ => gd.wf
  | .mrdd gd _ => gd.wf
  | .mwrd gd _ => gd.wf
  | .mpop _ _ => True
  | .mffs _ _ => True
  | .mfls _ _ => True
  | .vslideup gd _ _ _ => gd.wf
  | .vslidedn gd _ _ _ => gd.wf
  | .vperm gd _ _ _ => gd.wf
  | .vbcast gd _ _ => gd.wf
  | .vcompress _ _ _ => True
  | .vexpand _ _ _ => True
  | .vext _ _ _ => True
  | .vins _ _ _ => True
  | .vredoFadd gd _ _ _ _ => gd.wf
  | .vredtFadd gd _ _ _ _ => gd.wf
  | .vredFmax gd _ _ _ _ => gd.wf
  | .vredFmin gd _ _ _ _ => gd.wf
  | .vredAdd gd _ _ _ => gd.wf
  | .vredAnd gd _ _ _ => gd.wf
  | .vredOr gd _ _ _ => gd.wf
  | .vredXor gd _ _ _ => gd.wf
  | .vredMax gd _ _ _ => gd.wf
  | .vredMin gd _ _ _ => gd.wf
  | .vredMaxu gd _ _ _ => gd.wf
  | .vredMinu gd _ _ _ => gd.wf
  | .vcvtF64F32 gd ex rm _ _ => gd.wf ∧ ex.wf ∧ rm ≤ 5#4
  | .vcvtF32F64 gd ex rm _ _ => gd.wf ∧ ex.wf ∧ rm ≤ 5#4
  | .vcvtF32I64 gd ex rm _ _ => gd.wf ∧ ex.wf ∧ rm ≤ 5#4
  | .vcvtI64F32 gd ex rm _ _ => gd.wf ∧ ex.wf ∧ rm ≤ 5#4
  | .vcvtF64I64 gd ex rm _ _ => gd.wf ∧ ex.wf ∧ rm ≤ 5#4
  | .vcvtI64F64 gd ex rm _ _ => gd.wf ∧ ex.wf ∧ rm ≤ 5#4
  | .vcvtBf16F32 gd ex rm _ _ => gd.wf ∧ ex.wf ∧ rm ≤ 5#4
  | .vcvtF32Bf16 gd ex rm _ _ => gd.wf ∧ ex.wf ∧ rm ≤ 5#4
  | .vcvtFp16F32 gd ex rm _ _ => gd.wf ∧ ex.wf ∧ rm ≤ 5#4
  | .vcvtF32Fp16 gd ex rm _ _ => gd.wf ∧ ex.wf ∧ rm ≤ 5#4
  | .vcvtE4m3F32 gd ex rm _ _ => gd.wf ∧ ex.wf ∧ rm ≤ 5#4
  | .vcvtF32E4m3 gd ex rm _ _ => gd.wf ∧ ex.wf ∧ rm ≤ 5#4
  | .vcvtE5m2F32 gd ex rm _ _ => gd.wf ∧ ex.wf ∧ rm ≤ 5#4
  | .vcvtF32E5m2 gd ex rm _ _ => gd.wf ∧ ex.wf ∧ rm ≤ 5#4
  | .vcvtLgF32 gd ex rm _ _ => gd.wf ∧ ex.wf ∧ rm ≤ 5#4
  | .vcvtF32Lg gd ex rm _ _ => gd.wf ∧ ex.wf ∧ rm ≤ 5#4
  | .vld _ _ _ => True
  | .vldff _ _ _ => True
  | .vldv _ _ _ => True
  | .vldsp _ _ _ => True
  | .vlds gd _ _ _ => gd.wf
  | .vldx gd _ _ _ => gd.wf
  | .vldl gd _ _ _ => gd.wf
  | .vldxv gd _ _ _ => gd.wf
  | .vst gd _ _ => gd.wf
  | .vsts gd _ _ _ => gd.wf
  | .vstx gd _ _ _ => gd.wf
  | .vstl gd _ _ _ => gd.wf
  | .vstmc gd _ _ => gd.wf
  | .vstrc gd _ _ _ => gd.wf
  | .vstsp gd _ _ => gd.wf
  | .vamoAdd gd old vd _ _ _ => gd.wf ∧ (old = false → vd = 0#6)
  | .vamoAnd gd old vd _ _ _ => gd.wf ∧ (old = false → vd = 0#6)
  | .vamoOr gd old vd _ _ _ => gd.wf ∧ (old = false → vd = 0#6)
  | .vamoXor gd old vd _ _ _ => gd.wf ∧ (old = false → vd = 0#6)
  | .vamoMax gd old vd _ _ _ => gd.wf ∧ (old = false → vd = 0#6)
  | .vamoMin gd old vd _ _ _ => gd.wf ∧ (old = false → vd = 0#6)
  | .vamoSwap gd old vd _ _ _ => gd.wf ∧ (old = false → vd = 0#6)
  | .vamoFadd gd old vd _ _ _ => gd.wf ∧ (old = false → vd = 0#6)
  | .mma _ _ _ ta tb _ _ _ => ta ≤ 5#3 ∧ tb ≤ 5#3
  | .mmaff _ _ _ _ ta tb _ _ => ta ≤ 5#3 ∧ tb ≤ 5#3
  | .zclr _ => True
  | .zld _ _ => True
  | .zst _ _ => True
  | .zrd _ _ _ => True
  | .zwr _ _ _ => True
  | .zcvt _ _ _ _ => True
  | .tlwait gd _ _ sc => gd.wf ∧ sc ≤ 5#4
  | .tlwaitReturn _ _ => True
  | .tlpost gd _ _ sc => gd.wf ∧ sc ≤ 5#4
  | .tlpostApply _ _ => True
  | .ringdef _ _ _ _ stages => 2#5 ≤ stages ∧ stages ≤ 16#5
  | .ringarr _ => True
  | .ringgen _ _ => True
  | .ringfree _ => True
  | .ringArrivalCount _ _ => True
  | .ringStallEnd _ _ => True
  | .amoAdd gd _ _ _ _ sc _ => gd.wf ∧ sc ≤ 5#3
  | .amoAnd gd _ _ _ _ sc _ => gd.wf ∧ sc ≤ 5#3
  | .amoOr gd _ _ _ _ sc _ => gd.wf ∧ sc ≤ 5#3
  | .amoXor gd _ _ _ _ sc _ => gd.wf ∧ sc ≤ 5#3
  | .amoMax gd _ _ _ _ sc _ => gd.wf ∧ sc ≤ 5#3
  | .amoMin gd _ _ _ _ sc _ => gd.wf ∧ sc ≤ 5#3
  | .amoMaxu gd _ _ _ _ sc _ => gd.wf ∧ sc ≤ 5#3
  | .amoMinu gd _ _ _ _ sc _ => gd.wf ∧ sc ≤ 5#3
  | .amoSwap gd _ _ _ _ sc _ => gd.wf ∧ sc ≤ 5#3
  | .amoCas gd _ _ _ _ _ sc _ => gd.wf ∧ sc ≤ 5#3
  | .amoFadd gd _ _ _ _ sc _ => gd.wf ∧ sc ≤ 5#3
  | .lda gd _ _ sc => gd.wf ∧ sc ≤ 5#4
  | .lda32 gd _ _ sc => gd.wf ∧ sc ≤ 5#4
  | .strl gd _ _ sc => gd.wf ∧ sc ≤ 5#4
  | .strl32 gd _ _ sc => gd.wf ∧ sc ≤ 5#4
  | .fence sc => sc ≤ 5#6
  | .fenceAcq sc => sc ≤ 5#6
  | .fenceRel sc => sc ≤ 5#6
  | .barArrive _ => True
  | .barWait _ => True
  | .barSync _ => True
  | .barArrivalCount _ _ => True
  | .barWaitReturn _ _ => True
  | .txbegin _ => True
  | .txcommit _ => True
  | .snopen _ => True
  | .snclose _ _ => True
  | .snset _ => True
  | .xdred gd _ _ _ => gd.wf
  | .xdredComplete _ _ _ => True
  | .xdredTimeout _ _ => True
  | .runLimit _ => True
  | .release _ _ _ => True
  | .strandFaultTrap _ _ => True
  | .machineCheck _ _ => True
  | .vqueueExecute _ _ => True
  | .rfetchTakeEffect _ _ => True
  | .rwaitComplete _ _ => True
  | .copyStart _ => True
  | .copyComplete _ => True
  | .preemptWithdraw _ => True
  | .setvlSave _ => True
  | .forcedSave _ _ => True
  | .packResume => True
  | .coreQuiesce _ => True
  | .secdedError _ _ => True
  | .laneGroupGate _ _ => True
  | .laneGroupWake _ _ => True
  | .stripAheadHint _ _ => True
  | .l2Error _ _ _ _ _ => True
  | .benesParityError _ _ => True
  | .pageWalk _ _ _ _ _ => True
  | .tlbParityError _ _ => True
  | .hbmError _ _ => True
  | .channelFail _ _ => True
  | .slotTableEdit _ _ => True
  | .routerParityError _ _ _ _ => True
  | .launchRecordTake _ _ => True
  | .launchSelect => True
  | .packPlace => True
  | .swapExpiry _ => True
  | .launchComplete _ => True
  | .crumbReclaim _ => True
  | .ospecCommit _ => True
  | .adtanTranslate _ _ => True
  | .sampleRecord _ _ => True
  | .traceSummary _ _ => True
  | .doorbell _ _ _ => True
  | .hostMemAccess _ _ _ => True
  | .partCreate _ _ _ _ _ => True
  | .partDestroy _ => True
  | .granuleAssign _ _ _ => True
  | .granuleRemove _ _ _ => True
  | .execLoad _ _ _ => True
  | .ctxCreate _ _ => True
  | .ctxDestroy _ _ => True
  | .debugGrant _ _ => True
  | .debugRevoke _ _ => True
  | .debugSetComparator _ _ _ _ _ => True
  | .debugHalt _ _ _ => True
  | .debugRelease _ _ _ => True
  | .debugStateAccess _ _ _ _ => True
  | .debugHistoryRead _ _ _ => True
  | .debugTraceSet _ _ _ _ => True
  | .debugSampleSet _ _ _ _ => True
  | .health _ => True
  | .failUnit _ _ => True
  | .poisonClear _ _ => True
  | .reset _ => True
  | .patchLoad _ _ _ => True
  | .setParam _ _ => True
  | .linkSession _ _ _ _ => True
  | .launchEnd _ _ _ => True
  | .getMeasurements _ => True
  | .stopInterface _ => True
  | .keyUpdate _ => True
  | .linkFlitReceive _ _ _ => True
  | .linkDown _ => True
  | .thermalLimit _ => True
  | .packageReset => True
  | .illegalInstruction _ => True
  | .patchSubstitute _ => True
  | .writeBecomesVisible _ _ => True
  | .countedLineEviction _ => True
  | .lockInterface _ => True
  | .startInterface _ => True
  | .spdmRequest _ => True
  | .remoteAccess _ _ _ => True

/-- The Bool form of `Instr.WellFormed`, which the decoder and the issue checks evaluate (R67). -/
def Instr.wf : Instr → Bool
  | .nop => true
  | .stop => true
  | .halt => true
  | .heel => true
  | .rwait => true
  | .brk => true
  | .tret => true
  | .vdrainLd => true
  | .vdrainSt => true
  | .vdrain => true
  | .txabort => true
  | .add _ _ _ => true
  | .sub _ _ _ => true
  | .and _ _ _ => true
  | .or _ _ _ => true
  | .xor _ _ _ => true
  | .andn _ _ _ => true
  | .sll _ _ _ => true
  | .srl _ _ _ => true
  | .sra _ _ _ => true
  | .rol _ _ _ => true
  | .min _ _ _ => true
  | .max _ _ _ => true
  | .minu _ _ _ => true
  | .maxu _ _ _ => true
  | .addw _ _ _ => true
  | .subw _ _ _ => true
  | .mul _ _ _ => true
  | .mulh _ _ _ => true
  | .mulhu _ _ _ => true
  | .div _ _ _ => true
  | .divu _ _ _ => true
  | .rem _ _ _ => true
  | .remu _ _ _ => true
  | .mulw _ _ _ => true
  | .clz _ _ => true
  | .ctz _ _ => true
  | .popc _ _ => true
  | .bswap _ _ => true
  | .brev _ _ => true
  | .sxb _ _ => true
  | .sxh _ _ => true
  | .sxw _ _ => true
  | .zxw _ _ => true
  | .addi _ _ _ => true
  | .andi _ _ _ => true
  | .ori _ _ _ => true
  | .xori _ _ _ => true
  | .slli _ _ _ => true
  | .srli _ _ _ => true
  | .srai _ _ _ => true
  | .roli _ _ _ => true
  | .li _ _ => true
  | .lhi _ _ => true
  | .sel gd _ _ _ => decide (gd.wf)
  | .adda gd _ _ _ _ => decide (gd.wf)
  | .ceq _ _ _ => true
  | .cne _ _ _ => true
  | .clt _ _ _ => true
  | .cge _ _ _ => true
  | .cltu _ _ _ => true
  | .cgeu _ _ _ => true
  | .ceqi _ _ _ => true
  | .cnei _ _ _ => true
  | .clti _ _ _ => true
  | .cgei _ _ _ => true
  | .cltui _ _ _ => true
  | .cgeui _ _ _ => true
  | .pand _ _ _ => true
  | .por _ _ _ => true
  | .pxor _ _ _ => true
  | .pandn _ _ _ => true
  | .pnot _ _ => true
  | .pmov _ _ => true
  | .ld8 _ _ _ => true
  | .ld16 _ _ _ => true
  | .ld32 _ _ _ => true
  | .ld64 _ _ _ => true
  | .ld8s _ _ _ => true
  | .ld16s _ _ _ => true
  | .ld32s _ _ _ => true
  | .st8 _ _ _ => true
  | .st16 _ _ _ => true
  | .st32 _ _ _ => true
  | .st64 _ _ _ => true
  | .ldl8 _ _ _ => true
  | .ldl16 _ _ _ => true
  | .ldl32 _ _ _ => true
  | .ldl64 _ _ _ => true
  | .stl8 _ _ _ => true
  | .stl16 _ _ _ => true
  | .stl32 _ _ _ => true
  | .stl64 _ _ _ => true
  | .ldv8 _ _ _ => true
  | .ldv16 _ _ _ => true
  | .ldv32 _ _ _ => true
  | .ldv64 _ _ _ => true
  | .br _ _ _ => true
  | .jmp _ => true
  | .call _ _ => true
  | .jmpr _ => true
  | .callr _ _ => true
  | .ret _ => true
  | .fetch _ => true
  | .fetchr _ => true
  | .leash _ => true
  | .leashr _ => true
  | .qsendQ0 _ => true
  | .qsendQ1 _ => true
  | .qrecvQ0 _ => true
  | .qrecvQ1 _ => true
  | .xqpushQ0 _ => true
  | .xqpushQ1 _ => true
  | .xqpopQ0 _ => true
  | .xqpopQ1 _ => true
  | .queueWaitComplete _ => true
  | .faddS gd ex rm _ _ _ => decide (gd.wf) && decide (ex.wf) && decide (rm ≤ 5#4)
  | .fsubS gd ex rm _ _ _ => decide (gd.wf) && decide (ex.wf) && decide (rm ≤ 5#4)
  | .fmulS gd ex rm _ _ _ => decide (gd.wf) && decide (ex.wf) && decide (rm ≤ 5#4)
  | .fdivS gd ex rm _ _ _ => decide (gd.wf) && decide (ex.wf) && decide (rm ≤ 5#4)
  | .fminS gd ex _ _ _ => decide (gd.wf) && decide (ex.wf)
  | .fmaxS gd ex _ _ _ => decide (gd.wf) && decide (ex.wf)
  | .fsqrtS gd ex rm _ _ => decide (gd.wf) && decide (ex.wf) && decide (rm ≤ 5#4)
  | .fabsS gd ex _ _ => decide (gd.wf) && decide (ex.wf)
  | .fnegS gd ex _ _ => decide (gd.wf) && decide (ex.wf)
  | .faddD gd ex rm _ _ _ => decide (gd.wf) && decide (ex.wf) && decide (rm ≤ 5#4)
  | .fsubD gd ex rm _ _ _ => decide (gd.wf) && decide (ex.wf) && decide (rm ≤ 5#4)
  | .fmulD gd ex rm _ _ _ => decide (gd.wf) && decide (ex.wf) && decide (rm ≤ 5#4)
  | .fdivD gd ex rm _ _ _ => decide (gd.wf) && decide (ex.wf) && decide (rm ≤ 5#4)
  | .fminD gd ex _ _ _ => decide (gd.wf) && decide (ex.wf)
  | .fmaxD gd ex _ _ _ => decide (gd.wf) && decide (ex.wf)
  | .fsqrtD gd ex rm _ _ => decide (gd.wf) && decide (ex.wf) && decide (rm ≤ 5#4)
  | .fabsD gd ex _ _ => decide (gd.wf) && decide (ex.wf)
  | .fnegD gd ex _ _ => decide (gd.wf) && decide (ex.wf)
  | .ffmaS gd ex rm _ _ _ _ => decide (gd.wf) && decide (ex.wf) && decide (rm ≤ 5#4)
  | .ffmsS gd ex rm _ _ _ _ => decide (gd.wf) && decide (ex.wf) && decide (rm ≤ 5#4)
  | .ffnmaS gd ex rm _ _ _ _ => decide (gd.wf) && decide (ex.wf) && decide (rm ≤ 5#4)
  | .ffmaD gd ex rm _ _ _ _ => decide (gd.wf) && decide (ex.wf) && decide (rm ≤ 5#4)
  | .ffmsD gd ex rm _ _ _ _ => decide (gd.wf) && decide (ex.wf) && decide (rm ≤ 5#4)
  | .ffnmaD gd ex rm _ _ _ _ => decide (gd.wf) && decide (ex.wf) && decide (rm ≤ 5#4)
  | .feqS _ _ _ => true
  | .fltS _ _ _ => true
  | .fleS _ _ _ => true
  | .funordS _ _ _ => true
  | .feqD _ _ _ => true
  | .fltD _ _ _ => true
  | .fleD _ _ _ => true
  | .funordD _ _ _ => true
  | .cvtF64F32 gd ex rm _ _ => decide (gd.wf) && decide (ex.wf) && decide (rm ≤ 5#4)
  | .cvtF32F64 gd ex rm _ _ => decide (gd.wf) && decide (ex.wf) && decide (rm ≤ 5#4)
  | .cvtF32I64 gd ex rm _ _ => decide (gd.wf) && decide (ex.wf) && decide (rm ≤ 5#4)
  | .cvtI64F32 gd ex rm _ _ => decide (gd.wf) && decide (ex.wf) && decide (rm ≤ 5#4)
  | .cvtF64I64 gd ex rm _ _ => decide (gd.wf) && decide (ex.wf) && decide (rm ≤ 5#4)
  | .cvtI64F64 gd ex rm _ _ => decide (gd.wf) && decide (ex.wf) && decide (rm ≤ 5#4)
  | .cvtBf16F32 gd ex rm _ _ => decide (gd.wf) && decide (ex.wf) && decide (rm ≤ 5#4)
  | .cvtF32Bf16 gd ex rm _ _ => decide (gd.wf) && decide (ex.wf) && decide (rm ≤ 5#4)
  | .cvtFp16F32 gd ex rm _ _ => decide (gd.wf) && decide (ex.wf) && decide (rm ≤ 5#4)
  | .cvtF32Fp16 gd ex rm _ _ => decide (gd.wf) && decide (ex.wf) && decide (rm ≤ 5#4)
  | .cvtE4m3F32 gd ex rm _ _ => decide (gd.wf) && decide (ex.wf) && decide (rm ≤ 5#4)
  | .cvtF32E4m3 gd ex rm _ _ => decide (gd.wf) && decide (ex.wf) && decide (rm ≤ 5#4)
  | .cvtE5m2F32 gd ex rm _ _ => decide (gd.wf) && decide (ex.wf) && decide (rm ≤ 5#4)
  | .cvtF32E5m2 gd ex rm _ _ => decide (gd.wf) && decide (ex.wf) && decide (rm ≤ 5#4)
  | .cvtLgF32 gd ex rm _ _ => decide (gd.wf) && decide (ex.wf) && decide (rm ≤ 5#4)
  | .cvtF32Lg gd ex rm _ _ => decide (gd.wf) && decide (ex.wf) && decide (rm ≤ 5#4)
  | .getsr _ a b => decide (¬ (a = 0#6 ∧ b = 41#6))
  | .setsr _ _ _ => true
  | .cpgo _ => true
  | .trap _ _ => true
  | .rdcyc _ => true
  | .rfetch _ => true
  | .rfetchIdem _ => true
  | .rfetchr _ => true
  | .rfetchrIdem _ => true
  | .setvl _ _ _ => true
  | .launch _ _ => true
  | .vadd gd _ _ _ => decide (gd.wf)
  | .vsub gd _ _ _ => decide (gd.wf)
  | .vmul gd _ _ _ => decide (gd.wf)
  | .vmulh gd _ _ _ => decide (gd.wf)
  | .vand gd _ _ _ => decide (gd.wf)
  | .vor gd _ _ _ => decide (gd.wf)
  | .vxor gd _ _ _ => decide (gd.wf)
  | .vsll gd _ _ _ => decide (gd.wf)
  | .vsrl gd _ _ _ => decide (gd.wf)
  | .vsra gd _ _ _ => decide (gd.wf)
  | .vmin gd _ _ _ => decide (gd.wf)
  | .vmax gd _ _ _ => decide (gd.wf)
  | .vminu gd _ _ _ => decide (gd.wf)
  | .vmaxu gd _ _ _ => decide (gd.wf)
  | .vadc gd _ _ _ _ _ => decide (gd.wf)
  | .vsbc gd _ _ _ _ _ => decide (gd.wf)
  | .vaddVx gd _ _ _ => decide (gd.wf)
  | .vsubVx gd _ _ _ => decide (gd.wf)
  | .vmulVx gd _ _ _ => decide (gd.wf)
  | .vmulhVx gd _ _ _ => decide (gd.wf)
  | .vandVx gd _ _ _ => decide (gd.wf)
  | .vorVx gd _ _ _ => decide (gd.wf)
  | .vxorVx gd _ _ _ => decide (gd.wf)
  | .vsllVx gd _ _ _ => decide (gd.wf)
  | .vsrlVx gd _ _ _ => decide (gd.wf)
  | .vsraVx gd _ _ _ => decide (gd.wf)
  | .vminVx gd _ _ _ => decide (gd.wf)
  | .vmaxVx gd _ _ _ => decide (gd.wf)
  | .vminuVx gd _ _ _ => decide (gd.wf)
  | .vmaxuVx gd _ _ _ => decide (gd.wf)
  | .vadcVx gd _ _ _ _ _ => decide (gd.wf)
  | .vsbcVx gd _ _ _ _ _ => decide (gd.wf)
  | .vfadd gd ex rm _ _ _ _ => decide (gd.wf) && decide (ex.wf) && decide (rm ≤ 5#4)
  | .vfsub gd ex rm _ _ _ _ => decide (gd.wf) && decide (ex.wf) && decide (rm ≤ 5#4)
  | .vfmul gd ex rm _ _ _ _ => decide (gd.wf) && decide (ex.wf) && decide (rm ≤ 5#4)
  | .vfdiv gd ex rm _ _ _ _ => decide (gd.wf) && decide (ex.wf) && decide (rm ≤ 5#4)
  | .vfmin gd ex _ _ _ _ => decide (gd.wf) && decide (ex.wf)
  | .vfmax gd ex _ _ _ _ => decide (gd.wf) && decide (ex.wf)
  | .vfsqrt gd ex rm _ _ _ => decide (gd.wf) && decide (ex.wf) && decide (rm ≤ 5#4)
  | .vfma gd ex rm _ _ _ _ _ => decide (gd.wf) && decide (ex.wf) && decide (rm ≤ 5#4)
  | .vfms gd ex rm _ _ _ _ _ => decide (gd.wf) && decide (ex.wf) && decide (rm ≤ 5#4)
  | .vfnma gd ex rm _ _ _ _ _ => decide (gd.wf) && decide (ex.wf) && decide (rm ≤ 5#4)
  | .vfabs gd ex _ _ _ => decide (gd.wf) && decide (ex.wf)
  | .vfneg gd ex _ _ _ => decide (gd.wf) && decide (ex.wf)
  | .vceq gd xb _ _ b => decide (gd.wf) && decide ((xb = true → b < 32#6))
  | .vcne gd xb _ _ b => decide (gd.wf) && decide ((xb = true → b < 32#6))
  | .vclt gd xb _ _ b => decide (gd.wf) && decide ((xb = true → b < 32#6))
  | .vcge gd xb _ _ b => decide (gd.wf) && decide ((xb = true → b < 32#6))
  | .vcltu gd xb _ _ b => decide (gd.wf) && decide ((xb = true → b < 32#6))
  | .vcgeu gd xb _ _ b => decide (gd.wf) && decide ((xb = true → b < 32#6))
  | .vfeq gd ex xb _ _ b => decide (gd.wf) && decide (ex.wf) && decide ((xb = true → b < 32#6))
  | .vflt gd ex xb _ _ b => decide (gd.wf) && decide (ex.wf) && decide ((xb = true → b < 32#6))
  | .vfle gd ex xb _ _ b => decide (gd.wf) && decide (ex.wf) && decide ((xb = true → b < 32#6))
  | .vfunord gd ex xb _ _ b => decide (gd.wf) && decide (ex.wf) && decide ((xb = true → b < 32#6))
  | .mand gd _ _ _ => decide (gd.wf)
  | .mor gd _ _ _ => decide (gd.wf)
  | .mxor gd _ _ _ => decide (gd.wf)
  | .mandn gd _ _ _ => decide (gd.wf)
  | .mnot gd _ _ => decide (gd.wf)
  | .mmov gd _ _ => decide (gd.wf)
  | .mshl gd _ _ => decide (gd.wf)
  | .mshr gd _ _ => decide (gd.wf)
  | .mset gd _ => decide (gd.wf)
  | .mclr gd _ => decide (gd.wf)
  | .mrdd gd _ => decide (gd.wf)
  | .mwrd gd _ => decide (gd.wf)
  | .mpop _ _ => true
  | .mffs _ _ => true
  | .mfls _ _ => true
  | .vslideup gd _ _ _ => decide (gd.wf)
  | .vslidedn gd _ _ _ => decide (gd.wf)
  | .vperm gd _ _ _ => decide (gd.wf)
  | .vbcast gd _ _ => decide (gd.wf)
  | .vcompress _ _ _ => true
  | .vexpand _ _ _ => true
  | .vext _ _ _ => true
  | .vins _ _ _ => true
  | .vredoFadd gd _ _ _ _ => decide (gd.wf)
  | .vredtFadd gd _ _ _ _ => decide (gd.wf)
  | .vredFmax gd _ _ _ _ => decide (gd.wf)
  | .vredFmin gd _ _ _ _ => decide (gd.wf)
  | .vredAdd gd _ _ _ => decide (gd.wf)
  | .vredAnd gd _ _ _ => decide (gd.wf)
  | .vredOr gd _ _ _ => decide (gd.wf)
  | .vredXor gd _ _ _ => decide (gd.wf)
  | .vredMax gd _ _ _ => decide (gd.wf)
  | .vredMin gd _ _ _ => decide (gd.wf)
  | .vredMaxu gd _ _ _ => decide (gd.wf)
  | .vredMinu gd _ _ _ => decide (gd.wf)
  | .vcvtF64F32 gd ex rm _ _ => decide (gd.wf) && decide (ex.wf) && decide (rm ≤ 5#4)
  | .vcvtF32F64 gd ex rm _ _ => decide (gd.wf) && decide (ex.wf) && decide (rm ≤ 5#4)
  | .vcvtF32I64 gd ex rm _ _ => decide (gd.wf) && decide (ex.wf) && decide (rm ≤ 5#4)
  | .vcvtI64F32 gd ex rm _ _ => decide (gd.wf) && decide (ex.wf) && decide (rm ≤ 5#4)
  | .vcvtF64I64 gd ex rm _ _ => decide (gd.wf) && decide (ex.wf) && decide (rm ≤ 5#4)
  | .vcvtI64F64 gd ex rm _ _ => decide (gd.wf) && decide (ex.wf) && decide (rm ≤ 5#4)
  | .vcvtBf16F32 gd ex rm _ _ => decide (gd.wf) && decide (ex.wf) && decide (rm ≤ 5#4)
  | .vcvtF32Bf16 gd ex rm _ _ => decide (gd.wf) && decide (ex.wf) && decide (rm ≤ 5#4)
  | .vcvtFp16F32 gd ex rm _ _ => decide (gd.wf) && decide (ex.wf) && decide (rm ≤ 5#4)
  | .vcvtF32Fp16 gd ex rm _ _ => decide (gd.wf) && decide (ex.wf) && decide (rm ≤ 5#4)
  | .vcvtE4m3F32 gd ex rm _ _ => decide (gd.wf) && decide (ex.wf) && decide (rm ≤ 5#4)
  | .vcvtF32E4m3 gd ex rm _ _ => decide (gd.wf) && decide (ex.wf) && decide (rm ≤ 5#4)
  | .vcvtE5m2F32 gd ex rm _ _ => decide (gd.wf) && decide (ex.wf) && decide (rm ≤ 5#4)
  | .vcvtF32E5m2 gd ex rm _ _ => decide (gd.wf) && decide (ex.wf) && decide (rm ≤ 5#4)
  | .vcvtLgF32 gd ex rm _ _ => decide (gd.wf) && decide (ex.wf) && decide (rm ≤ 5#4)
  | .vcvtF32Lg gd ex rm _ _ => decide (gd.wf) && decide (ex.wf) && decide (rm ≤ 5#4)
  | .vld _ _ _ => true
  | .vldff _ _ _ => true
  | .vldv _ _ _ => true
  | .vldsp _ _ _ => true
  | .vlds gd _ _ _ => decide (gd.wf)
  | .vldx gd _ _ _ => decide (gd.wf)
  | .vldl gd _ _ _ => decide (gd.wf)
  | .vldxv gd _ _ _ => decide (gd.wf)
  | .vst gd _ _ => decide (gd.wf)
  | .vsts gd _ _ _ => decide (gd.wf)
  | .vstx gd _ _ _ => decide (gd.wf)
  | .vstl gd _ _ _ => decide (gd.wf)
  | .vstmc gd _ _ => decide (gd.wf)
  | .vstrc gd _ _ _ => decide (gd.wf)
  | .vstsp gd _ _ => decide (gd.wf)
  | .vamoAdd gd old vd _ _ _ => decide (gd.wf) && decide ((old = false → vd = 0#6))
  | .vamoAnd gd old vd _ _ _ => decide (gd.wf) && decide ((old = false → vd = 0#6))
  | .vamoOr gd old vd _ _ _ => decide (gd.wf) && decide ((old = false → vd = 0#6))
  | .vamoXor gd old vd _ _ _ => decide (gd.wf) && decide ((old = false → vd = 0#6))
  | .vamoMax gd old vd _ _ _ => decide (gd.wf) && decide ((old = false → vd = 0#6))
  | .vamoMin gd old vd _ _ _ => decide (gd.wf) && decide ((old = false → vd = 0#6))
  | .vamoSwap gd old vd _ _ _ => decide (gd.wf) && decide ((old = false → vd = 0#6))
  | .vamoFadd gd old vd _ _ _ => decide (gd.wf) && decide ((old = false → vd = 0#6))
  | .mma _ _ _ ta tb _ _ _ => decide (ta ≤ 5#3) && decide (tb ≤ 5#3)
  | .mmaff _ _ _ _ ta tb _ _ => decide (ta ≤ 5#3) && decide (tb ≤ 5#3)
  | .zclr _ => true
  | .zld _ _ => true
  | .zst _ _ => true
  | .zrd _ _ _ => true
  | .zwr _ _ _ => true
  | .zcvt _ _ _ _ => true
  | .tlwait gd _ _ sc => decide (gd.wf) && decide (sc ≤ 5#4)
  | .tlwaitReturn _ _ => true
  | .tlpost gd _ _ sc => decide (gd.wf) && decide (sc ≤ 5#4)
  | .tlpostApply _ _ => true
  | .ringdef _ _ _ _ stages => decide (2#5 ≤ stages) && decide (stages ≤ 16#5)
  | .ringarr _ => true
  | .ringgen _ _ => true
  | .ringfree _ => true
  | .ringArrivalCount _ _ => true
  | .ringStallEnd _ _ => true
  | .amoAdd gd _ _ _ _ sc _ => decide (gd.wf) && decide (sc ≤ 5#3)
  | .amoAnd gd _ _ _ _ sc _ => decide (gd.wf) && decide (sc ≤ 5#3)
  | .amoOr gd _ _ _ _ sc _ => decide (gd.wf) && decide (sc ≤ 5#3)
  | .amoXor gd _ _ _ _ sc _ => decide (gd.wf) && decide (sc ≤ 5#3)
  | .amoMax gd _ _ _ _ sc _ => decide (gd.wf) && decide (sc ≤ 5#3)
  | .amoMin gd _ _ _ _ sc _ => decide (gd.wf) && decide (sc ≤ 5#3)
  | .amoMaxu gd _ _ _ _ sc _ => decide (gd.wf) && decide (sc ≤ 5#3)
  | .amoMinu gd _ _ _ _ sc _ => decide (gd.wf) && decide (sc ≤ 5#3)
  | .amoSwap gd _ _ _ _ sc _ => decide (gd.wf) && decide (sc ≤ 5#3)
  | .amoCas gd _ _ _ _ _ sc _ => decide (gd.wf) && decide (sc ≤ 5#3)
  | .amoFadd gd _ _ _ _ sc _ => decide (gd.wf) && decide (sc ≤ 5#3)
  | .lda gd _ _ sc => decide (gd.wf) && decide (sc ≤ 5#4)
  | .lda32 gd _ _ sc => decide (gd.wf) && decide (sc ≤ 5#4)
  | .strl gd _ _ sc => decide (gd.wf) && decide (sc ≤ 5#4)
  | .strl32 gd _ _ sc => decide (gd.wf) && decide (sc ≤ 5#4)
  | .fence sc => decide (sc ≤ 5#6)
  | .fenceAcq sc => decide (sc ≤ 5#6)
  | .fenceRel sc => decide (sc ≤ 5#6)
  | .barArrive _ => true
  | .barWait _ => true
  | .barSync _ => true
  | .barArrivalCount _ _ => true
  | .barWaitReturn _ _ => true
  | .txbegin _ => true
  | .txcommit _ => true
  | .snopen _ => true
  | .snclose _ _ => true
  | .snset _ => true
  | .xdred gd _ _ _ => decide (gd.wf)
  | .xdredComplete _ _ _ => true
  | .xdredTimeout _ _ => true
  | .runLimit _ => true
  | .release _ _ _ => true
  | .strandFaultTrap _ _ => true
  | .machineCheck _ _ => true
  | .vqueueExecute _ _ => true
  | .rfetchTakeEffect _ _ => true
  | .rwaitComplete _ _ => true
  | .copyStart _ => true
  | .copyComplete _ => true
  | .preemptWithdraw _ => true
  | .setvlSave _ => true
  | .forcedSave _ _ => true
  | .packResume => true
  | .coreQuiesce _ => true
  | .secdedError _ _ => true
  | .laneGroupGate _ _ => true
  | .laneGroupWake _ _ => true
  | .stripAheadHint _ _ => true
  | .l2Error _ _ _ _ _ => true
  | .benesParityError _ _ => true
  | .pageWalk _ _ _ _ _ => true
  | .tlbParityError _ _ => true
  | .hbmError _ _ => true
  | .channelFail _ _ => true
  | .slotTableEdit _ _ => true
  | .routerParityError _ _ _ _ => true
  | .launchRecordTake _ _ => true
  | .launchSelect => true
  | .packPlace => true
  | .swapExpiry _ => true
  | .launchComplete _ => true
  | .crumbReclaim _ => true
  | .ospecCommit _ => true
  | .adtanTranslate _ _ => true
  | .sampleRecord _ _ => true
  | .traceSummary _ _ => true
  | .doorbell _ _ _ => true
  | .hostMemAccess _ _ _ => true
  | .partCreate _ _ _ _ _ => true
  | .partDestroy _ => true
  | .granuleAssign _ _ _ => true
  | .granuleRemove _ _ _ => true
  | .execLoad _ _ _ => true
  | .ctxCreate _ _ => true
  | .ctxDestroy _ _ => true
  | .debugGrant _ _ => true
  | .debugRevoke _ _ => true
  | .debugSetComparator _ _ _ _ _ => true
  | .debugHalt _ _ _ => true
  | .debugRelease _ _ _ => true
  | .debugStateAccess _ _ _ _ => true
  | .debugHistoryRead _ _ _ => true
  | .debugTraceSet _ _ _ _ => true
  | .debugSampleSet _ _ _ _ => true
  | .health _ => true
  | .failUnit _ _ => true
  | .poisonClear _ _ => true
  | .reset _ => true
  | .patchLoad _ _ _ => true
  | .setParam _ _ => true
  | .linkSession _ _ _ _ => true
  | .launchEnd _ _ _ => true
  | .getMeasurements _ => true
  | .stopInterface _ => true
  | .keyUpdate _ => true
  | .linkFlitReceive _ _ _ => true
  | .linkDown _ => true
  | .thermalLimit _ => true
  | .packageReset => true
  | .illegalInstruction _ => true
  | .patchSubstitute _ => true
  | .writeBecomesVisible _ _ => true
  | .countedLineEviction _ => true
  | .lockInterface _ => true
  | .startInterface _ => true
  | .spdmRequest _ => true
  | .remoteAccess _ _ _ => true

end Sys2Proof
end

