-- ==== Sys2Proof/Decode.lean ====
section
/-! DEFINITION. Decoding (R51–R54, R58, R69–R76), total on any words, and the encoder beside it. Both go
through `Enc`, the fields of an instruction before any operand has a meaning. What builds an `Instr` is marked
noncomputable: compiled Lean code cannot represent a constructor beyond the 244th, the kernel can. -/
namespace Sys2Proof

/-- The instruction formats (R52). -/
inductive Format where
  | z | p | q | i | v | w
  deriving DecidableEq, Repr

/-- The fields of one instruction (R52); a field the format does not have is 0. `imm` holds imm22 in its low
22 bits, or imm38. -/
structure Enc where
  op : BitVec 7
  d : BitVec 6 := 0
  a : BitVec 6 := 0
  b : BitVec 6 := 0
  f : BitVec 4 := 0
  g : BitVec 5 := 0
  n : Bool := false
  e : Bool := false
  m : BitVec 5 := 0
  s : BitVec 4 := 0
  c : BitVec 6 := 0
  y : BitVec 10 := 0
  imm : BitVec 38 := 0
  deriving DecidableEq, Repr

/-- The words of one native instruction (R46, R51, R52); words beyond the tail are 0. -/
structure Words where
  head : BitVec 16
  w1 : BitVec 16 := 0
  w2 : BitVec 16 := 0
  w3 : BitVec 16 := 0
  deriving DecidableEq, Repr

/-- Why an encoding is not an instruction; each raises trap 0x01 (R67, R69, R70, R72, R74). -/
inductive Reject where
  /-- The major is reserved (R70). -/
  | reservedMajor
  /-- T (native) or X (Adtan) is not the major's format (R52, R74). -/
  | formatMismatch
  /-- The F value, or the D value of major 0x00, is not defined (R69). -/
  | undefinedFunction
  /-- A register field is out of range or an unused field is not zero (R53, R54, R72). -/
  | illegalField
  /-- A guard, mask pair, rounding mode, scope, type or stage count is reserved (R55, R58, R72). -/
  | reservedOperand
  deriving DecidableEq, Repr

/-- The T field of a format (R51, R52). -/
def Format.tail : Format → BitVec 2
  | .z => 0 | .p => 1 | .q => 2 | .i => 2 | .v => 3 | .w => 3

/-- The format of each defined major (R69); a reserved major has none (R70). -/
def formatOf (op : BitVec 7) : Option Format :=
  match op.toNat with
  | 0x00 => some .z
  | 0x01 => some .p
  | 0x02 => some .p
  | 0x03 => some .p
  | 0x04 => some .i
  | 0x05 => some .w
  | 0x06 => some .i
  | 0x07 => some .q
  | 0x08 => some .q
  | 0x09 => some .p
  | 0x0A => some .i
  | 0x0B => some .p
  | 0x10 => some .i
  | 0x11 => some .i
  | 0x12 => some .i
  | 0x13 => some .i
  | 0x14 => some .i
  | 0x18 => some .i
  | 0x19 => some .w
  | 0x1A => some .w
  | 0x1B => some .p
  | 0x20 => some .q
  | 0x21 => some .q
  | 0x22 => some .v
  | 0x23 => some .p
  | 0x24 => some .q
  | 0x28 => some .p
  | 0x30 => some .w
  | 0x31 => some .i
  | 0x32 => some .p
  | 0x40 => some .v
  | 0x41 => some .v
  | 0x42 => some .v
  | 0x43 => some .v
  | 0x44 => some .q
  | 0x45 => some .p
  | 0x46 => some .v
  | 0x47 => some .v
  | 0x48 => some .v
  | 0x49 => some .i
  | 0x4A => some .q
  | 0x4B => some .q
  | 0x4C => some .v
  | 0x50 => some .v
  | 0x51 => some .v
  | 0x52 => some .q
  | 0x55 => some .q
  | 0x56 => some .v
  | 0x60 => some .v
  | 0x61 => some .q
  | 0x62 => some .p
  | 0x63 => some .p
  | 0x68 => some .p
  | 0x70 => some .v
  | _ => none

/-- The fields that encode an instruction (R52, R69, R71, R72 and the operand notes of each instruction); an event or
command has none. -/
def Instr.enc : Instr → Option Enc
  | .nop => some { op := 0x00, d := 0 }
  | .stop => some { op := 0x00, d := 1 }
  | .halt => some { op := 0x00, d := 2 }
  | .heel => some { op := 0x00, d := 3 }
  | .rwait => some { op := 0x00, d := 4 }
  | .brk => some { op := 0x00, d := 5 }
  | .tret => some { op := 0x00, d := 6 }
  | .vdrainLd => some { op := 0x00, d := 7 }
  | .vdrainSt => some { op := 0x00, d := 8 }
  | .vdrain => some { op := 0x00, d := 9 }
  | .txabort => some { op := 0x00, d := 10 }
  | .add d a b => some { op := 0x01, d := d, a := a, b := b }
  | .sub d a b => some { op := 0x01, f := 1, d := d, a := a, b := b }
  | .and d a b => some { op := 0x01, f := 2, d := d, a := a, b := b }
  | .or d a b => some { op := 0x01, f := 3, d := d, a := a, b := b }
  | .xor d a b => some { op := 0x01, f := 4, d := d, a := a, b := b }
  | .andn d a b => some { op := 0x01, f := 5, d := d, a := a, b := b }
  | .sll d a b => some { op := 0x01, f := 6, d := d, a := a, b := b }
  | .srl d a b => some { op := 0x01, f := 7, d := d, a := a, b := b }
  | .sra d a b => some { op := 0x01, f := 8, d := d, a := a, b := b }
  | .rol d a b => some { op := 0x01, f := 9, d := d, a := a, b := b }
  | .min d a b => some { op := 0x01, f := 10, d := d, a := a, b := b }
  | .max d a b => some { op := 0x01, f := 11, d := d, a := a, b := b }
  | .minu d a b => some { op := 0x01, f := 12, d := d, a := a, b := b }
  | .maxu d a b => some { op := 0x01, f := 13, d := d, a := a, b := b }
  | .addw d a b => some { op := 0x01, f := 14, d := d, a := a, b := b }
  | .subw d a b => some { op := 0x01, f := 15, d := d, a := a, b := b }
  | .mul d a b => some { op := 0x02, d := d, a := a, b := b }
  | .mulh d a b => some { op := 0x02, f := 1, d := d, a := a, b := b }
  | .mulhu d a b => some { op := 0x02, f := 2, d := d, a := a, b := b }
  | .div d a b => some { op := 0x02, f := 3, d := d, a := a, b := b }
  | .divu d a b => some { op := 0x02, f := 4, d := d, a := a, b := b }
  | .rem d a b => some { op := 0x02, f := 5, d := d, a := a, b := b }
  | .remu d a b => some { op := 0x02, f := 6, d := d, a := a, b := b }
  | .mulw d a b => some { op := 0x02, f := 7, d := d, a := a, b := b }
  | .clz d a => some { op := 0x03, d := d, a := a }
  | .ctz d a => some { op := 0x03, f := 1, d := d, a := a }
  | .popc d a => some { op := 0x03, f := 2, d := d, a := a }
  | .bswap d a => some { op := 0x03, f := 3, d := d, a := a }
  | .brev d a => some { op := 0x03, f := 4, d := d, a := a }
  | .sxb d a => some { op := 0x03, f := 5, d := d, a := a }
  | .sxh d a => some { op := 0x03, f := 6, d := d, a := a }
  | .sxw d a => some { op := 0x03, f := 7, d := d, a := a }
  | .zxw d a => some { op := 0x03, f := 8, d := d, a := a }
  | .addi d a imm => some { op := 0x04, d := d, a := a, imm := imm.setWidth 38 }
  | .andi d a imm => some { op := 0x04, f := 1, d := d, a := a, imm := imm.setWidth 38 }
  | .ori d a imm => some { op := 0x04, f := 2, d := d, a := a, imm := imm.setWidth 38 }
  | .xori d a imm => some { op := 0x04, f := 3, d := d, a := a, imm := imm.setWidth 38 }
  | .slli d a sh => some { op := 0x04, f := 4, d := d, a := a, imm := sh.setWidth 38 }
  | .srli d a sh => some { op := 0x04, f := 5, d := d, a := a, imm := sh.setWidth 38 }
  | .srai d a sh => some { op := 0x04, f := 6, d := d, a := a, imm := sh.setWidth 38 }
  | .roli d a sh => some { op := 0x04, f := 7, d := d, a := a, imm := sh.setWidth 38 }
  | .li d imm => some { op := 0x05, d := d, imm := imm }
  | .lhi d imm => some { op := 0x06, d := d, imm := imm.setWidth 38 }
  | .sel gd d a b => some { op := 0x07, g := gd.g, n := gd.n, d := d, a := a, b := b }
  | .adda gd d a b sh => some { op := 0x08, g := gd.g, n := gd.n, d := d, a := a, b := b, s := sh.setWidth 4 }
  | .ceq pd a b => some { op := 0x09, d := pd.setWidth 6, a := a, b := b }
  | .cne pd a b => some { op := 0x09, f := 1, d := pd.setWidth 6, a := a, b := b }
  | .clt pd a b => some { op := 0x09, f := 2, d := pd.setWidth 6, a := a, b := b }
  | .cge pd a b => some { op := 0x09, f := 3, d := pd.setWidth 6, a := a, b := b }
  | .cltu pd a b => some { op := 0x09, f := 4, d := pd.setWidth 6, a := a, b := b }
  | .cgeu pd a b => some { op := 0x09, f := 5, d := pd.setWidth 6, a := a, b := b }
  | .ceqi pd a imm => some { op := 0x0A, d := pd.setWidth 6, a := a, imm := imm.setWidth 38 }
  | .cnei pd a imm => some { op := 0x0A, f := 1, d := pd.setWidth 6, a := a, imm := imm.setWidth 38 }
  | .clti pd a imm => some { op := 0x0A, f := 2, d := pd.setWidth 6, a := a, imm := imm.setWidth 38 }
  | .cgei pd a imm => some { op := 0x0A, f := 3, d := pd.setWidth 6, a := a, imm := imm.setWidth 38 }
  | .cltui pd a imm => some { op := 0x0A, f := 4, d := pd.setWidth 6, a := a, imm := imm.setWidth 38 }
  | .cgeui pd a imm => some { op := 0x0A, f := 5, d := pd.setWidth 6, a := a, imm := imm.setWidth 38 }
  | .pand pd pa pb => some { op := 0x0B, d := pd.setWidth 6, a := pa.setWidth 6, b := pb.setWidth 6 }
  | .por pd pa pb => some { op := 0x0B, f := 1, d := pd.setWidth 6, a := pa.setWidth 6, b := pb.setWidth 6 }
  | .pxor pd pa pb => some { op := 0x0B, f := 2, d := pd.setWidth 6, a := pa.setWidth 6, b := pb.setWidth 6 }
  | .pandn pd pa pb => some { op := 0x0B, f := 3, d := pd.setWidth 6, a := pa.setWidth 6, b := pb.setWidth 6 }
  | .pnot pd pa => some { op := 0x0B, f := 4, d := pd.setWidth 6, a := pa.setWidth 6 }
  | .pmov pd pa => some { op := 0x0B, f := 5, d := pd.setWidth 6, a := pa.setWidth 6 }
  | .ld8 d a imm => some { op := 0x10, d := d, a := a, imm := imm.setWidth 38 }
  | .ld16 d a imm => some { op := 0x10, f := 1, d := d, a := a, imm := imm.setWidth 38 }
  | .ld32 d a imm => some { op := 0x10, f := 2, d := d, a := a, imm := imm.setWidth 38 }
  | .ld64 d a imm => some { op := 0x10, f := 3, d := d, a := a, imm := imm.setWidth 38 }
  | .ld8s d a imm => some { op := 0x10, f := 4, d := d, a := a, imm := imm.setWidth 38 }
  | .ld16s d a imm => some { op := 0x10, f := 5, d := d, a := a, imm := imm.setWidth 38 }
  | .ld32s d a imm => some { op := 0x10, f := 6, d := d, a := a, imm := imm.setWidth 38 }
  | .st8 d a imm => some { op := 0x11, d := d, a := a, imm := imm.setWidth 38 }
  | .st16 d a imm => some { op := 0x11, f := 1, d := d, a := a, imm := imm.setWidth 38 }
  | .st32 d a imm => some { op := 0x11, f := 2, d := d, a := a, imm := imm.setWidth 38 }
  | .st64 d a imm => some { op := 0x11, f := 3, d := d, a := a, imm := imm.setWidth 38 }
  | .ldl8 d a imm => some { op := 0x12, d := d, a := a, imm := imm.setWidth 38 }
  | .ldl16 d a imm => some { op := 0x12, f := 1, d := d, a := a, imm := imm.setWidth 38 }
  | .ldl32 d a imm => some { op := 0x12, f := 2, d := d, a := a, imm := imm.setWidth 38 }
  | .ldl64 d a imm => some { op := 0x12, f := 3, d := d, a := a, imm := imm.setWidth 38 }
  | .stl8 d a imm => some { op := 0x13, d := d, a := a, imm := imm.setWidth 38 }
  | .stl16 d a imm => some { op := 0x13, f := 1, d := d, a := a, imm := imm.setWidth 38 }
  | .stl32 d a imm => some { op := 0x13, f := 2, d := d, a := a, imm := imm.setWidth 38 }
  | .stl64 d a imm => some { op := 0x13, f := 3, d := d, a := a, imm := imm.setWidth 38 }
  | .ldv8 d a imm => some { op := 0x14, d := d, a := a, imm := imm.setWidth 38 }
  | .ldv16 d a imm => some { op := 0x14, f := 1, d := d, a := a, imm := imm.setWidth 38 }
  | .ldv32 d a imm => some { op := 0x14, f := 2, d := d, a := a, imm := imm.setWidth 38 }
  | .ldv64 d a imm => some { op := 0x14, f := 3, d := d, a := a, imm := imm.setWidth 38 }
  | .br neg pa imm => some { op := 0x18, a := BitVec.ofBool neg ++ pa, imm := imm.setWidth 38 }
  | .jmp imm => some { op := 0x19, imm := imm }
  | .call d imm => some { op := 0x19, f := 1, d := d, imm := imm }
  | .jmpr a => some { op := 0x19, f := 2, a := a }
  | .callr d a => some { op := 0x19, f := 3, d := d, a := a }
  | .ret a => some { op := 0x19, f := 4, a := a }
  | .fetch imm => some { op := 0x1A, imm := imm }
  | .fetchr a => some { op := 0x1A, f := 1, a := a }
  | .leash imm => some { op := 0x1A, f := 2, imm := imm }
  | .leashr a => some { op := 0x1A, f := 3, a := a }
  | .qsendQ0 d => some { op := 0x1B, d := d }
  | .qsendQ1 d => some { op := 0x1B, f := 1, d := d }
  | .qrecvQ0 d => some { op := 0x1B, f := 2, d := d }
  | .qrecvQ1 d => some { op := 0x1B, f := 3, d := d }
  | .xqpushQ0 xd => some { op := 0x1B, f := 4, d := xd.setWidth 6 }
  | .xqpushQ1 xd => some { op := 0x1B, f := 5, d := xd.setWidth 6 }
  | .xqpopQ0 xd => some { op := 0x1B, f := 6, d := xd.setWidth 6 }
  | .xqpopQ1 xd => some { op := 0x1B, f := 7, d := xd.setWidth 6 }
  | .queueWaitComplete _ => none
  | .faddS gd ex rm d a b => some { op := 0x20, g := gd.g, n := gd.n, e := ex.e, m := ex.m, s := rm, d := d, a := a, b := b }
  | .fsubS gd ex rm d a b => some { op := 0x20, f := 1, g := gd.g, n := gd.n, e := ex.e, m := ex.m, s := rm, d := d, a := a, b := b }
  | .fmulS gd ex rm d a b => some { op := 0x20, f := 2, g := gd.g, n := gd.n, e := ex.e, m := ex.m, s := rm, d := d, a := a, b := b }
  | .fdivS gd ex rm d a b => some { op := 0x20, f := 3, g := gd.g, n := gd.n, e := ex.e, m := ex.m, s := rm, d := d, a := a, b := b }
  | .fminS gd ex d a b => some { op := 0x20, f := 4, g := gd.g, n := gd.n, e := ex.e, m := ex.m, d := d, a := a, b := b }
  | .fmaxS gd ex d a b => some { op := 0x20, f := 5, g := gd.g, n := gd.n, e := ex.e, m := ex.m, d := d, a := a, b := b }
  | .fsqrtS gd ex rm d a => some { op := 0x20, f := 6, g := gd.g, n := gd.n, e := ex.e, m := ex.m, s := rm, d := d, a := a }
  | .fabsS gd ex d a => some { op := 0x20, f := 7, g := gd.g, n := gd.n, e := ex.e, m := ex.m, d := d, a := a }
  | .fnegS gd ex d a => some { op := 0x20, f := 8, g := gd.g, n := gd.n, e := ex.e, m := ex.m, d := d, a := a }
  | .faddD gd ex rm d a b => some { op := 0x21, g := gd.g, n := gd.n, e := ex.e, m := ex.m, s := rm, d := d, a := a, b := b }
  | .fsubD gd ex rm d a b => some { op := 0x21, f := 1, g := gd.g, n := gd.n, e := ex.e, m := ex.m, s := rm, d := d, a := a, b := b }
  | .fmulD gd ex rm d a b => some { op := 0x21, f := 2, g := gd.g, n := gd.n, e := ex.e, m := ex.m, s := rm, d := d, a := a, b := b }
  | .fdivD gd ex rm d a b => some { op := 0x21, f := 3, g := gd.g, n := gd.n, e := ex.e, m := ex.m, s := rm, d := d, a := a, b := b }
  | .fminD gd ex d a b => some { op := 0x21, f := 4, g := gd.g, n := gd.n, e := ex.e, m := ex.m, d := d, a := a, b := b }
  | .fmaxD gd ex d a b => some { op := 0x21, f := 5, g := gd.g, n := gd.n, e := ex.e, m := ex.m, d := d, a := a, b := b }
  | .fsqrtD gd ex rm d a => some { op := 0x21, f := 6, g := gd.g, n := gd.n, e := ex.e, m := ex.m, s := rm, d := d, a := a }
  | .fabsD gd ex d a => some { op := 0x21, f := 7, g := gd.g, n := gd.n, e := ex.e, m := ex.m, d := d, a := a }
  | .fnegD gd ex d a => some { op := 0x21, f := 8, g := gd.g, n := gd.n, e := ex.e, m := ex.m, d := d, a := a }
  | .ffmaS gd ex rm d a b c => some { op := 0x22, g := gd.g, n := gd.n, e := ex.e, m := ex.m, s := rm, d := d, a := a, b := b, c := c }
  | .ffmsS gd ex rm d a b c => some { op := 0x22, f := 1, g := gd.g, n := gd.n, e := ex.e, m := ex.m, s := rm, d := d, a := a, b := b, c := c }
  | .ffnmaS gd ex rm d a b c => some { op := 0x22, f := 2, g := gd.g, n := gd.n, e := ex.e, m := ex.m, s := rm, d := d, a := a, b := b, c := c }
  | .ffmaD gd ex rm d a b c => some { op := 0x22, f := 4, g := gd.g, n := gd.n, e := ex.e, m := ex.m, s := rm, d := d, a := a, b := b, c := c }
  | .ffmsD gd ex rm d a b c => some { op := 0x22, f := 5, g := gd.g, n := gd.n, e := ex.e, m := ex.m, s := rm, d := d, a := a, b := b, c := c }
  | .ffnmaD gd ex rm d a b c => some { op := 0x22, f := 6, g := gd.g, n := gd.n, e := ex.e, m := ex.m, s := rm, d := d, a := a, b := b, c := c }
  | .feqS pd a b => some { op := 0x23, d := pd.setWidth 6, a := a, b := b }
  | .fltS pd a b => some { op := 0x23, f := 1, d := pd.setWidth 6, a := a, b := b }
  | .fleS pd a b => some { op := 0x23, f := 2, d := pd.setWidth 6, a := a, b := b }
  | .funordS pd a b => some { op := 0x23, f := 3, d := pd.setWidth 6, a := a, b := b }
  | .feqD pd a b => some { op := 0x23, f := 4, d := pd.setWidth 6, a := a, b := b }
  | .fltD pd a b => some { op := 0x23, f := 5, d := pd.setWidth 6, a := a, b := b }
  | .fleD pd a b => some { op := 0x23, f := 6, d := pd.setWidth 6, a := a, b := b }
  | .funordD pd a b => some { op := 0x23, f := 7, d := pd.setWidth 6, a := a, b := b }
  | .cvtF64F32 gd ex rm d a => some { op := 0x24, g := gd.g, n := gd.n, e := ex.e, m := ex.m, s := rm, d := d, a := a }
  | .cvtF32F64 gd ex rm d a => some { op := 0x24, f := 1, g := gd.g, n := gd.n, e := ex.e, m := ex.m, s := rm, d := d, a := a }
  | .cvtF32I64 gd ex rm d a => some { op := 0x24, f := 2, g := gd.g, n := gd.n, e := ex.e, m := ex.m, s := rm, d := d, a := a }
  | .cvtI64F32 gd ex rm d a => some { op := 0x24, f := 3, g := gd.g, n := gd.n, e := ex.e, m := ex.m, s := rm, d := d, a := a }
  | .cvtF64I64 gd ex rm d a => some { op := 0x24, f := 4, g := gd.g, n := gd.n, e := ex.e, m := ex.m, s := rm, d := d, a := a }
  | .cvtI64F64 gd ex rm d a => some { op := 0x24, f := 5, g := gd.g, n := gd.n, e := ex.e, m := ex.m, s := rm, d := d, a := a }
  | .cvtBf16F32 gd ex rm d a => some { op := 0x24, f := 6, g := gd.g, n := gd.n, e := ex.e, m := ex.m, s := rm, d := d, a := a }
  | .cvtF32Bf16 gd ex rm d a => some { op := 0x24, f := 7, g := gd.g, n := gd.n, e := ex.e, m := ex.m, s := rm, d := d, a := a }
  | .cvtFp16F32 gd ex rm d a => some { op := 0x24, f := 8, g := gd.g, n := gd.n, e := ex.e, m := ex.m, s := rm, d := d, a := a }
  | .cvtF32Fp16 gd ex rm d a => some { op := 0x24, f := 9, g := gd.g, n := gd.n, e := ex.e, m := ex.m, s := rm, d := d, a := a }
  | .cvtE4m3F32 gd ex rm d a => some { op := 0x24, f := 10, g := gd.g, n := gd.n, e := ex.e, m := ex.m, s := rm, d := d, a := a }
  | .cvtF32E4m3 gd ex rm d a => some { op := 0x24, f := 11, g := gd.g, n := gd.n, e := ex.e, m := ex.m, s := rm, d := d, a := a }
  | .cvtE5m2F32 gd ex rm d a => some { op := 0x24, f := 12, g := gd.g, n := gd.n, e := ex.e, m := ex.m, s := rm, d := d, a := a }
  | .cvtF32E5m2 gd ex rm d a => some { op := 0x24, f := 13, g := gd.g, n := gd.n, e := ex.e, m := ex.m, s := rm, d := d, a := a }
  | .cvtLgF32 gd ex rm d a => some { op := 0x24, f := 14, g := gd.g, n := gd.n, e := ex.e, m := ex.m, s := rm, d := d, a := a }
  | .cvtF32Lg gd ex rm d a => some { op := 0x24, f := 15, g := gd.g, n := gd.n, e := ex.e, m := ex.m, s := rm, d := d, a := a }
  | .getsr d a b => some { op := 0x28, d := d, a := a, b := b }
  | .setsr d a b => some { op := 0x28, f := 1, d := d, a := a, b := b }
  | .cpgo d => some { op := 0x28, b := 41, d := d }
  | .trap a b => some { op := 0x28, f := 2, a := a, b := b }
  | .rdcyc d => some { op := 0x28, f := 3, d := d }
  | .rfetch imm => some { op := 0x30, imm := imm }
  | .rfetchIdem imm => some { op := 0x30, f := 1, imm := imm }
  | .rfetchr xa => some { op := 0x30, f := 2, a := xa.setWidth 6 }
  | .rfetchrIdem xa => some { op := 0x30, f := 3, a := xa.setWidth 6 }
  | .setvl xd xa vt => some { op := 0x31, d := xd.setWidth 6, a := xa.setWidth 6, imm := vt.setWidth 38 }
  | .launch xd xa => some { op := 0x32, d := xd.setWidth 6, a := xa.setWidth 6 }
  | .vadd gd vd va vb => some { op := 0x40, g := gd.g, n := gd.n, d := vd, a := va, b := vb }
  | .vsub gd vd va vb => some { op := 0x40, f := 1, g := gd.g, n := gd.n, d := vd, a := va, b := vb }
  | .vmul gd vd va vb => some { op := 0x40, f := 2, g := gd.g, n := gd.n, d := vd, a := va, b := vb }
  | .vmulh gd vd va vb => some { op := 0x40, f := 3, g := gd.g, n := gd.n, d := vd, a := va, b := vb }
  | .vand gd vd va vb => some { op := 0x40, f := 4, g := gd.g, n := gd.n, d := vd, a := va, b := vb }
  | .vor gd vd va vb => some { op := 0x40, f := 5, g := gd.g, n := gd.n, d := vd, a := va, b := vb }
  | .vxor gd vd va vb => some { op := 0x40, f := 6, g := gd.g, n := gd.n, d := vd, a := va, b := vb }
  | .vsll gd vd va vb => some { op := 0x40, f := 7, g := gd.g, n := gd.n, d := vd, a := va, b := vb }
  | .vsrl gd vd va vb => some { op := 0x40, f := 8, g := gd.g, n := gd.n, d := vd, a := va, b := vb }
  | .vsra gd vd va vb => some { op := 0x40, f := 9, g := gd.g, n := gd.n, d := vd, a := va, b := vb }
  | .vmin gd vd va vb => some { op := 0x40, f := 10, g := gd.g, n := gd.n, d := vd, a := va, b := vb }
  | .vmax gd vd va vb => some { op := 0x40, f := 11, g := gd.g, n := gd.n, d := vd, a := va, b := vb }
  | .vminu gd vd va vb => some { op := 0x40, f := 12, g := gd.g, n := gd.n, d := vd, a := va, b := vb }
  | .vmaxu gd vd va vb => some { op := 0x40, f := 13, g := gd.g, n := gd.n, d := vd, a := va, b := vb }
  | .vadc gd vd va vb mc mm => some { op := 0x40, f := 14, g := gd.g, n := gd.n, d := vd, a := va, b := vb, c := mc.setWidth 6, m := mm }
  | .vsbc gd vd va vb mc mm => some { op := 0x40, f := 15, g := gd.g, n := gd.n, d := vd, a := va, b := vb, c := mc.setWidth 6, m := mm }
  | .vaddVx gd vd va xb => some { op := 0x41, g := gd.g, n := gd.n, d := vd, a := va, b := xb.setWidth 6 }
  | .vsubVx gd vd va xb => some { op := 0x41, f := 1, g := gd.g, n := gd.n, d := vd, a := va, b := xb.setWidth 6 }
  | .vmulVx gd vd va xb => some { op := 0x41, f := 2, g := gd.g, n := gd.n, d := vd, a := va, b := xb.setWidth 6 }
  | .vmulhVx gd vd va xb => some { op := 0x41, f := 3, g := gd.g, n := gd.n, d := vd, a := va, b := xb.setWidth 6 }
  | .vandVx gd vd va xb => some { op := 0x41, f := 4, g := gd.g, n := gd.n, d := vd, a := va, b := xb.setWidth 6 }
  | .vorVx gd vd va xb => some { op := 0x41, f := 5, g := gd.g, n := gd.n, d := vd, a := va, b := xb.setWidth 6 }
  | .vxorVx gd vd va xb => some { op := 0x41, f := 6, g := gd.g, n := gd.n, d := vd, a := va, b := xb.setWidth 6 }
  | .vsllVx gd vd va xb => some { op := 0x41, f := 7, g := gd.g, n := gd.n, d := vd, a := va, b := xb.setWidth 6 }
  | .vsrlVx gd vd va xb => some { op := 0x41, f := 8, g := gd.g, n := gd.n, d := vd, a := va, b := xb.setWidth 6 }
  | .vsraVx gd vd va xb => some { op := 0x41, f := 9, g := gd.g, n := gd.n, d := vd, a := va, b := xb.setWidth 6 }
  | .vminVx gd vd va xb => some { op := 0x41, f := 10, g := gd.g, n := gd.n, d := vd, a := va, b := xb.setWidth 6 }
  | .vmaxVx gd vd va xb => some { op := 0x41, f := 11, g := gd.g, n := gd.n, d := vd, a := va, b := xb.setWidth 6 }
  | .vminuVx gd vd va xb => some { op := 0x41, f := 12, g := gd.g, n := gd.n, d := vd, a := va, b := xb.setWidth 6 }
  | .vmaxuVx gd vd va xb => some { op := 0x41, f := 13, g := gd.g, n := gd.n, d := vd, a := va, b := xb.setWidth 6 }
  | .vadcVx gd vd va xb mc mm => some { op := 0x41, f := 14, g := gd.g, n := gd.n, d := vd, a := va, b := xb.setWidth 6, c := mc.setWidth 6, m := mm }
  | .vsbcVx gd vd va xb mc mm => some { op := 0x41, f := 15, g := gd.g, n := gd.n, d := vd, a := va, b := xb.setWidth 6, c := mc.setWidth 6, m := mm }
  | .vfadd gd ex rm fp16 vd va vb => some { op := 0x42, g := gd.g, n := gd.n, e := ex.e, m := ex.m, s := rm, d := vd, a := va, b := vb, y := (BitVec.ofBool fp16).setWidth 10 }
  | .vfsub gd ex rm fp16 vd va vb => some { op := 0x42, f := 1, g := gd.g, n := gd.n, e := ex.e, m := ex.m, s := rm, d := vd, a := va, b := vb, y := (BitVec.ofBool fp16).setWidth 10 }
  | .vfmul gd ex rm fp16 vd va vb => some { op := 0x42, f := 2, g := gd.g, n := gd.n, e := ex.e, m := ex.m, s := rm, d := vd, a := va, b := vb, y := (BitVec.ofBool fp16).setWidth 10 }
  | .vfdiv gd ex rm fp16 vd va vb => some { op := 0x42, f := 3, g := gd.g, n := gd.n, e := ex.e, m := ex.m, s := rm, d := vd, a := va, b := vb, y := (BitVec.ofBool fp16).setWidth 10 }
  | .vfmin gd ex fp16 vd va vb => some { op := 0x42, f := 4, g := gd.g, n := gd.n, e := ex.e, m := ex.m, d := vd, a := va, b := vb, y := (BitVec.ofBool fp16).setWidth 10 }
  | .vfmax gd ex fp16 vd va vb => some { op := 0x42, f := 5, g := gd.g, n := gd.n, e := ex.e, m := ex.m, d := vd, a := va, b := vb, y := (BitVec.ofBool fp16).setWidth 10 }
  | .vfsqrt gd ex rm fp16 vd va => some { op := 0x42, f := 6, g := gd.g, n := gd.n, e := ex.e, m := ex.m, s := rm, d := vd, a := va, y := (BitVec.ofBool fp16).setWidth 10 }
  | .vfma gd ex rm fp16 vd va vb vc => some { op := 0x42, f := 7, g := gd.g, n := gd.n, e := ex.e, m := ex.m, s := rm, d := vd, a := va, b := vb, c := vc, y := (BitVec.ofBool fp16).setWidth 10 }
  | .vfms gd ex rm fp16 vd va vb vc => some { op := 0x42, f := 8, g := gd.g, n := gd.n, e := ex.e, m := ex.m, s := rm, d := vd, a := va, b := vb, c := vc, y := (BitVec.ofBool fp16).setWidth 10 }
  | .vfnma gd ex rm fp16 vd va vb vc => some { op := 0x42, f := 9, g := gd.g, n := gd.n, e := ex.e, m := ex.m, s := rm, d := vd, a := va, b := vb, c := vc, y := (BitVec.ofBool fp16).setWidth 10 }
  | .vfabs gd ex fp16 vd va => some { op := 0x42, f := 10, g := gd.g, n := gd.n, e := ex.e, m := ex.m, d := vd, a := va, y := (BitVec.ofBool fp16).setWidth 10 }
  | .vfneg gd ex fp16 vd va => some { op := 0x42, f := 11, g := gd.g, n := gd.n, e := ex.e, m := ex.m, d := vd, a := va, y := (BitVec.ofBool fp16).setWidth 10 }
  | .vceq gd xb md va b => some { op := 0x43, g := gd.g, n := gd.n, d := md.setWidth 6, a := va, b := b, y := ((BitVec.ofBool xb).setWidth 10) <<< 1 }
  | .vcne gd xb md va b => some { op := 0x43, f := 1, g := gd.g, n := gd.n, d := md.setWidth 6, a := va, b := b, y := ((BitVec.ofBool xb).setWidth 10) <<< 1 }
  | .vclt gd xb md va b => some { op := 0x43, f := 2, g := gd.g, n := gd.n, d := md.setWidth 6, a := va, b := b, y := ((BitVec.ofBool xb).setWidth 10) <<< 1 }
  | .vcge gd xb md va b => some { op := 0x43, f := 3, g := gd.g, n := gd.n, d := md.setWidth 6, a := va, b := b, y := ((BitVec.ofBool xb).setWidth 10) <<< 1 }
  | .vcltu gd xb md va b => some { op := 0x43, f := 4, g := gd.g, n := gd.n, d := md.setWidth 6, a := va, b := b, y := ((BitVec.ofBool xb).setWidth 10) <<< 1 }
  | .vcgeu gd xb md va b => some { op := 0x43, f := 5, g := gd.g, n := gd.n, d := md.setWidth 6, a := va, b := b, y := ((BitVec.ofBool xb).setWidth 10) <<< 1 }
  | .vfeq gd ex xb md va b => some { op := 0x43, f := 8, g := gd.g, n := gd.n, e := ex.e, m := ex.m, d := md.setWidth 6, a := va, b := b, y := ((BitVec.ofBool xb).setWidth 10) <<< 1 }
  | .vflt gd ex xb md va b => some { op := 0x43, f := 9, g := gd.g, n := gd.n, e := ex.e, m := ex.m, d := md.setWidth 6, a := va, b := b, y := ((BitVec.ofBool xb).setWidth 10) <<< 1 }
  | .vfle gd ex xb md va b => some { op := 0x43, f := 10, g := gd.g, n := gd.n, e := ex.e, m := ex.m, d := md.setWidth 6, a := va, b := b, y := ((BitVec.ofBool xb).setWidth 10) <<< 1 }
  | .vfunord gd ex xb md va b => some { op := 0x43, f := 11, g := gd.g, n := gd.n, e := ex.e, m := ex.m, d := md.setWidth 6, a := va, b := b, y := ((BitVec.ofBool xb).setWidth 10) <<< 1 }
  | .mand gd md ma mb => some { op := 0x44, g := gd.g, n := gd.n, d := md.setWidth 6, a := ma.setWidth 6, b := mb.setWidth 6 }
  | .mor gd md ma mb => some { op := 0x44, f := 1, g := gd.g, n := gd.n, d := md.setWidth 6, a := ma.setWidth 6, b := mb.setWidth 6 }
  | .mxor gd md ma mb => some { op := 0x44, f := 2, g := gd.g, n := gd.n, d := md.setWidth 6, a := ma.setWidth 6, b := mb.setWidth 6 }
  | .mandn gd md ma mb => some { op := 0x44, f := 3, g := gd.g, n := gd.n, d := md.setWidth 6, a := ma.setWidth 6, b := mb.setWidth 6 }
  | .mnot gd md ma => some { op := 0x44, f := 4, g := gd.g, n := gd.n, d := md.setWidth 6, a := ma.setWidth 6 }
  | .mmov gd md ma => some { op := 0x44, f := 5, g := gd.g, n := gd.n, d := md.setWidth 6, a := ma.setWidth 6 }
  | .mshl gd md ma => some { op := 0x44, f := 6, g := gd.g, n := gd.n, d := md.setWidth 6, a := ma.setWidth 6 }
  | .mshr gd md ma => some { op := 0x44, f := 7, g := gd.g, n := gd.n, d := md.setWidth 6, a := ma.setWidth 6 }
  | .mset gd md => some { op := 0x44, f := 8, g := gd.g, n := gd.n, d := md.setWidth 6 }
  | .mclr gd md => some { op := 0x44, f := 9, g := gd.g, n := gd.n, d := md.setWidth 6 }
  | .mrdd gd md => some { op := 0x44, f := 10, g := gd.g, n := gd.n, d := md.setWidth 6 }
  | .mwrd gd ma => some { op := 0x44, f := 11, g := gd.g, n := gd.n, a := ma.setWidth 6 }
  | .mpop xd ma => some { op := 0x45, d := xd.setWidth 6, a := ma.setWidth 6 }
  | .mffs xd ma => some { op := 0x45, f := 1, d := xd.setWidth 6, a := ma.setWidth 6 }
  | .mfls xd ma => some { op := 0x45, f := 2, d := xd.setWidth 6, a := ma.setWidth 6 }
  | .vslideup gd vd va xb => some { op := 0x46, g := gd.g, n := gd.n, d := vd, a := va, b := xb.setWidth 6 }
  | .vslidedn gd vd va xb => some { op := 0x46, f := 1, g := gd.g, n := gd.n, d := vd, a := va, b := xb.setWidth 6 }
  | .vperm gd vd va vb => some { op := 0x46, f := 2, g := gd.g, n := gd.n, d := vd, a := va, b := vb }
  | .vbcast gd vd xa => some { op := 0x46, f := 3, g := gd.g, n := gd.n, d := vd, a := xa.setWidth 6 }
  | .vcompress vd va mb => some { op := 0x46, f := 4, d := vd, a := va, b := mb.setWidth 6 }
  | .vexpand vd va mb => some { op := 0x46, f := 5, d := vd, a := va, b := mb.setWidth 6 }
  | .vext xd va xb => some { op := 0x46, f := 6, d := xd.setWidth 6, a := va, b := xb.setWidth 6 }
  | .vins vd xa xb => some { op := 0x46, f := 7, d := vd, a := xa.setWidth 6, b := xb.setWidth 6 }
  | .vredoFadd gd fp16 xd va xb => some { op := 0x47, g := gd.g, n := gd.n, d := xd.setWidth 6, a := va, b := xb.setWidth 6, y := (BitVec.ofBool fp16).setWidth 10 }
  | .vredtFadd gd fp16 xd va xb => some { op := 0x47, f := 1, g := gd.g, n := gd.n, d := xd.setWidth 6, a := va, b := xb.setWidth 6, y := (BitVec.ofBool fp16).setWidth 10 }
  | .vredFmax gd fp16 xd va xb => some { op := 0x47, f := 2, g := gd.g, n := gd.n, d := xd.setWidth 6, a := va, b := xb.setWidth 6, y := (BitVec.ofBool fp16).setWidth 10 }
  | .vredFmin gd fp16 xd va xb => some { op := 0x47, f := 3, g := gd.g, n := gd.n, d := xd.setWidth 6, a := va, b := xb.setWidth 6, y := (BitVec.ofBool fp16).setWidth 10 }
  | .vredAdd gd xd va xb => some { op := 0x47, f := 4, g := gd.g, n := gd.n, d := xd.setWidth 6, a := va, b := xb.setWidth 6 }
  | .vredAnd gd xd va xb => some { op := 0x47, f := 5, g := gd.g, n := gd.n, d := xd.setWidth 6, a := va, b := xb.setWidth 6 }
  | .vredOr gd xd va xb => some { op := 0x47, f := 6, g := gd.g, n := gd.n, d := xd.setWidth 6, a := va, b := xb.setWidth 6 }
  | .vredXor gd xd va xb => some { op := 0x47, f := 7, g := gd.g, n := gd.n, d := xd.setWidth 6, a := va, b := xb.setWidth 6 }
  | .vredMax gd xd va xb => some { op := 0x47, f := 8, g := gd.g, n := gd.n, d := xd.setWidth 6, a := va, b := xb.setWidth 6 }
  | .vredMin gd xd va xb => some { op := 0x47, f := 9, g := gd.g, n := gd.n, d := xd.setWidth 6, a := va, b := xb.setWidth 6 }
  | .vredMaxu gd xd va xb => some { op := 0x47, f := 10, g := gd.g, n := gd.n, d := xd.setWidth 6, a := va, b := xb.setWidth 6 }
  | .vredMinu gd xd va xb => some { op := 0x47, f := 11, g := gd.g, n := gd.n, d := xd.setWidth 6, a := va, b := xb.setWidth 6 }
  | .vcvtF64F32 gd ex rm vd va => some { op := 0x48, g := gd.g, n := gd.n, e := ex.e, m := ex.m, s := rm, d := vd, a := va }
  | .vcvtF32F64 gd ex rm vd va => some { op := 0x48, f := 1, g := gd.g, n := gd.n, e := ex.e, m := ex.m, s := rm, d := vd, a := va }
  | .vcvtF32I64 gd ex rm vd va => some { op := 0x48, f := 2, g := gd.g, n := gd.n, e := ex.e, m := ex.m, s := rm, d := vd, a := va }
  | .vcvtI64F32 gd ex rm vd va => some { op := 0x48, f := 3, g := gd.g, n := gd.n, e := ex.e, m := ex.m, s := rm, d := vd, a := va }
  | .vcvtF64I64 gd ex rm vd va => some { op := 0x48, f := 4, g := gd.g, n := gd.n, e := ex.e, m := ex.m, s := rm, d := vd, a := va }
  | .vcvtI64F64 gd ex rm vd va => some { op := 0x48, f := 5, g := gd.g, n := gd.n, e := ex.e, m := ex.m, s := rm, d := vd, a := va }
  | .vcvtBf16F32 gd ex rm vd va => some { op := 0x48, f := 6, g := gd.g, n := gd.n, e := ex.e, m := ex.m, s := rm, d := vd, a := va }
  | .vcvtF32Bf16 gd ex rm vd va => some { op := 0x48, f := 7, g := gd.g, n := gd.n, e := ex.e, m := ex.m, s := rm, d := vd, a := va }
  | .vcvtFp16F32 gd ex rm vd va => some { op := 0x48, f := 8, g := gd.g, n := gd.n, e := ex.e, m := ex.m, s := rm, d := vd, a := va }
  | .vcvtF32Fp16 gd ex rm vd va => some { op := 0x48, f := 9, g := gd.g, n := gd.n, e := ex.e, m := ex.m, s := rm, d := vd, a := va }
  | .vcvtE4m3F32 gd ex rm vd va => some { op := 0x48, f := 10, g := gd.g, n := gd.n, e := ex.e, m := ex.m, s := rm, d := vd, a := va }
  | .vcvtF32E4m3 gd ex rm vd va => some { op := 0x48, f := 11, g := gd.g, n := gd.n, e := ex.e, m := ex.m, s := rm, d := vd, a := va }
  | .vcvtE5m2F32 gd ex rm vd va => some { op := 0x48, f := 12, g := gd.g, n := gd.n, e := ex.e, m := ex.m, s := rm, d := vd, a := va }
  | .vcvtF32E5m2 gd ex rm vd va => some { op := 0x48, f := 13, g := gd.g, n := gd.n, e := ex.e, m := ex.m, s := rm, d := vd, a := va }
  | .vcvtLgF32 gd ex rm vd va => some { op := 0x48, f := 14, g := gd.g, n := gd.n, e := ex.e, m := ex.m, s := rm, d := vd, a := va }
  | .vcvtF32Lg gd ex rm vd va => some { op := 0x48, f := 15, g := gd.g, n := gd.n, e := ex.e, m := ex.m, s := rm, d := vd, a := va }
  | .vld vd xa imm => some { op := 0x49, d := vd, a := xa.setWidth 6, imm := imm.setWidth 38 }
  | .vldff vd xa imm => some { op := 0x49, f := 1, d := vd, a := xa.setWidth 6, imm := imm.setWidth 38 }
  | .vldv vd xa imm => some { op := 0x49, f := 2, d := vd, a := xa.setWidth 6, imm := imm.setWidth 38 }
  | .vldsp vd xa imm => some { op := 0x49, f := 3, d := vd, a := xa.setWidth 6, imm := imm.setWidth 38 }
  | .vlds gd vd xa xb => some { op := 0x4A, g := gd.g, n := gd.n, d := vd, a := xa.setWidth 6, b := xb.setWidth 6 }
  | .vldx gd vd xa vb => some { op := 0x4A, f := 1, g := gd.g, n := gd.n, d := vd, a := xa.setWidth 6, b := vb }
  | .vldl gd vd xa vb => some { op := 0x4A, f := 2, g := gd.g, n := gd.n, d := vd, a := xa.setWidth 6, b := vb }
  | .vldxv gd vd xa vb => some { op := 0x4A, f := 3, g := gd.g, n := gd.n, d := vd, a := xa.setWidth 6, b := vb }
  | .vst gd vd xa => some { op := 0x4B, g := gd.g, n := gd.n, d := vd, a := xa.setWidth 6 }
  | .vsts gd vd xa xb => some { op := 0x4B, f := 1, g := gd.g, n := gd.n, d := vd, a := xa.setWidth 6, b := xb.setWidth 6 }
  | .vstx gd vd xa vb => some { op := 0x4B, f := 2, g := gd.g, n := gd.n, d := vd, a := xa.setWidth 6, b := vb }
  | .vstl gd vd xa vb => some { op := 0x4B, f := 3, g := gd.g, n := gd.n, d := vd, a := xa.setWidth 6, b := vb }
  | .vstmc gd vd xa => some { op := 0x4B, f := 4, g := gd.g, n := gd.n, d := vd, a := xa.setWidth 6 }
  | .vstrc gd vd xa xb => some { op := 0x4B, f := 5, g := gd.g, n := gd.n, d := vd, a := xa.setWidth 6, b := xb.setWidth 6 }
  | .vstsp gd vd xa => some { op := 0x4B, f := 6, g := gd.g, n := gd.n, d := vd, a := xa.setWidth 6 }
  | .vamoAdd gd old vd xa vb vc => some { op := 0x4C, g := gd.g, n := gd.n, d := vd, a := xa.setWidth 6, b := vb, c := vc, y := (BitVec.ofBool old).setWidth 10 }
  | .vamoAnd gd old vd xa vb vc => some { op := 0x4C, f := 1, g := gd.g, n := gd.n, d := vd, a := xa.setWidth 6, b := vb, c := vc, y := (BitVec.ofBool old).setWidth 10 }
  | .vamoOr gd old vd xa vb vc => some { op := 0x4C, f := 2, g := gd.g, n := gd.n, d := vd, a := xa.setWidth 6, b := vb, c := vc, y := (BitVec.ofBool old).setWidth 10 }
  | .vamoXor gd old vd xa vb vc => some { op := 0x4C, f := 3, g := gd.g, n := gd.n, d := vd, a := xa.setWidth 6, b := vb, c := vc, y := (BitVec.ofBool old).setWidth 10 }
  | .vamoMax gd old vd xa vb vc => some { op := 0x4C, f := 4, g := gd.g, n := gd.n, d := vd, a := xa.setWidth 6, b := vb, c := vc, y := (BitVec.ofBool old).setWidth 10 }
  | .vamoMin gd old vd xa vb vc => some { op := 0x4C, f := 5, g := gd.g, n := gd.n, d := vd, a := xa.setWidth 6, b := vb, c := vc, y := (BitVec.ofBool old).setWidth 10 }
  | .vamoSwap gd old vd xa vb vc => some { op := 0x4C, f := 6, g := gd.g, n := gd.n, d := vd, a := xa.setWidth 6, b := vb, c := vc, y := (BitVec.ofBool old).setWidth 10 }
  | .vamoFadd gd old vd xa vb vc => some { op := 0x4C, f := 7, g := gd.g, n := gd.n, d := vd, a := xa.setWidth 6, b := vb, c := vc, y := (BitVec.ofBool old).setWidth 10 }
  | .mma zd va xb ta tb keep brace clear => some { op := 0x50, d := zd.setWidth 6, a := va, b := xb.setWidth 6, y := ta.setWidth 10 ||| (tb.setWidth 10) <<< 3 ||| ((BitVec.ofBool keep).setWidth 10) <<< 6 ||| ((BitVec.ofBool brace).setWidth 10) <<< 7 ||| ((BitVec.ofBool clear).setWidth 10) <<< 8 }
  | .mmaff zd va xb xc ta tb keep clear => some { op := 0x51, d := zd.setWidth 6, a := va, b := xb.setWidth 6, c := xc.setWidth 6, y := ta.setWidth 10 ||| (tb.setWidth 10) <<< 3 ||| ((BitVec.ofBool keep).setWidth 10) <<< 6 ||| ((BitVec.ofBool clear).setWidth 10) <<< 8 }
  | .zclr zd => some { op := 0x52, d := zd.setWidth 6 }
  | .zld zd xa => some { op := 0x52, f := 1, d := zd.setWidth 6, a := xa.setWidth 6 }
  | .zst zd xa => some { op := 0x52, f := 2, d := zd.setWidth 6, a := xa.setWidth 6 }
  | .zrd vd za q => some { op := 0x52, f := 3, d := vd, a := za.setWidth 6, s := q }
  | .zwr zd va q => some { op := 0x52, f := 4, d := zd.setWidth 6, a := va, s := q }
  | .zcvt zd xa src tgt => some { op := 0x52, f := 5, d := zd.setWidth 6, a := xa.setWidth 6, m := src, s := tgt }
  | .tlwait gd xa xb sc => some { op := 0x55, g := gd.g, n := gd.n, a := xa.setWidth 6, b := xb.setWidth 6, s := sc }
  | .tlwaitReturn _ _ => none
  | .tlpost gd xa xb sc => some { op := 0x55, f := 1, g := gd.g, n := gd.n, a := xa.setWidth 6, b := xb.setWidth 6, s := sc }
  | .tlpostApply _ _ => none
  | .ringdef n xa xb xc stages => some { op := 0x56, d := n.setWidth 6, a := xa.setWidth 6, b := xb.setWidth 6, c := xc.setWidth 6, y := stages.setWidth 10 }
  | .ringarr n => some { op := 0x56, f := 1, d := n.setWidth 6 }
  | .ringgen xd n => some { op := 0x56, f := 2, d := xd.setWidth 6, a := n.setWidth 6 }
  | .ringfree n => some { op := 0x56, f := 3, d := n.setWidth 6 }
  | .ringArrivalCount _ _ => none
  | .ringStallEnd _ _ => none
  | .amoAdd gd xd xa xb ord sc w32 => some { op := 0x60, g := gd.g, n := gd.n, d := xd.setWidth 6, a := xa.setWidth 6, b := xb.setWidth 6, s := ord.setWidth 4, y := sc.setWidth 10 ||| ((BitVec.ofBool w32).setWidth 10) <<< 3 }
  | .amoAnd gd xd xa xb ord sc w32 => some { op := 0x60, f := 1, g := gd.g, n := gd.n, d := xd.setWidth 6, a := xa.setWidth 6, b := xb.setWidth 6, s := ord.setWidth 4, y := sc.setWidth 10 ||| ((BitVec.ofBool w32).setWidth 10) <<< 3 }
  | .amoOr gd xd xa xb ord sc w32 => some { op := 0x60, f := 2, g := gd.g, n := gd.n, d := xd.setWidth 6, a := xa.setWidth 6, b := xb.setWidth 6, s := ord.setWidth 4, y := sc.setWidth 10 ||| ((BitVec.ofBool w32).setWidth 10) <<< 3 }
  | .amoXor gd xd xa xb ord sc w32 => some { op := 0x60, f := 3, g := gd.g, n := gd.n, d := xd.setWidth 6, a := xa.setWidth 6, b := xb.setWidth 6, s := ord.setWidth 4, y := sc.setWidth 10 ||| ((BitVec.ofBool w32).setWidth 10) <<< 3 }
  | .amoMax gd xd xa xb ord sc w32 => some { op := 0x60, f := 4, g := gd.g, n := gd.n, d := xd.setWidth 6, a := xa.setWidth 6, b := xb.setWidth 6, s := ord.setWidth 4, y := sc.setWidth 10 ||| ((BitVec.ofBool w32).setWidth 10) <<< 3 }
  | .amoMin gd xd xa xb ord sc w32 => some { op := 0x60, f := 5, g := gd.g, n := gd.n, d := xd.setWidth 6, a := xa.setWidth 6, b := xb.setWidth 6, s := ord.setWidth 4, y := sc.setWidth 10 ||| ((BitVec.ofBool w32).setWidth 10) <<< 3 }
  | .amoMaxu gd xd xa xb ord sc w32 => some { op := 0x60, f := 6, g := gd.g, n := gd.n, d := xd.setWidth 6, a := xa.setWidth 6, b := xb.setWidth 6, s := ord.setWidth 4, y := sc.setWidth 10 ||| ((BitVec.ofBool w32).setWidth 10) <<< 3 }
  | .amoMinu gd xd xa xb ord sc w32 => some { op := 0x60, f := 7, g := gd.g, n := gd.n, d := xd.setWidth 6, a := xa.setWidth 6, b := xb.setWidth 6, s := ord.setWidth 4, y := sc.setWidth 10 ||| ((BitVec.ofBool w32).setWidth 10) <<< 3 }
  | .amoSwap gd xd xa xb ord sc w32 => some { op := 0x60, f := 8, g := gd.g, n := gd.n, d := xd.setWidth 6, a := xa.setWidth 6, b := xb.setWidth 6, s := ord.setWidth 4, y := sc.setWidth 10 ||| ((BitVec.ofBool w32).setWidth 10) <<< 3 }
  | .amoCas gd xd xa xb xc ord sc w32 => some { op := 0x60, f := 9, g := gd.g, n := gd.n, d := xd.setWidth 6, a := xa.setWidth 6, b := xb.setWidth 6, c := xc.setWidth 6, s := ord.setWidth 4, y := sc.setWidth 10 ||| ((BitVec.ofBool w32).setWidth 10) <<< 3 }
  | .amoFadd gd xd xa xb ord sc w32 => some { op := 0x60, f := 10, g := gd.g, n := gd.n, d := xd.setWidth 6, a := xa.setWidth 6, b := xb.setWidth 6, s := ord.setWidth 4, y := sc.setWidth 10 ||| ((BitVec.ofBool w32).setWidth 10) <<< 3 }
  | .lda gd xd xa sc => some { op := 0x61, g := gd.g, n := gd.n, d := xd.setWidth 6, a := xa.setWidth 6, s := sc }
  | .lda32 gd xd xa sc => some { op := 0x61, f := 1, g := gd.g, n := gd.n, d := xd.setWidth 6, a := xa.setWidth 6, s := sc }
  | .strl gd xd xa sc => some { op := 0x61, f := 2, g := gd.g, n := gd.n, d := xd.setWidth 6, a := xa.setWidth 6, s := sc }
  | .strl32 gd xd xa sc => some { op := 0x61, f := 3, g := gd.g, n := gd.n, d := xd.setWidth 6, a := xa.setWidth 6, s := sc }
  | .fence sc => some { op := 0x62, d := sc }
  | .fenceAcq sc => some { op := 0x62, f := 1, d := sc }
  | .fenceRel sc => some { op := 0x62, f := 2, d := sc }
  | .barArrive n => some { op := 0x63, d := n }
  | .barWait n => some { op := 0x63, f := 1, d := n }
  | .barSync n => some { op := 0x63, f := 2, d := n }
  | .barArrivalCount _ _ => none
  | .barWaitReturn _ _ => none
  | .txbegin xd => some { op := 0x68, d := xd.setWidth 6 }
  | .txcommit xd => some { op := 0x68, f := 1, d := xd.setWidth 6 }
  | .snopen xd => some { op := 0x68, f := 2, d := xd.setWidth 6 }
  | .snclose xd xa => some { op := 0x68, f := 3, d := xd.setWidth 6, a := xa.setWidth 6 }
  | .snset xa => some { op := 0x68, f := 4, a := xa.setWidth 6 }
  | .xdred gd vd xa op => some { op := 0x70, g := gd.g, n := gd.n, d := vd, a := xa.setWidth 6, s := op }
  | .xdredComplete _ _ _ => none
  | .xdredTimeout _ _ => none
  | .runLimit _ => none
  | .release _ _ _ => none
  | .strandFaultTrap _ _ => none
  | .machineCheck _ _ => none
  | .vqueueExecute _ _ => none
  | .rfetchTakeEffect _ _ => none
  | .rwaitComplete _ _ => none
  | .copyStart _ => none
  | .copyComplete _ => none
  | .preemptWithdraw _ => none
  | .setvlSave _ => none
  | .forcedSave _ _ => none
  | .packResume => none
  | .coreQuiesce _ => none
  | .secdedError _ _ => none
  | .laneGroupGate _ _ => none
  | .laneGroupWake _ _ => none
  | .stripAheadHint _ _ => none
  | .l2Error _ _ _ _ _ => none
  | .benesParityError _ _ => none
  | .pageWalk _ _ _ _ _ => none
  | .tlbParityError _ _ => none
  | .hbmError _ _ => none
  | .channelFail _ _ => none
  | .slotTableEdit _ _ => none
  | .routerParityError _ _ _ _ => none
  | .launchRecordTake _ _ => none
  | .launchSelect => none
  | .packPlace => none
  | .swapExpiry _ => none
  | .launchComplete _ => none
  | .crumbReclaim _ => none
  | .ospecCommit _ => none
  | .adtanTranslate _ _ => none
  | .sampleRecord _ _ => none
  | .traceSummary _ _ => none
  | .doorbell _ _ _ => none
  | .hostMemAccess _ _ _ => none
  | .partCreate _ _ _ _ _ => none
  | .partDestroy _ => none
  | .granuleAssign _ _ _ => none
  | .granuleRemove _ _ _ => none
  | .execLoad _ _ _ => none
  | .ctxCreate _ _ => none
  | .ctxDestroy _ _ => none
  | .debugGrant _ _ => none
  | .debugRevoke _ _ => none
  | .debugSetComparator _ _ _ _ _ => none
  | .debugHalt _ _ _ => none
  | .debugRelease _ _ _ => none
  | .debugStateAccess _ _ _ _ => none
  | .debugHistoryRead _ _ _ => none
  | .debugTraceSet _ _ _ _ => none
  | .debugSampleSet _ _ _ _ => none
  | .health _ => none
  | .failUnit _ _ => none
  | .poisonClear _ _ => none
  | .reset _ => none
  | .patchLoad _ _ _ => none
  | .setParam _ _ => none
  | .linkSession _ _ _ _ => none
  | .launchEnd _ _ _ => none
  | .getMeasurements _ => none
  | .stopInterface _ => none
  | .keyUpdate _ => none
  | .linkFlitReceive _ _ _ => none
  | .linkDown _ => none
  | .thermalLimit _ => none
  | .packageReset => none
  | .illegalInstruction _ => none
  | .patchSubstitute _ => none
  | .writeBecomesVisible _ _ => none
  | .countedLineEviction _ => none
  | .lockInterface _ => none
  | .startInterface _ => none
  | .spdmRequest _ => none
  | .remoteAccess _ _ _ => none

/-- The functions of major 0x00 (R69). -/
noncomputable def ofEnc00 (e : Enc) : Option Instr :=
  match e.d.toNat with
  | 0 => some .nop
  | 1 => some .stop
  | 2 => some .halt
  | 3 => some .heel
  | 4 => some .rwait
  | 5 => some .brk
  | 6 => some .tret
  | 7 => some .vdrainLd
  | 8 => some .vdrainSt
  | 9 => some .vdrain
  | 10 => some .txabort
  | _ => none

/-- The functions of major 0x01 (R69). -/
noncomputable def ofEnc01 (e : Enc) : Option Instr :=
  match e.f.toNat with
  | 0 => some (.add e.d e.a e.b)
  | 1 => some (.sub e.d e.a e.b)
  | 2 => some (.and e.d e.a e.b)
  | 3 => some (.or e.d e.a e.b)
  | 4 => some (.xor e.d e.a e.b)
  | 5 => some (.andn e.d e.a e.b)
  | 6 => some (.sll e.d e.a e.b)
  | 7 => some (.srl e.d e.a e.b)
  | 8 => some (.sra e.d e.a e.b)
  | 9 => some (.rol e.d e.a e.b)
  | 10 => some (.min e.d e.a e.b)
  | 11 => some (.max e.d e.a e.b)
  | 12 => some (.minu e.d e.a e.b)
  | 13 => some (.maxu e.d e.a e.b)
  | 14 => some (.addw e.d e.a e.b)
  | 15 => some (.subw e.d e.a e.b)
  | _ => none

/-- The functions of major 0x02 (R69). -/
noncomputable def ofEnc02 (e : Enc) : Option Instr :=
  match e.f.toNat with
  | 0 => some (.mul e.d e.a e.b)
  | 1 => some (.mulh e.d e.a e.b)
  | 2 => some (.mulhu e.d e.a e.b)
  | 3 => some (.div e.d e.a e.b)
  | 4 => some (.divu e.d e.a e.b)
  | 5 => some (.rem e.d e.a e.b)
  | 6 => some (.remu e.d e.a e.b)
  | 7 => some (.mulw e.d e.a e.b)
  | _ => none

/-- The functions of major 0x03 (R69). -/
noncomputable def ofEnc03 (e : Enc) : Option Instr :=
  match e.f.toNat with
  | 0 => some (.clz e.d e.a)
  | 1 => some (.ctz e.d e.a)
  | 2 => some (.popc e.d e.a)
  | 3 => some (.bswap e.d e.a)
  | 4 => some (.brev e.d e.a)
  | 5 => some (.sxb e.d e.a)
  | 6 => some (.sxh e.d e.a)
  | 7 => some (.sxw e.d e.a)
  | 8 => some (.zxw e.d e.a)
  | _ => none

/-- The functions of major 0x04 (R69). -/
noncomputable def ofEnc04 (e : Enc) : Option Instr :=
  match e.f.toNat with
  | 0 => some (.addi e.d e.a (e.imm.setWidth 22))
  | 1 => some (.andi e.d e.a (e.imm.setWidth 22))
  | 2 => some (.ori e.d e.a (e.imm.setWidth 22))
  | 3 => some (.xori e.d e.a (e.imm.setWidth 22))
  | 4 => some (.slli e.d e.a (e.imm.setWidth 6))
  | 5 => some (.srli e.d e.a (e.imm.setWidth 6))
  | 6 => some (.srai e.d e.a (e.imm.setWidth 6))
  | 7 => some (.roli e.d e.a (e.imm.setWidth 6))
  | _ => none

/-- The functions of major 0x05 (R69). -/
noncomputable def ofEnc05 (e : Enc) : Option Instr :=
  match e.f.toNat with
  | 0 => some (.li e.d e.imm)
  | _ => none

/-- The functions of major 0x06 (R69). -/
noncomputable def ofEnc06 (e : Enc) : Option Instr :=
  match e.f.toNat with
  | 0 => some (.lhi e.d (e.imm.setWidth 22))
  | _ => none

/-- The functions of major 0x07 (R69). -/
noncomputable def ofEnc07 (e : Enc) : Option Instr :=
  match e.f.toNat with
  | 0 => some (.sel ⟨e.g, e.n⟩ e.d e.a e.b)
  | _ => none

/-- The functions of major 0x08 (R69). -/
noncomputable def ofEnc08 (e : Enc) : Option Instr :=
  match e.f.toNat with
  | 0 => some (.adda ⟨e.g, e.n⟩ e.d e.a e.b (e.s.setWidth 2))
  | _ => none

/-- The functions of major 0x09 (R69). -/
noncomputable def ofEnc09 (e : Enc) : Option Instr :=
  match e.f.toNat with
  | 0 => some (.ceq (e.d.setWidth 5) e.a e.b)
  | 1 => some (.cne (e.d.setWidth 5) e.a e.b)
  | 2 => some (.clt (e.d.setWidth 5) e.a e.b)
  | 3 => some (.cge (e.d.setWidth 5) e.a e.b)
  | 4 => some (.cltu (e.d.setWidth 5) e.a e.b)
  | 5 => some (.cgeu (e.d.setWidth 5) e.a e.b)
  | _ => none

/-- The functions of major 0x0A (R69). -/
noncomputable def ofEnc0A (e : Enc) : Option Instr :=
  match e.f.toNat with
  | 0 => some (.ceqi (e.d.setWidth 5) e.a (e.imm.setWidth 22))
  | 1 => some (.cnei (e.d.setWidth 5) e.a (e.imm.setWidth 22))
  | 2 => some (.clti (e.d.setWidth 5) e.a (e.imm.setWidth 22))
  | 3 => some (.cgei (e.d.setWidth 5) e.a (e.imm.setWidth 22))
  | 4 => some (.cltui (e.d.setWidth 5) e.a (e.imm.setWidth 22))
  | 5 => some (.cgeui (e.d.setWidth 5) e.a (e.imm.setWidth 22))
  | _ => none

/-- The functions of major 0x0B (R69). -/
noncomputable def ofEnc0B (e : Enc) : Option Instr :=
  match e.f.toNat with
  | 0 => some (.pand (e.d.setWidth 5) (e.a.setWidth 5) (e.b.setWidth 5))
  | 1 => some (.por (e.d.setWidth 5) (e.a.setWidth 5) (e.b.setWidth 5))
  | 2 => some (.pxor (e.d.setWidth 5) (e.a.setWidth 5) (e.b.setWidth 5))
  | 3 => some (.pandn (e.d.setWidth 5) (e.a.setWidth 5) (e.b.setWidth 5))
  | 4 => some (.pnot (e.d.setWidth 5) (e.a.setWidth 5))
  | 5 => some (.pmov (e.d.setWidth 5) (e.a.setWidth 5))
  | _ => none

/-- The functions of major 0x10 (R69). -/
noncomputable def ofEnc10 (e : Enc) : Option Instr :=
  match e.f.toNat with
  | 0 => some (.ld8 e.d e.a (e.imm.setWidth 22))
  | 1 => some (.ld16 e.d e.a (e.imm.setWidth 22))
  | 2 => some (.ld32 e.d e.a (e.imm.setWidth 22))
  | 3 => some (.ld64 e.d e.a (e.imm.setWidth 22))
  | 4 => some (.ld8s e.d e.a (e.imm.setWidth 22))
  | 5 => some (.ld16s e.d e.a (e.imm.setWidth 22))
  | 6 => some (.ld32s e.d e.a (e.imm.setWidth 22))
  | _ => none

/-- The functions of major 0x11 (R69). -/
noncomputable def ofEnc11 (e : Enc) : Option Instr :=
  match e.f.toNat with
  | 0 => some (.st8 e.d e.a (e.imm.setWidth 22))
  | 1 => some (.st16 e.d e.a (e.imm.setWidth 22))
  | 2 => some (.st32 e.d e.a (e.imm.setWidth 22))
  | 3 => some (.st64 e.d e.a (e.imm.setWidth 22))
  | _ => none

/-- The functions of major 0x12 (R69). -/
noncomputable def ofEnc12 (e : Enc) : Option Instr :=
  match e.f.toNat with
  | 0 => some (.ldl8 e.d e.a (e.imm.setWidth 22))
  | 1 => some (.ldl16 e.d e.a (e.imm.setWidth 22))
  | 2 => some (.ldl32 e.d e.a (e.imm.setWidth 22))
  | 3 => some (.ldl64 e.d e.a (e.imm.setWidth 22))
  | _ => none

/-- The functions of major 0x13 (R69). -/
noncomputable def ofEnc13 (e : Enc) : Option Instr :=
  match e.f.toNat with
  | 0 => some (.stl8 e.d e.a (e.imm.setWidth 22))
  | 1 => some (.stl16 e.d e.a (e.imm.setWidth 22))
  | 2 => some (.stl32 e.d e.a (e.imm.setWidth 22))
  | 3 => some (.stl64 e.d e.a (e.imm.setWidth 22))
  | _ => none

/-- The functions of major 0x14 (R69). -/
noncomputable def ofEnc14 (e : Enc) : Option Instr :=
  match e.f.toNat with
  | 0 => some (.ldv8 e.d e.a (e.imm.setWidth 22))
  | 1 => some (.ldv16 e.d e.a (e.imm.setWidth 22))
  | 2 => some (.ldv32 e.d e.a (e.imm.setWidth 22))
  | 3 => some (.ldv64 e.d e.a (e.imm.setWidth 22))
  | _ => none

/-- The functions of major 0x18 (R69). -/
noncomputable def ofEnc18 (e : Enc) : Option Instr :=
  match e.f.toNat with
  | 0 => some (.br (e.a.getLsbD 5) (e.a.setWidth 5) (e.imm.setWidth 22))
  | _ => none

/-- The functions of major 0x19 (R69). -/
noncomputable def ofEnc19 (e : Enc) : Option Instr :=
  match e.f.toNat with
  | 0 => some (.jmp e.imm)
  | 1 => some (.call e.d e.imm)
  | 2 => some (.jmpr e.a)
  | 3 => some (.callr e.d e.a)
  | 4 => some (.ret e.a)
  | _ => none

/-- The functions of major 0x1A (R69). -/
noncomputable def ofEnc1A (e : Enc) : Option Instr :=
  match e.f.toNat with
  | 0 => some (.fetch e.imm)
  | 1 => some (.fetchr e.a)
  | 2 => some (.leash e.imm)
  | 3 => some (.leashr e.a)
  | _ => none

/-- The functions of major 0x1B (R69). -/
noncomputable def ofEnc1B (e : Enc) : Option Instr :=
  match e.f.toNat with
  | 0 => some (.qsendQ0 e.d)
  | 1 => some (.qsendQ1 e.d)
  | 2 => some (.qrecvQ0 e.d)
  | 3 => some (.qrecvQ1 e.d)
  | 4 => some (.xqpushQ0 (e.d.setWidth 5))
  | 5 => some (.xqpushQ1 (e.d.setWidth 5))
  | 6 => some (.xqpopQ0 (e.d.setWidth 5))
  | 7 => some (.xqpopQ1 (e.d.setWidth 5))
  | _ => none

/-- The functions of major 0x20 (R69). -/
noncomputable def ofEnc20 (e : Enc) : Option Instr :=
  match e.f.toNat with
  | 0 => some (.faddS ⟨e.g, e.n⟩ ⟨e.e, e.m⟩ e.s e.d e.a e.b)
  | 1 => some (.fsubS ⟨e.g, e.n⟩ ⟨e.e, e.m⟩ e.s e.d e.a e.b)
  | 2 => some (.fmulS ⟨e.g, e.n⟩ ⟨e.e, e.m⟩ e.s e.d e.a e.b)
  | 3 => some (.fdivS ⟨e.g, e.n⟩ ⟨e.e, e.m⟩ e.s e.d e.a e.b)
  | 4 => some (.fminS ⟨e.g, e.n⟩ ⟨e.e, e.m⟩ e.d e.a e.b)
  | 5 => some (.fmaxS ⟨e.g, e.n⟩ ⟨e.e, e.m⟩ e.d e.a e.b)
  | 6 => some (.fsqrtS ⟨e.g, e.n⟩ ⟨e.e, e.m⟩ e.s e.d e.a)
  | 7 => some (.fabsS ⟨e.g, e.n⟩ ⟨e.e, e.m⟩ e.d e.a)
  | 8 => some (.fnegS ⟨e.g, e.n⟩ ⟨e.e, e.m⟩ e.d e.a)
  | _ => none

/-- The functions of major 0x21 (R69). -/
noncomputable def ofEnc21 (e : Enc) : Option Instr :=
  match e.f.toNat with
  | 0 => some (.faddD ⟨e.g, e.n⟩ ⟨e.e, e.m⟩ e.s e.d e.a e.b)
  | 1 => some (.fsubD ⟨e.g, e.n⟩ ⟨e.e, e.m⟩ e.s e.d e.a e.b)
  | 2 => some (.fmulD ⟨e.g, e.n⟩ ⟨e.e, e.m⟩ e.s e.d e.a e.b)
  | 3 => some (.fdivD ⟨e.g, e.n⟩ ⟨e.e, e.m⟩ e.s e.d e.a e.b)
  | 4 => some (.fminD ⟨e.g, e.n⟩ ⟨e.e, e.m⟩ e.d e.a e.b)
  | 5 => some (.fmaxD ⟨e.g, e.n⟩ ⟨e.e, e.m⟩ e.d e.a e.b)
  | 6 => some (.fsqrtD ⟨e.g, e.n⟩ ⟨e.e, e.m⟩ e.s e.d e.a)
  | 7 => some (.fabsD ⟨e.g, e.n⟩ ⟨e.e, e.m⟩ e.d e.a)
  | 8 => some (.fnegD ⟨e.g, e.n⟩ ⟨e.e, e.m⟩ e.d e.a)
  | _ => none

/-- The functions of major 0x22 (R69). -/
noncomputable def ofEnc22 (e : Enc) : Option Instr :=
  match e.f.toNat with
  | 0 => some (.ffmaS ⟨e.g, e.n⟩ ⟨e.e, e.m⟩ e.s e.d e.a e.b e.c)
  | 1 => some (.ffmsS ⟨e.g, e.n⟩ ⟨e.e, e.m⟩ e.s e.d e.a e.b e.c)
  | 2 => some (.ffnmaS ⟨e.g, e.n⟩ ⟨e.e, e.m⟩ e.s e.d e.a e.b e.c)
  | 4 => some (.ffmaD ⟨e.g, e.n⟩ ⟨e.e, e.m⟩ e.s e.d e.a e.b e.c)
  | 5 => some (.ffmsD ⟨e.g, e.n⟩ ⟨e.e, e.m⟩ e.s e.d e.a e.b e.c)
  | 6 => some (.ffnmaD ⟨e.g, e.n⟩ ⟨e.e, e.m⟩ e.s e.d e.a e.b e.c)
  | _ => none

/-- The functions of major 0x23 (R69). -/
noncomputable def ofEnc23 (e : Enc) : Option Instr :=
  match e.f.toNat with
  | 0 => some (.feqS (e.d.setWidth 5) e.a e.b)
  | 1 => some (.fltS (e.d.setWidth 5) e.a e.b)
  | 2 => some (.fleS (e.d.setWidth 5) e.a e.b)
  | 3 => some (.funordS (e.d.setWidth 5) e.a e.b)
  | 4 => some (.feqD (e.d.setWidth 5) e.a e.b)
  | 5 => some (.fltD (e.d.setWidth 5) e.a e.b)
  | 6 => some (.fleD (e.d.setWidth 5) e.a e.b)
  | 7 => some (.funordD (e.d.setWidth 5) e.a e.b)
  | _ => none

/-- The functions of major 0x24 (R69). -/
noncomputable def ofEnc24 (e : Enc) : Option Instr :=
  match e.f.toNat with
  | 0 => some (.cvtF64F32 ⟨e.g, e.n⟩ ⟨e.e, e.m⟩ e.s e.d e.a)
  | 1 => some (.cvtF32F64 ⟨e.g, e.n⟩ ⟨e.e, e.m⟩ e.s e.d e.a)
  | 2 => some (.cvtF32I64 ⟨e.g, e.n⟩ ⟨e.e, e.m⟩ e.s e.d e.a)
  | 3 => some (.cvtI64F32 ⟨e.g, e.n⟩ ⟨e.e, e.m⟩ e.s e.d e.a)
  | 4 => some (.cvtF64I64 ⟨e.g, e.n⟩ ⟨e.e, e.m⟩ e.s e.d e.a)
  | 5 => some (.cvtI64F64 ⟨e.g, e.n⟩ ⟨e.e, e.m⟩ e.s e.d e.a)
  | 6 => some (.cvtBf16F32 ⟨e.g, e.n⟩ ⟨e.e, e.m⟩ e.s e.d e.a)
  | 7 => some (.cvtF32Bf16 ⟨e.g, e.n⟩ ⟨e.e, e.m⟩ e.s e.d e.a)
  | 8 => some (.cvtFp16F32 ⟨e.g, e.n⟩ ⟨e.e, e.m⟩ e.s e.d e.a)
  | 9 => some (.cvtF32Fp16 ⟨e.g, e.n⟩ ⟨e.e, e.m⟩ e.s e.d e.a)
  | 10 => some (.cvtE4m3F32 ⟨e.g, e.n⟩ ⟨e.e, e.m⟩ e.s e.d e.a)
  | 11 => some (.cvtF32E4m3 ⟨e.g, e.n⟩ ⟨e.e, e.m⟩ e.s e.d e.a)
  | 12 => some (.cvtE5m2F32 ⟨e.g, e.n⟩ ⟨e.e, e.m⟩ e.s e.d e.a)
  | 13 => some (.cvtF32E5m2 ⟨e.g, e.n⟩ ⟨e.e, e.m⟩ e.s e.d e.a)
  | 14 => some (.cvtLgF32 ⟨e.g, e.n⟩ ⟨e.e, e.m⟩ e.s e.d e.a)
  | 15 => some (.cvtF32Lg ⟨e.g, e.n⟩ ⟨e.e, e.m⟩ e.s e.d e.a)
  | _ => none

/-- The functions of major 0x28 (R69). -/
noncomputable def ofEnc28 (e : Enc) : Option Instr :=
  match e.f.toNat with
  | 0 => some (if e.a = 0 ∧ e.b = 41 then .cpgo e.d else .getsr e.d e.a e.b)
  | 1 => some (.setsr e.d e.a e.b)
  | 2 => some (.trap e.a e.b)
  | 3 => some (.rdcyc e.d)
  | _ => none

/-- The functions of major 0x30 (R69). -/
noncomputable def ofEnc30 (e : Enc) : Option Instr :=
  match e.f.toNat with
  | 0 => some (.rfetch e.imm)
  | 1 => some (.rfetchIdem e.imm)
  | 2 => some (.rfetchr (e.a.setWidth 5))
  | 3 => some (.rfetchrIdem (e.a.setWidth 5))
  | _ => none

/-- The functions of major 0x31 (R69). -/
noncomputable def ofEnc31 (e : Enc) : Option Instr :=
  match e.f.toNat with
  | 0 => some (.setvl (e.d.setWidth 5) (e.a.setWidth 5) (e.imm.setWidth 5))
  | _ => none

/-- The functions of major 0x32 (R69). -/
noncomputable def ofEnc32 (e : Enc) : Option Instr :=
  match e.f.toNat with
  | 0 => some (.launch (e.d.setWidth 5) (e.a.setWidth 5))
  | _ => none

/-- The functions of major 0x40 (R69). -/
noncomputable def ofEnc40 (e : Enc) : Option Instr :=
  match e.f.toNat with
  | 0 => some (.vadd ⟨e.g, e.n⟩ e.d e.a e.b)
  | 1 => some (.vsub ⟨e.g, e.n⟩ e.d e.a e.b)
  | 2 => some (.vmul ⟨e.g, e.n⟩ e.d e.a e.b)
  | 3 => some (.vmulh ⟨e.g, e.n⟩ e.d e.a e.b)
  | 4 => some (.vand ⟨e.g, e.n⟩ e.d e.a e.b)
  | 5 => some (.vor ⟨e.g, e.n⟩ e.d e.a e.b)
  | 6 => some (.vxor ⟨e.g, e.n⟩ e.d e.a e.b)
  | 7 => some (.vsll ⟨e.g, e.n⟩ e.d e.a e.b)
  | 8 => some (.vsrl ⟨e.g, e.n⟩ e.d e.a e.b)
  | 9 => some (.vsra ⟨e.g, e.n⟩ e.d e.a e.b)
  | 10 => some (.vmin ⟨e.g, e.n⟩ e.d e.a e.b)
  | 11 => some (.vmax ⟨e.g, e.n⟩ e.d e.a e.b)
  | 12 => some (.vminu ⟨e.g, e.n⟩ e.d e.a e.b)
  | 13 => some (.vmaxu ⟨e.g, e.n⟩ e.d e.a e.b)
  | 14 => some (.vadc ⟨e.g, e.n⟩ e.d e.a e.b (e.c.setWidth 5) e.m)
  | 15 => some (.vsbc ⟨e.g, e.n⟩ e.d e.a e.b (e.c.setWidth 5) e.m)
  | _ => none

/-- The functions of major 0x41 (R69). -/
noncomputable def ofEnc41 (e : Enc) : Option Instr :=
  match e.f.toNat with
  | 0 => some (.vaddVx ⟨e.g, e.n⟩ e.d e.a (e.b.setWidth 5))
  | 1 => some (.vsubVx ⟨e.g, e.n⟩ e.d e.a (e.b.setWidth 5))
  | 2 => some (.vmulVx ⟨e.g, e.n⟩ e.d e.a (e.b.setWidth 5))
  | 3 => some (.vmulhVx ⟨e.g, e.n⟩ e.d e.a (e.b.setWidth 5))
  | 4 => some (.vandVx ⟨e.g, e.n⟩ e.d e.a (e.b.setWidth 5))
  | 5 => some (.vorVx ⟨e.g, e.n⟩ e.d e.a (e.b.setWidth 5))
  | 6 => some (.vxorVx ⟨e.g, e.n⟩ e.d e.a (e.b.setWidth 5))
  | 7 => some (.vsllVx ⟨e.g, e.n⟩ e.d e.a (e.b.setWidth 5))
  | 8 => some (.vsrlVx ⟨e.g, e.n⟩ e.d e.a (e.b.setWidth 5))
  | 9 => some (.vsraVx ⟨e.g, e.n⟩ e.d e.a (e.b.setWidth 5))
  | 10 => some (.vminVx ⟨e.g, e.n⟩ e.d e.a (e.b.setWidth 5))
  | 11 => some (.vmaxVx ⟨e.g, e.n⟩ e.d e.a (e.b.setWidth 5))
  | 12 => some (.vminuVx ⟨e.g, e.n⟩ e.d e.a (e.b.setWidth 5))
  | 13 => some (.vmaxuVx ⟨e.g, e.n⟩ e.d e.a (e.b.setWidth 5))
  | 14 => some (.vadcVx ⟨e.g, e.n⟩ e.d e.a (e.b.setWidth 5) (e.c.setWidth 5) e.m)
  | 15 => some (.vsbcVx ⟨e.g, e.n⟩ e.d e.a (e.b.setWidth 5) (e.c.setWidth 5) e.m)
  | _ => none

/-- The functions of major 0x42 (R69). -/
noncomputable def ofEnc42 (e : Enc) : Option Instr :=
  match e.f.toNat with
  | 0 => some (.vfadd ⟨e.g, e.n⟩ ⟨e.e, e.m⟩ e.s (e.y.getLsbD 0) e.d e.a e.b)
  | 1 => some (.vfsub ⟨e.g, e.n⟩ ⟨e.e, e.m⟩ e.s (e.y.getLsbD 0) e.d e.a e.b)
  | 2 => some (.vfmul ⟨e.g, e.n⟩ ⟨e.e, e.m⟩ e.s (e.y.getLsbD 0) e.d e.a e.b)
  | 3 => some (.vfdiv ⟨e.g, e.n⟩ ⟨e.e, e.m⟩ e.s (e.y.getLsbD 0) e.d e.a e.b)
  | 4 => some (.vfmin ⟨e.g, e.n⟩ ⟨e.e, e.m⟩ (e.y.getLsbD 0) e.d e.a e.b)
  | 5 => some (.vfmax ⟨e.g, e.n⟩ ⟨e.e, e.m⟩ (e.y.getLsbD 0) e.d e.a e.b)
  | 6 => some (.vfsqrt ⟨e.g, e.n⟩ ⟨e.e, e.m⟩ e.s (e.y.getLsbD 0) e.d e.a)
  | 7 => some (.vfma ⟨e.g, e.n⟩ ⟨e.e, e.m⟩ e.s (e.y.getLsbD 0) e.d e.a e.b e.c)
  | 8 => some (.vfms ⟨e.g, e.n⟩ ⟨e.e, e.m⟩ e.s (e.y.getLsbD 0) e.d e.a e.b e.c)
  | 9 => some (.vfnma ⟨e.g, e.n⟩ ⟨e.e, e.m⟩ e.s (e.y.getLsbD 0) e.d e.a e.b e.c)
  | 10 => some (.vfabs ⟨e.g, e.n⟩ ⟨e.e, e.m⟩ (e.y.getLsbD 0) e.d e.a)
  | 11 => some (.vfneg ⟨e.g, e.n⟩ ⟨e.e, e.m⟩ (e.y.getLsbD 0) e.d e.a)
  | _ => none

/-- The functions of major 0x43 (R69). -/
noncomputable def ofEnc43 (e : Enc) : Option Instr :=
  match e.f.toNat with
  | 0 => some (.vceq ⟨e.g, e.n⟩ (e.y.getLsbD 1) (e.d.setWidth 5) e.a e.b)
  | 1 => some (.vcne ⟨e.g, e.n⟩ (e.y.getLsbD 1) (e.d.setWidth 5) e.a e.b)
  | 2 => some (.vclt ⟨e.g, e.n⟩ (e.y.getLsbD 1) (e.d.setWidth 5) e.a e.b)
  | 3 => some (.vcge ⟨e.g, e.n⟩ (e.y.getLsbD 1) (e.d.setWidth 5) e.a e.b)
  | 4 => some (.vcltu ⟨e.g, e.n⟩ (e.y.getLsbD 1) (e.d.setWidth 5) e.a e.b)
  | 5 => some (.vcgeu ⟨e.g, e.n⟩ (e.y.getLsbD 1) (e.d.setWidth 5) e.a e.b)
  | 8 => some (.vfeq ⟨e.g, e.n⟩ ⟨e.e, e.m⟩ (e.y.getLsbD 1) (e.d.setWidth 5) e.a e.b)
  | 9 => some (.vflt ⟨e.g, e.n⟩ ⟨e.e, e.m⟩ (e.y.getLsbD 1) (e.d.setWidth 5) e.a e.b)
  | 10 => some (.vfle ⟨e.g, e.n⟩ ⟨e.e, e.m⟩ (e.y.getLsbD 1) (e.d.setWidth 5) e.a e.b)
  | 11 => some (.vfunord ⟨e.g, e.n⟩ ⟨e.e, e.m⟩ (e.y.getLsbD 1) (e.d.setWidth 5) e.a e.b)
  | _ => none

/-- The functions of major 0x44 (R69). -/
noncomputable def ofEnc44 (e : Enc) : Option Instr :=
  match e.f.toNat with
  | 0 => some (.mand ⟨e.g, e.n⟩ (e.d.setWidth 5) (e.a.setWidth 5) (e.b.setWidth 5))
  | 1 => some (.mor ⟨e.g, e.n⟩ (e.d.setWidth 5) (e.a.setWidth 5) (e.b.setWidth 5))
  | 2 => some (.mxor ⟨e.g, e.n⟩ (e.d.setWidth 5) (e.a.setWidth 5) (e.b.setWidth 5))
  | 3 => some (.mandn ⟨e.g, e.n⟩ (e.d.setWidth 5) (e.a.setWidth 5) (e.b.setWidth 5))
  | 4 => some (.mnot ⟨e.g, e.n⟩ (e.d.setWidth 5) (e.a.setWidth 5))
  | 5 => some (.mmov ⟨e.g, e.n⟩ (e.d.setWidth 5) (e.a.setWidth 5))
  | 6 => some (.mshl ⟨e.g, e.n⟩ (e.d.setWidth 5) (e.a.setWidth 5))
  | 7 => some (.mshr ⟨e.g, e.n⟩ (e.d.setWidth 5) (e.a.setWidth 5))
  | 8 => some (.mset ⟨e.g, e.n⟩ (e.d.setWidth 5))
  | 9 => some (.mclr ⟨e.g, e.n⟩ (e.d.setWidth 5))
  | 10 => some (.mrdd ⟨e.g, e.n⟩ (e.d.setWidth 5))
  | 11 => some (.mwrd ⟨e.g, e.n⟩ (e.a.setWidth 5))
  | _ => none

/-- The functions of major 0x45 (R69). -/
noncomputable def ofEnc45 (e : Enc) : Option Instr :=
  match e.f.toNat with
  | 0 => some (.mpop (e.d.setWidth 5) (e.a.setWidth 5))
  | 1 => some (.mffs (e.d.setWidth 5) (e.a.setWidth 5))
  | 2 => some (.mfls (e.d.setWidth 5) (e.a.setWidth 5))
  | _ => none

/-- The functions of major 0x46 (R69). -/
noncomputable def ofEnc46 (e : Enc) : Option Instr :=
  match e.f.toNat with
  | 0 => some (.vslideup ⟨e.g, e.n⟩ e.d e.a (e.b.setWidth 5))
  | 1 => some (.vslidedn ⟨e.g, e.n⟩ e.d e.a (e.b.setWidth 5))
  | 2 => some (.vperm ⟨e.g, e.n⟩ e.d e.a e.b)
  | 3 => some (.vbcast ⟨e.g, e.n⟩ e.d (e.a.setWidth 5))
  | 4 => some (.vcompress e.d e.a (e.b.setWidth 5))
  | 5 => some (.vexpand e.d e.a (e.b.setWidth 5))
  | 6 => some (.vext (e.d.setWidth 5) e.a (e.b.setWidth 5))
  | 7 => some (.vins e.d (e.a.setWidth 5) (e.b.setWidth 5))
  | _ => none

/-- The functions of major 0x47 (R69). -/
noncomputable def ofEnc47 (e : Enc) : Option Instr :=
  match e.f.toNat with
  | 0 => some (.vredoFadd ⟨e.g, e.n⟩ (e.y.getLsbD 0) (e.d.setWidth 5) e.a (e.b.setWidth 5))
  | 1 => some (.vredtFadd ⟨e.g, e.n⟩ (e.y.getLsbD 0) (e.d.setWidth 5) e.a (e.b.setWidth 5))
  | 2 => some (.vredFmax ⟨e.g, e.n⟩ (e.y.getLsbD 0) (e.d.setWidth 5) e.a (e.b.setWidth 5))
  | 3 => some (.vredFmin ⟨e.g, e.n⟩ (e.y.getLsbD 0) (e.d.setWidth 5) e.a (e.b.setWidth 5))
  | 4 => some (.vredAdd ⟨e.g, e.n⟩ (e.d.setWidth 5) e.a (e.b.setWidth 5))
  | 5 => some (.vredAnd ⟨e.g, e.n⟩ (e.d.setWidth 5) e.a (e.b.setWidth 5))
  | 6 => some (.vredOr ⟨e.g, e.n⟩ (e.d.setWidth 5) e.a (e.b.setWidth 5))
  | 7 => some (.vredXor ⟨e.g, e.n⟩ (e.d.setWidth 5) e.a (e.b.setWidth 5))
  | 8 => some (.vredMax ⟨e.g, e.n⟩ (e.d.setWidth 5) e.a (e.b.setWidth 5))
  | 9 => some (.vredMin ⟨e.g, e.n⟩ (e.d.setWidth 5) e.a (e.b.setWidth 5))
  | 10 => some (.vredMaxu ⟨e.g, e.n⟩ (e.d.setWidth 5) e.a (e.b.setWidth 5))
  | 11 => some (.vredMinu ⟨e.g, e.n⟩ (e.d.setWidth 5) e.a (e.b.setWidth 5))
  | _ => none

/-- The functions of major 0x48 (R69). -/
noncomputable def ofEnc48 (e : Enc) : Option Instr :=
  match e.f.toNat with
  | 0 => some (.vcvtF64F32 ⟨e.g, e.n⟩ ⟨e.e, e.m⟩ e.s e.d e.a)
  | 1 => some (.vcvtF32F64 ⟨e.g, e.n⟩ ⟨e.e, e.m⟩ e.s e.d e.a)
  | 2 => some (.vcvtF32I64 ⟨e.g, e.n⟩ ⟨e.e, e.m⟩ e.s e.d e.a)
  | 3 => some (.vcvtI64F32 ⟨e.g, e.n⟩ ⟨e.e, e.m⟩ e.s e.d e.a)
  | 4 => some (.vcvtF64I64 ⟨e.g, e.n⟩ ⟨e.e, e.m⟩ e.s e.d e.a)
  | 5 => some (.vcvtI64F64 ⟨e.g, e.n⟩ ⟨e.e, e.m⟩ e.s e.d e.a)
  | 6 => some (.vcvtBf16F32 ⟨e.g, e.n⟩ ⟨e.e, e.m⟩ e.s e.d e.a)
  | 7 => some (.vcvtF32Bf16 ⟨e.g, e.n⟩ ⟨e.e, e.m⟩ e.s e.d e.a)
  | 8 => some (.vcvtFp16F32 ⟨e.g, e.n⟩ ⟨e.e, e.m⟩ e.s e.d e.a)
  | 9 => some (.vcvtF32Fp16 ⟨e.g, e.n⟩ ⟨e.e, e.m⟩ e.s e.d e.a)
  | 10 => some (.vcvtE4m3F32 ⟨e.g, e.n⟩ ⟨e.e, e.m⟩ e.s e.d e.a)
  | 11 => some (.vcvtF32E4m3 ⟨e.g, e.n⟩ ⟨e.e, e.m⟩ e.s e.d e.a)
  | 12 => some (.vcvtE5m2F32 ⟨e.g, e.n⟩ ⟨e.e, e.m⟩ e.s e.d e.a)
  | 13 => some (.vcvtF32E5m2 ⟨e.g, e.n⟩ ⟨e.e, e.m⟩ e.s e.d e.a)
  | 14 => some (.vcvtLgF32 ⟨e.g, e.n⟩ ⟨e.e, e.m⟩ e.s e.d e.a)
  | 15 => some (.vcvtF32Lg ⟨e.g, e.n⟩ ⟨e.e, e.m⟩ e.s e.d e.a)
  | _ => none

/-- The functions of major 0x49 (R69). -/
noncomputable def ofEnc49 (e : Enc) : Option Instr :=
  match e.f.toNat with
  | 0 => some (.vld e.d (e.a.setWidth 5) (e.imm.setWidth 22))
  | 1 => some (.vldff e.d (e.a.setWidth 5) (e.imm.setWidth 22))
  | 2 => some (.vldv e.d (e.a.setWidth 5) (e.imm.setWidth 22))
  | 3 => some (.vldsp e.d (e.a.setWidth 5) (e.imm.setWidth 22))
  | _ => none

/-- The functions of major 0x4A (R69). -/
noncomputable def ofEnc4A (e : Enc) : Option Instr :=
  match e.f.toNat with
  | 0 => some (.vlds ⟨e.g, e.n⟩ e.d (e.a.setWidth 5) (e.b.setWidth 5))
  | 1 => some (.vldx ⟨e.g, e.n⟩ e.d (e.a.setWidth 5) e.b)
  | 2 => some (.vldl ⟨e.g, e.n⟩ e.d (e.a.setWidth 5) e.b)
  | 3 => some (.vldxv ⟨e.g, e.n⟩ e.d (e.a.setWidth 5) e.b)
  | _ => none

/-- The functions of major 0x4B (R69). -/
noncomputable def ofEnc4B (e : Enc) : Option Instr :=
  match e.f.toNat with
  | 0 => some (.vst ⟨e.g, e.n⟩ e.d (e.a.setWidth 5))
  | 1 => some (.vsts ⟨e.g, e.n⟩ e.d (e.a.setWidth 5) (e.b.setWidth 5))
  | 2 => some (.vstx ⟨e.g, e.n⟩ e.d (e.a.setWidth 5) e.b)
  | 3 => some (.vstl ⟨e.g, e.n⟩ e.d (e.a.setWidth 5) e.b)
  | 4 => some (.vstmc ⟨e.g, e.n⟩ e.d (e.a.setWidth 5))
  | 5 => some (.vstrc ⟨e.g, e.n⟩ e.d (e.a.setWidth 5) (e.b.setWidth 5))
  | 6 => some (.vstsp ⟨e.g, e.n⟩ e.d (e.a.setWidth 5))
  | _ => none

/-- The functions of major 0x4C (R69). -/
noncomputable def ofEnc4C (e : Enc) : Option Instr :=
  match e.f.toNat with
  | 0 => some (.vamoAdd ⟨e.g, e.n⟩ (e.y.getLsbD 0) e.d (e.a.setWidth 5) e.b e.c)
  | 1 => some (.vamoAnd ⟨e.g, e.n⟩ (e.y.getLsbD 0) e.d (e.a.setWidth 5) e.b e.c)
  | 2 => some (.vamoOr ⟨e.g, e.n⟩ (e.y.getLsbD 0) e.d (e.a.setWidth 5) e.b e.c)
  | 3 => some (.vamoXor ⟨e.g, e.n⟩ (e.y.getLsbD 0) e.d (e.a.setWidth 5) e.b e.c)
  | 4 => some (.vamoMax ⟨e.g, e.n⟩ (e.y.getLsbD 0) e.d (e.a.setWidth 5) e.b e.c)
  | 5 => some (.vamoMin ⟨e.g, e.n⟩ (e.y.getLsbD 0) e.d (e.a.setWidth 5) e.b e.c)
  | 6 => some (.vamoSwap ⟨e.g, e.n⟩ (e.y.getLsbD 0) e.d (e.a.setWidth 5) e.b e.c)
  | 7 => some (.vamoFadd ⟨e.g, e.n⟩ (e.y.getLsbD 0) e.d (e.a.setWidth 5) e.b e.c)
  | _ => none

/-- The functions of major 0x50 (R69). -/
noncomputable def ofEnc50 (e : Enc) : Option Instr :=
  match e.f.toNat with
  | 0 => some (.mma (e.d.setWidth 4) e.a (e.b.setWidth 5) (e.y.setWidth 3) ((e.y >>> 3).setWidth 3) (e.y.getLsbD 6) (e.y.getLsbD 7) (e.y.getLsbD 8))
  | _ => none

/-- The functions of major 0x51 (R69). -/
noncomputable def ofEnc51 (e : Enc) : Option Instr :=
  match e.f.toNat with
  | 0 => some (.mmaff (e.d.setWidth 4) e.a (e.b.setWidth 5) (e.c.setWidth 5) (e.y.setWidth 3) ((e.y >>> 3).setWidth 3) (e.y.getLsbD 6) (e.y.getLsbD 8))
  | _ => none

/-- The functions of major 0x52 (R69). -/
noncomputable def ofEnc52 (e : Enc) : Option Instr :=
  match e.f.toNat with
  | 0 => some (.zclr (e.d.setWidth 4))
  | 1 => some (.zld (e.d.setWidth 4) (e.a.setWidth 5))
  | 2 => some (.zst (e.d.setWidth 4) (e.a.setWidth 5))
  | 3 => some (.zrd e.d (e.a.setWidth 4) e.s)
  | 4 => some (.zwr (e.d.setWidth 4) e.a e.s)
  | 5 => some (.zcvt (e.d.setWidth 4) (e.a.setWidth 5) e.m e.s)
  | _ => none

/-- The functions of major 0x55 (R69). -/
noncomputable def ofEnc55 (e : Enc) : Option Instr :=
  match e.f.toNat with
  | 0 => some (.tlwait ⟨e.g, e.n⟩ (e.a.setWidth 5) (e.b.setWidth 5) e.s)
  | 1 => some (.tlpost ⟨e.g, e.n⟩ (e.a.setWidth 5) (e.b.setWidth 5) e.s)
  | _ => none

/-- The functions of major 0x56 (R69). -/
noncomputable def ofEnc56 (e : Enc) : Option Instr :=
  match e.f.toNat with
  | 0 => some (.ringdef (e.d.setWidth 3) (e.a.setWidth 5) (e.b.setWidth 5) (e.c.setWidth 5) (e.y.setWidth 5))
  | 1 => some (.ringarr (e.d.setWidth 3))
  | 2 => some (.ringgen (e.d.setWidth 5) (e.a.setWidth 3))
  | 3 => some (.ringfree (e.d.setWidth 3))
  | _ => none

/-- The functions of major 0x60 (R69). -/
noncomputable def ofEnc60 (e : Enc) : Option Instr :=
  match e.f.toNat with
  | 0 => some (.amoAdd ⟨e.g, e.n⟩ (e.d.setWidth 5) (e.a.setWidth 5) (e.b.setWidth 5) (e.s.setWidth 2) (e.y.setWidth 3) (e.y.getLsbD 3))
  | 1 => some (.amoAnd ⟨e.g, e.n⟩ (e.d.setWidth 5) (e.a.setWidth 5) (e.b.setWidth 5) (e.s.setWidth 2) (e.y.setWidth 3) (e.y.getLsbD 3))
  | 2 => some (.amoOr ⟨e.g, e.n⟩ (e.d.setWidth 5) (e.a.setWidth 5) (e.b.setWidth 5) (e.s.setWidth 2) (e.y.setWidth 3) (e.y.getLsbD 3))
  | 3 => some (.amoXor ⟨e.g, e.n⟩ (e.d.setWidth 5) (e.a.setWidth 5) (e.b.setWidth 5) (e.s.setWidth 2) (e.y.setWidth 3) (e.y.getLsbD 3))
  | 4 => some (.amoMax ⟨e.g, e.n⟩ (e.d.setWidth 5) (e.a.setWidth 5) (e.b.setWidth 5) (e.s.setWidth 2) (e.y.setWidth 3) (e.y.getLsbD 3))
  | 5 => some (.amoMin ⟨e.g, e.n⟩ (e.d.setWidth 5) (e.a.setWidth 5) (e.b.setWidth 5) (e.s.setWidth 2) (e.y.setWidth 3) (e.y.getLsbD 3))
  | 6 => some (.amoMaxu ⟨e.g, e.n⟩ (e.d.setWidth 5) (e.a.setWidth 5) (e.b.setWidth 5) (e.s.setWidth 2) (e.y.setWidth 3) (e.y.getLsbD 3))
  | 7 => some (.amoMinu ⟨e.g, e.n⟩ (e.d.setWidth 5) (e.a.setWidth 5) (e.b.setWidth 5) (e.s.setWidth 2) (e.y.setWidth 3) (e.y.getLsbD 3))
  | 8 => some (.amoSwap ⟨e.g, e.n⟩ (e.d.setWidth 5) (e.a.setWidth 5) (e.b.setWidth 5) (e.s.setWidth 2) (e.y.setWidth 3) (e.y.getLsbD 3))
  | 9 => some (.amoCas ⟨e.g, e.n⟩ (e.d.setWidth 5) (e.a.setWidth 5) (e.b.setWidth 5) (e.c.setWidth 5) (e.s.setWidth 2) (e.y.setWidth 3) (e.y.getLsbD 3))
  | 10 => some (.amoFadd ⟨e.g, e.n⟩ (e.d.setWidth 5) (e.a.setWidth 5) (e.b.setWidth 5) (e.s.setWidth 2) (e.y.setWidth 3) (e.y.getLsbD 3))
  | _ => none

/-- The functions of major 0x61 (R69). -/
noncomputable def ofEnc61 (e : Enc) : Option Instr :=
  match e.f.toNat with
  | 0 => some (.lda ⟨e.g, e.n⟩ (e.d.setWidth 5) (e.a.setWidth 5) e.s)
  | 1 => some (.lda32 ⟨e.g, e.n⟩ (e.d.setWidth 5) (e.a.setWidth 5) e.s)
  | 2 => some (.strl ⟨e.g, e.n⟩ (e.d.setWidth 5) (e.a.setWidth 5) e.s)
  | 3 => some (.strl32 ⟨e.g, e.n⟩ (e.d.setWidth 5) (e.a.setWidth 5) e.s)
  | _ => none

/-- The functions of major 0x62 (R69). -/
noncomputable def ofEnc62 (e : Enc) : Option Instr :=
  match e.f.toNat with
  | 0 => some (.fence e.d)
  | 1 => some (.fenceAcq e.d)
  | 2 => some (.fenceRel e.d)
  | _ => none

/-- The functions of major 0x63 (R69). -/
noncomputable def ofEnc63 (e : Enc) : Option Instr :=
  match e.f.toNat with
  | 0 => some (.barArrive e.d)
  | 1 => some (.barWait e.d)
  | 2 => some (.barSync e.d)
  | _ => none

/-- The functions of major 0x68 (R69). -/
noncomputable def ofEnc68 (e : Enc) : Option Instr :=
  match e.f.toNat with
  | 0 => some (.txbegin (e.d.setWidth 5))
  | 1 => some (.txcommit (e.d.setWidth 5))
  | 2 => some (.snopen (e.d.setWidth 5))
  | 3 => some (.snclose (e.d.setWidth 5) (e.a.setWidth 5))
  | 4 => some (.snset (e.a.setWidth 5))
  | _ => none

/-- The functions of major 0x70 (R69). -/
noncomputable def ofEnc70 (e : Enc) : Option Instr :=
  match e.f.toNat with
  | 0 => some (.xdred ⟨e.g, e.n⟩ e.d (e.a.setWidth 5) e.s)
  | _ => none

/-- The instruction whose major and function a set of fields names (R69). -/
noncomputable def ofEnc (e : Enc) : Option Instr :=
  match e.op.toNat with
  | 0x00 => ofEnc00 e
  | 0x01 => ofEnc01 e
  | 0x02 => ofEnc02 e
  | 0x03 => ofEnc03 e
  | 0x04 => ofEnc04 e
  | 0x05 => ofEnc05 e
  | 0x06 => ofEnc06 e
  | 0x07 => ofEnc07 e
  | 0x08 => ofEnc08 e
  | 0x09 => ofEnc09 e
  | 0x0A => ofEnc0A e
  | 0x0B => ofEnc0B e
  | 0x10 => ofEnc10 e
  | 0x11 => ofEnc11 e
  | 0x12 => ofEnc12 e
  | 0x13 => ofEnc13 e
  | 0x14 => ofEnc14 e
  | 0x18 => ofEnc18 e
  | 0x19 => ofEnc19 e
  | 0x1A => ofEnc1A e
  | 0x1B => ofEnc1B e
  | 0x20 => ofEnc20 e
  | 0x21 => ofEnc21 e
  | 0x22 => ofEnc22 e
  | 0x23 => ofEnc23 e
  | 0x24 => ofEnc24 e
  | 0x28 => ofEnc28 e
  | 0x30 => ofEnc30 e
  | 0x31 => ofEnc31 e
  | 0x32 => ofEnc32 e
  | 0x40 => ofEnc40 e
  | 0x41 => ofEnc41 e
  | 0x42 => ofEnc42 e
  | 0x43 => ofEnc43 e
  | 0x44 => ofEnc44 e
  | 0x45 => ofEnc45 e
  | 0x46 => ofEnc46 e
  | 0x47 => ofEnc47 e
  | 0x48 => ofEnc48 e
  | 0x49 => ofEnc49 e
  | 0x4A => ofEnc4A e
  | 0x4B => ofEnc4B e
  | 0x4C => ofEnc4C e
  | 0x50 => ofEnc50 e
  | 0x51 => ofEnc51 e
  | 0x52 => ofEnc52 e
  | 0x55 => ofEnc55 e
  | 0x56 => ofEnc56 e
  | 0x60 => ofEnc60 e
  | 0x61 => ofEnc61 e
  | 0x62 => ofEnc62 e
  | 0x63 => ofEnc63 e
  | 0x68 => ofEnc68 e
  | 0x70 => ofEnc70 e
  | _ => none

/-- An instruction from its fields: major and function defined (R69), every register field in range and every unused
field zero (R53, R54, R72: the fields are those that encode the instruction), reserved operands refused. -/
noncomputable def decodeEnc (e : Enc) : Except Reject Instr :=
  match ofEnc e with
  | none => .error .undefinedFunction
  | some i =>
    if i.enc = some e then (if i.wf then .ok i else .error .reservedOperand) else .error .illegalField

/-- The fields of native words under a format (R52). -/
def fieldsOf (fmt : Format) (w : Words) : Enc :=
  let op := (w.head >>> 6).setWidth 7
  let d := w.head.setWidth 6
  let a := (w.w1 >>> 10).setWidth 6
  match fmt with
  | .z => { op := op, d := d }
  | .p => { op := op, d := d, a := a, b := (w.w1 >>> 4).setWidth 6, f := w.w1.setWidth 4 }
  | .q => { op := op, d := d, a := a, b := (w.w1 >>> 4).setWidth 6, f := w.w1.setWidth 4,
            g := (w.w2 >>> 11).setWidth 5, n := w.w2.getLsbD 10, e := w.w2.getLsbD 9,
            m := (w.w2 >>> 4).setWidth 5, s := w.w2.setWidth 4 }
  | .v => { op := op, d := d, a := a, b := (w.w1 >>> 4).setWidth 6, f := w.w1.setWidth 4,
            g := (w.w2 >>> 11).setWidth 5, n := w.w2.getLsbD 10, e := w.w2.getLsbD 9,
            m := (w.w2 >>> 4).setWidth 5, s := w.w2.setWidth 4,
            c := (w.w3 >>> 10).setWidth 6, y := w.w3.setWidth 10 }
  | .i => { op := op, d := d, a := a, f := (w.w1 >>> 6).setWidth 4,
            imm := (w.w1.setWidth 6 ++ w.w2 : BitVec 22).setWidth 38 }
  | .w => { op := op, d := d, a := a, f := (w.w1 >>> 6).setWidth 4,
            imm := w.w1.setWidth 6 ++ w.w3 ++ w.w2 }

/-- The head of a native instruction (R51). -/
def headOf (fmt : Format) (k : Bool) (e : Enc) : BitVec 16 :=
  fmt.tail ++ BitVec.ofBool k ++ e.op ++ e.d

/-- w1 of formats P, Q and V (R52). -/
def word1 (e : Enc) : BitVec 16 := e.a ++ e.b ++ e.f

/-- w2 of formats Q and V (R52). -/
def word2 (e : Enc) : BitVec 16 := e.g ++ BitVec.ofBool e.n ++ BitVec.ofBool e.e ++ e.m ++ e.s

/-- The native words of a set of fields under a format, with run mark `k` (R51, R52). -/
def wordsOf (fmt : Format) (k : Bool) (e : Enc) : Words :=
  let head := headOf fmt k e
  match fmt with
  | .z => { head := head }
  | .p => { head := head, w1 := word1 e }
  | .q => { head := head, w1 := word1 e, w2 := word2 e }
  | .v => { head := head, w1 := word1 e, w2 := word2 e, w3 := e.c ++ e.y }
  | .i => { head := head, w1 := e.a ++ e.f ++ (e.imm >>> 16).setWidth 6, w2 := e.imm.setWidth 16 }
  | .w => { head := head, w1 := e.a ++ e.f ++ (e.imm >>> 32).setWidth 6, w2 := e.imm.setWidth 16,
            w3 := (e.imm >>> 16).setWidth 16 }

/-- Decode native words (R67 step 2); the words beyond the tail must be 0, as the line layout makes them. -/
noncomputable def decode (w : Words) : Except Reject Instr :=
  match formatOf ((w.head >>> 6).setWidth 7) with
  | none => .error .reservedMajor
  | some fmt =>
    if (w.head >>> 14).setWidth 2 = fmt.tail then decodeEnc (fieldsOf fmt w) else .error .formatMismatch

/-- The run mark of a head (R51). -/
def runMark (head : BitVec 16) : Bool := head.getLsbD 13

/-- The native words of an instruction with run mark `k`; none for an event or command. -/
def encode (k : Bool) (i : Instr) : Option Words :=
  match i.enc with
  | none => none
  | some e => (formatOf e.op).map fun fmt => wordsOf fmt k e

/-- Whether a format's Adtan word has an extension (R74). -/
def Format.hasExt : Format → Bool
  | .z => false | .p => false | .q => true | .i => true | .v => true | .w => true

/-- The fields of an Adtan word and its extension (R73, R74); none when the word breaks R74. -/
def adtanFields (fmt : Format) (w ext : BitVec 32) : Option Enc :=
  let op := (w >>> 25).setWidth 7
  let d := (w >>> 19).setWidth 6
  let a := (w >>> 13).setWidth 6
  let b := (w >>> 7).setWidth 6
  let f := (w >>> 3).setWidth 4
  let q : Enc := { op := op, d := d, a := a, b := b, f := f,
                   g := (ext >>> 11).setWidth 5, n := ext.getLsbD 10, e := ext.getLsbD 9,
                   m := (ext >>> 4).setWidth 5, s := ext.setWidth 4 }
  match fmt with
  | .z => if a = 0 ∧ b = 0 ∧ f = 0 then some { op := op, d := d } else none
  | .p => some { op := op, d := d, a := a, b := b, f := f }
  | .q => if ext >>> 16 = 0 then some q else none
  | .v => some { q with c := (ext >>> 26).setWidth 6, y := (ext >>> 16).setWidth 10 }
  | .i => if b = 0 ∧ (ext.setWidth 22).signExtend 32 = ext
          then some { op := op, d := d, a := a, f := f, imm := (ext.setWidth 22).setWidth 38 } else none
  | .w => some { op := op, d := d, a := a, f := f, imm := b ++ ext }

/-- Decode an Adtan word and its extension (R73, R74). -/
noncomputable def decodeAdtan (w ext : BitVec 32) : Except Reject Instr :=
  match formatOf ((w >>> 25).setWidth 7) with
  | none => .error .reservedMajor
  | some fmt =>
    if w.getLsbD 2 = fmt.hasExt ∧ w.setWidth 2 = 0#2 then
      match adtanFields fmt w ext with
      | none => .error .illegalField
      | some e => decodeEnc e
    else .error .formatMismatch

/-- The Adtan word and extension word of an instruction (R73, R74). -/
def encodeAdtan (i : Instr) : Option (BitVec 32 × BitVec 32) :=
  match i.enc with
  | none => none
  | some e =>
    (formatOf e.op).map fun fmt =>
      let b : BitVec 6 := if fmt = .w then (e.imm >>> 32).setWidth 6 else e.b
      let w : BitVec 32 := e.op ++ e.d ++ e.a ++ b ++ e.f ++ BitVec.ofBool fmt.hasExt ++ 0#2
      let x : BitVec 32 :=
        match fmt with
        | .z | .p => 0
        | .q => (0#16 ++ word2 e : BitVec 32)
        | .v => ((e.c ++ e.y : BitVec 16) ++ word2 e : BitVec 32)
        | .i => (e.imm.setWidth 22).signExtend 32
        | .w => e.imm.setWidth 32
      (w, x)

/-- The words of an instruction given as one number, bit 0 the least significant bit of the head (R51, R52). -/
def wordsOfNat (w : Nat) : Words :=
  { head := BitVec.ofNat 16 w, w1 := BitVec.ofNat 16 (w / 2 ^ 16),
    w2 := BitVec.ofNat 16 (w / 2 ^ 32), w3 := BitVec.ofNat 16 (w / 2 ^ 48) }

/-- The instruction the decoder reads from the opcode table's word: `nbits` bits of `w`, head first. -/
noncomputable def decodeTableWord (nbits w : Nat) : Option Instr :=
  match decode (wordsOfNat (w % 2 ^ nbits)) with
  | .ok i => some i
  | .error _ => none

end Sys2Proof
end

