-- ==== Sys2Proof/Config.lean ====
section
/-! DEFINITION. What an implementation fixes and what the manual leaves open. Constants with a body are the
manual's own numbers or a choice that a log entry names; the opaque ones are free values: nothing constrains them
and no proof can see one. -/
namespace Sys2Proof.Config

/-- Free 64-bit values: unspecified register contents (R4 "X"), remote data, signatures; applied to the step's
`State.nonce` and a slot number. -/
opaque freeWord : Nat → Nat → BitVec 64

/-- Free choices among the outcomes a rule permits (R6): which of the permitted values a read returns. -/
opaque choose : Nat → Nat → Nat

/-- How far CYCLE advances in one step (R186: never backwards; R188 latencies are nominal). -/
opaque cyclesTaken : Nat → Nat

/-- The private bytes of a queued-instruction record of the kennel (R294). -/
opaque queuedRecordByte : Nat → Nat → BitVec 8

/-- A byte of a signature under the device identity key (R477), applied to `State.nonce` and its place. -/
opaque signatureByte : Nat → Nat → BitVec 8

/-- The certificate chain that ends at Korlan's root, and the SPDM capability flags (R477), which the manual does not give. -/
opaque certificate : List (BitVec 64)
opaque spdmCapabilities : BitVec 64

/-- The SHA-256 digest that measures some data under a measurement index: R478 names the data and not their order of bytes. -/
opaque measure : Nat → List Nat → BitVec 256

/-- What HBM holds of a line of no partition, as a number of 64 bytes. -/
opaque strayLine : Nat → Nat

/-- CRC-64 of a flit's bytes 0–247 (R482), whose polynomial the manual does not give. -/
opaque crc64 : List (BitVec 8) → BitVec 64

/-- What the manual does not give of a flit (R482, R483): whether its type ends a flit group, and the TDEV whose session's key its bytes are
under. -/
opaque flitLast : Nat → Bool
opaque flitTdev : List (BitVec 8) → Nat

/-- Fuse values (R441, R442): SERIAL of DEVID and STEP of STEPPING. -/
opaque fuseSerial : BitVec 32
opaque fuseStep : BitVec 8

/-- ROM value of FWVER (R442). -/
opaque romFirmware : BitVec 64

/-- The HEALTHY fuse value of each core's LANEMAP (R166). -/
opaque fuseHealthy : Nat → BitVec 32

/-- The channels, by stack and index, that fuses mark failed (R409). -/
opaque fuseChannels : List (Nat × Nat)

/-- The cores that a fuse disables (R392). -/
opaque fuseDisabled : Nat → Bool

/-- How many old versions the version store holds for a share in 64ths of usable memory (R423 gives the store's size
in bytes and not the size of a record). -/
opaque versionRecords : Nat → Nat

/-- The set of an L2 TLB that holds a page (R324): by its first address and its size. -/
opaque tlbSet : Nat → Nat → Nat

/-- The size of a trace buffer's or sample buffer's header, which R463 names and does not lay out. -/
opaque bufferHeader : Nat

/-- The bit of that header which is the overflow flag (R463), counted from its first byte. -/
opaque overflowFlag : Nat

end Sys2Proof.Config
end

