-- ==== Sys2Proof/Machine/State.lean ====
section
/-! DEFINITION. The state of the whole package as plain data, the state right after package reset, and the reasons a
step can stop. -/
namespace Sys2Proof.Machine

/-- Why a step can fault: no reason exists, since R6 gives every use an effect and every trap of the manual is taken. -/
inductive Fault where
  deriving DecidableEq, Repr

/-- Why a step can be refused. -/
inductive Refusal where
  /-- Raised by an arm of `exec` whose instruction has no meaning yet. Every arm has one, so nothing raises it. Safe. -/
  | notModelled (mnemonic : String)
  deriving DecidableEq, Repr

/-- The outcome of one instruction or event. -/
abbrev Result (σ : Type) := Host.Outcome σ Fault Refusal

/-- Memory: cells at strictly rising addresses, none equal to the 0 that an unlisted byte reads as (R420). -/
abbrev Memory := List Host.Cell

/-- A sparse map with rising keys. -/
abbrev Table (α : Type) := List (Nat × α)

/-! ## Function codes shared by the scalar and the vector side -/

/-- The integer functions of R119 and R199. -/
inductive IntFn where
  | add | sub | mul | mulh | and | or | xor | sll | srl | sra | min | max | minu | maxu
  deriving DecidableEq, Repr

/-- The integer compares of R126 and R202. -/
inductive CmpFn where
  | eq | ne | lt | ge | ltu | geu
  deriving DecidableEq, Repr

/-- The float compares of R24. -/
inductive FCmpFn where
  | eq | lt | le | unord
  deriving DecidableEq, Repr

/-- The two-operand float functions of R146 and R201. -/
inductive FBinFn where
  | add | sub | mul | div | min | max
  deriving DecidableEq, Repr

/-- The one-operand float functions of R146 and R201. -/
inductive FUnFn where
  | sqrt | abs | neg
  deriving DecidableEq, Repr

/-- The fused forms of R147 and R201. -/
inductive FmaFn where
  | fma | fms | fnma
  deriving DecidableEq, Repr

/-- The conversions of R149, in the order of their F values. -/
inductive ConvFn where
  | f64F32 | f32F64 | f32I64 | i64F32 | f64I64 | i64F64 | bf16F32 | f32Bf16
  | fp16F32 | f32Fp16 | e4m3F32 | f32E4m3 | e5m2F32 | f32E5m2 | lgF32 | f32Lg
  deriving DecidableEq, Repr

/-- The mask operations of R203. -/
inductive MaskFn where
  | and | or | xor | andn | not | mov | shl | shr | set | clr | rdd | wrd
  deriving DecidableEq, Repr

/-- The integer reductions of R207. -/
inductive RedFn where
  | add | and | or | xor | max | min | maxu | minu
  deriving DecidableEq, Repr

/-- The float reductions of R207: ordered sum, tree sum, maximum, minimum. -/
inductive FRedFn where
  | ordered | tree | max | min
  deriving DecidableEq, Repr

/-- The read-modify-write functions of R218 and R349. -/
inductive AmoFn where
  | add | and | or | xor | max | min | maxu | minu | swap | cas | fadd
  deriving DecidableEq, Repr

/-- The matrix element types (R252). -/
inductive MatType where
  | bf16 | fp16 | e4m3 | e5m2 | i8 | log6
  deriving DecidableEq, Repr

/-! ## Translations and captured vector work -/

/-- What a valid translation gives (R399–R401): the physical address and the page's attributes. -/
structure Xlate where
  pa : Nat
  r : Bool
  w : Bool
  x : Bool
  u : Bool
  vers : Bool
  repl : Bool
  nc : Bool
  tdev : Nat
  deriving DecidableEq, Repr

/-- One element of a queued vector memory access: its index, its address and where that goes. `landed` is the datum already in
the row's load buffers (R171), `bad` whether its line was poisoned (R173). -/
structure ElemAcc where
  e : Nat
  va : BitVec 64
  xl : Xlate
  landed : Option (BitVec 64)
  bad : Bool
  deriving DecidableEq, Repr

/-- One element of a scratchpad access: element, side (false: leader), byte offset in the allocation, the datum a load
has read and whether its word was poisoned (R171, R226). -/
structure SpAcc where
  e : Nat
  follower : Bool
  off : Nat
  landed : Option (BitVec 64)
  bad : Bool
  deriving DecidableEq, Repr

/-- A vector operand B that is a register group or a captured scalar (R199, R202). -/
inductive VSrc where
  | v (r : BitVec 6)
  | x (w : BitVec 64)
  deriving DecidableEq, Repr

/-- Which version a vector load reads (R213): the ordinary one (TXSTART or head), or the snapshot in SNAP. -/
inductive VRead where
  | plain
  | snapshot (snap : BitVec 64)
  deriving DecidableEq, Repr

/-- What a vector store does beside storing (R209, R216, R217). -/
inductive VWrite where
  | plain
  | multicast
  | readerCount (n : BitVec 8)
  deriving DecidableEq, Repr

/-- A resolved scratchpad operand of the matrix and accumulator instructions (R248): side and offset. -/
structure SpPlace where
  follower : Bool
  off : Nat
  deriving DecidableEq, Repr

/-- A tile that mma or zld reads from scratchpad (R249): its place, the bytes of one row, the rows already read, and the
lowest poisoned word met (R251). -/
structure SpTile where
  place : SpPlace
  size : Nat
  rows : List (Option (List (BitVec 8)))
  bad : Option Nat
  deriving DecidableEq, Repr

/-- The work of one vector-queue entry, its scalar operands captured at issue (R170, R190). `stopped` marks the performed
part of an indexed form that took a trap: it leaves md marking its elements (R193, R211). `slot` is the entry of an instruction that
its control thread waits in, before it reads the lanes (R170, R172, R174). -/
inductive VOp where
  | slot
  | int (f : IntFn) (vd va : BitVec 6) (b : VSrc)
  | carry (borrow : Bool) (vd va : BitVec 6) (b : VSrc) (mc mm : BitVec 5)
  | fbin (f : FBinFn) (fp16 : Bool) (exc : Exc) (rm : BitVec 4) (vd va vb : BitVec 6)
  | fun1 (f : FUnFn) (fp16 : Bool) (exc : Exc) (rm : BitVec 4) (vd va : BitVec 6)
  | fma (f : FmaFn) (fp16 : Bool) (exc : Exc) (rm : BitVec 4) (vd va vb vc : BitVec 6)
  | icmp (f : CmpFn) (md : BitVec 5) (va : BitVec 6) (b : VSrc)
  | fcmp (f : FCmpFn) (exc : Exc) (md : BitVec 5) (va : BitVec 6) (b : VSrc)
  | mask (f : MaskFn) (md ma mb : BitVec 5)
  | slideUp (vd va : BitVec 6) (x : BitVec 64)
  | slideDown (vd va : BitVec 6) (x : BitVec 64)
  | perm (vd va vb : BitVec 6)
  | bcast (vd : BitVec 6) (x : BitVec 64)
  | compress (vd va : BitVec 6) (mb : BitVec 5)
  | expand (vd va : BitVec 6) (mb : BitVec 5)
  | ins (vd : BitVec 6) (x idx : BitVec 64)
  | conv (f : ConvFn) (exc : Exc) (rm : BitVec 4) (vd va : BitVec 6)
  | load (k : VRead) (vd : BitVec 6) (acc : List ElemAcc)
  | store (k : VWrite) (vd : BitVec 6) (acc : List ElemAcc)
  | loadSp (vd : BitVec 6) (acc : List SpAcc)
  | storeSp (vd : BitVec 6) (acc : List SpAcc)
  | loadX (k : VRead) (vd : BitVec 6) (acc : List ElemAcc) (stopped : Bool)
  | storeX (vd : BitVec 6) (acc : List ElemAcc) (stopped : Bool)
  | loadLane (vd : BitVec 6) (acc : List SpAcc) (stopped : Bool)
  | storeLane (vd : BitVec 6) (acc : List SpAcc) (stopped : Bool)
  | mma (zd : BitVec 4) (va : BitVec 6) (b : List SpTile) (ta tb : MatType) (keep brace clear : Bool)
  | zclr (zd : BitVec 4)
  | zld (zd : BitVec 4) (b : List SpTile)
  | zst (zd : BitVec 4) (b : List SpPlace)
  | zrd (vd : BitVec 6) (za q : BitVec 4)
  | zwr (zd : BitVec 4) (va : BitVec 6) (q : BitVec 4)
  | zcvt (zd : BitVec 4) (b : List SpPlace) (src : BitVec 5) (tgt : BitVec 4)
  | xdred (vd : BitVec 6) (va : BitVec 64) (xl : Xlate) (op : BitVec 4)
  deriving DecidableEq, Repr

/-- The vector type and length captured at issue (R190): VL, VSTART, element width in bits, group factor, brace
span, FPSTATUS.RM (R20) and EXCSEL (R27). -/
structure VCtx where
  vl : Nat
  vstart : Nat
  ew : Nat
  grp : Nat
  bs : Bool
  rm : BitVec 3
  excsel : BitVec 5
  deriving DecidableEq, Repr

/-- One entry of a row's vector queue (R170); `seq` is its place in the row's issue order, `rings` the rings whose
stages it resolved (R245), `pc` its address and `stop` whether it stops there (R461), `cycle` CYCLE at issue (R464), `earlier`
the elements and addresses of a store part of which has been performed already (R437, R461), `words` the tile words that a
matrix or accumulator instruction has applied or read already with what it read, and `met` the side where one was poisoned (R250,
R251), and `checked` whether it has raised its machine check already (R297). -/
structure VEntry where
  op : VOp
  ctx : VCtx
  guard : Guard
  seq : Nat
  rings : List Nat
  pc : BitVec 48
  stop : Bool
  cycle : Nat
  earlier : Option (List (Nat × BitVec 64))
  words : Table (BitVec 32)
  met : Option Bool
  checked : Bool
  deriving DecidableEq, Repr

/-! ## Threads -/

/-- Control-thread mode, STATUS.CMODE and PMODE (R184, R277). -/
inductive CMode where
  | user | supervisor | firmware
  deriving DecidableEq, Repr

/-- A register of a thread, as the visibility rule names it (R61). -/
inductive RegName where
  | int (n : BitVec 6)
  | pred (n : BitVec 5)
  deriving DecidableEq, Repr

/-- The current run of a thread (R60, R63): instructions counted, first address, CYCLE and stream (R463), earlier values that a read of the same run may
still return (R61), and the same for status registers (R152). -/
structure Run where
  count : Nat
  start : BitVec 48
  cycle : Nat
  stream : Nat
  owed : List (RegName × BitVec 64)
  owedSr : List (Nat × BitVec 64)
  deriving DecidableEq, Repr

/-- The snapshot of the code line a thread executes from (R50): virtual line address and 64 bytes. -/
structure Line where
  addr : BitVec 48
  bytes : List (BitVec 8)
  deriving DecidableEq, Repr

/-- A matched instruction in progress as its substitutes (R80): the entry, the next substitute, the matched native
words, the address after the matched instruction and its run mark. -/
structure PatchRun where
  entry : Nat
  next : Nat
  words : BitVec 64
  npc : BitVec 48
  mark : Bool
  deriving DecidableEq, Repr

/-- What the front end latched of the instruction now executing: its encoding as R68 lays it out, its address, the
next address in sequence (R48, R75), its run mark, whether it is Adtan, and, for a substitute, whether it is one
and whether it is the last (R80). -/
structure Fetch where
  raw : BitVec 64
  pc : BitVec 48
  npc : BitVec 48
  mark : Bool
  adtan : Bool
  sub : Bool
  lastSub : Bool
  deriving DecidableEq, Repr

/-- What a thread waits for (R178), with the operands an event needs to complete the instruction: the queue
instructions (R106–R108), `rfetch` and its forms (R104), `tlwait` (R273), the barriers (R361), `rwait` (R197), a stall on ring `n` until its CG reaches `need`, with the
TRAPVAL, and the element for TRAPELEM and VSTART, that it takes should the ring go (R244, R245, R275);
`slot` is a wait for the lanes by an instruction that holds its vector-queue entry meanwhile (R170, R172, R174);
`room` is every other wait, ended by the thread's own next turn; `stored` marks a member of a waiting group whose own
store has been performed (R437). -/
inductive Waiting where
  | qsend (q1 : Bool) (d : BitVec 6)
  | qrecv (q1 : Bool) (d : BitVec 6)
  | xqpush (q1 : Bool) (xd : BitVec 5)
  | xqpop (q1 : Bool) (xd : BitVec 5)
  | rfetch (idem : Bool) (imm : Option (BitVec 38)) (xa : BitVec 5)
  | tlwait (gd : Guard) (xa xb : BitVec 5) (sc : BitVec 4)
  | barWait (n : BitVec 6)
  | barSync (n : BitVec 6)
  | rwait
  | ringStall (n need : Nat) (val : BitVec 64) (elem : Option Nat)
  | slot
  | room
  | stored
  deriving DecidableEq, Repr

/-- An element of a thread's next vector instruction that has been translated before the instruction's other elements (R405): its
index, the access, and the translation or the cause of its fault. -/
structure Begun where
  e : Nat
  kind : AccessKind
  va : BitVec 64
  res : Xlate ⊕ BitVec 8
  deriving DecidableEq, Repr

/-- A scalar load that a thread has gone past without performing it (R334, R345): its destination, how its `n` bytes are extended, and
where it reads: memory at its translation, or the pack's scratchpad at a side and offset. -/
structure Late where
  dest : BitVec 6
  signed : Bool
  n : Nat
  src : Xlate ⊕ (Bool × Nat)
  deriving DecidableEq, Repr

/-- What every thread has: PC (R98, R155), line snapshot, run, substitutes in progress, the instruction it waits
in (R178), the elements its next instruction has begun with (R405), and the loads it has gone past (R334), oldest first. -/
structure Thread where
  pc : BitVec 48
  line : Option Line
  run : Run
  patch : Option PatchRun
  waiting : Option (Waiting × Fetch)
  begun : List Begun
  late : List Late
  deriving DecidableEq, Repr

/-- Strand states (R99). -/
inductive StrandState where
  | idle | lockstep | loose | held | faulted | halted
  deriving DecidableEq, Repr

/-- A strand's PC, leash and STRANDSTATE word as they stood at some earlier instant: what a read of them made outside a
handler may return (R113). -/
structure StrandSample where
  pc : BitVec 48
  leash : BitVec 48
  word : BitVec 64
  deriving DecidableEq, Repr

/-- What a handler's writes leave of a strand, until they take effect at tret (R113, R114): its PC, leash and STATE where
written, whether CAUSE, FVAL and PEND are cleared, and whether PEND alone is. -/
structure StrandEdit where
  pc : Option (BitVec 48)
  leash : Option (BitVec 48)
  state : Option StrandState
  clear : Bool
  ack : Bool
  deriving DecidableEq, Repr

/-- A strand (R98, R99, R111, R113). `group` names the group of a LOCKSTEP strand (R100); `md` is its word of the
row's done mask (R155), `bad` are its poisoned registers (R296). -/
structure Strand where
  thread : Thread
  leash : BitVec 48
  g : Vector (BitVec 64) 64
  p : Vector (BitVec 64) 32
  md : BitVec 64
  state : StrandState
  idem : Bool
  cause : BitVec 8
  fval : BitVec 48
  pend : Bool
  qblk : Bool
  skip : Bool
  group : Nat
  flags : BitVec 5
  sample : StrandSample
  bad : List RegName
  deriving DecidableEq, Repr

/-! ## Rows -/

/-- FPSTATUS (R25). -/
structure FpStatus where
  excsel : BitVec 5
  flags : BitVec 5
  rm : BitVec 3
  deriving DecidableEq, Repr

/-- STATUS (R184); PRIO is the pack's. -/
structure Status where
  runlong : Bool
  saoff : Bool
  cmode : CMode
  pmode : CMode
  intrap : Bool
  deriving DecidableEq, Repr

/-- TRAPCAUSE, TRAPPC, TRAPVAL, TRAPELEM (R282). -/
structure TrapRegs where
  cause : BitVec 8
  nest : Bool
  mcovf : Bool
  pc : BitVec 48
  val : BitVec 64
  elem : BitVec 13
  deriving DecidableEq, Repr

/-- VTYPE (R163). -/
structure VType where
  bs : Bool
  g : BitVec 2
  ew : BitVec 2
  deriving DecidableEq, Repr

/-- WIDTH (R160). -/
structure Width where
  braced : Bool
  req : BitVec 8
  grant : BitVec 8
  deriving DecidableEq, Repr

/-- The copy registers (R230). -/
structure CopyRegs where
  src : BitVec 64
  dst : BitVec 64
  rows : BitVec 16
  cols : BitVec 16
  sstride : BitVec 32
  dstride : BitVec 32
  aring : BitVec 3
  arr : Bool
  rc : BitVec 8
  mfmt : BitVec 2
  esize : BitVec 2
  dir : BitVec 3
  tl : BitVec 64
  inc : BitVec 64
  gate : BitVec 64
  gval : BitVec 64
  deriving DecidableEq, Repr

/-- COPYERR (R230). -/
structure CopyErr where
  tid : BitVec 32
  valid : Bool
  cause : BitVec 8
  deriving DecidableEq, Repr

/-- MODE (R65). `now` is ILK as the current run sees it: ILKSET takes effect when the setsr's run ends. -/
structure ModeReg where
  foreign : Bool
  ilkset : Bool
  now : Bool
  deriving DecidableEq, Repr

/-- PREEMPT (R289). -/
structure Preempt where
  tforce : BitVec 20
  park : Bool
  forced : Bool
  req : Bool
  deriving DecidableEq, Repr

/-- DEBUGRIGHT (R455); TRACE is read off the core's trace comparator. -/
structure DebugRight where
  halted : Bool
  catch_ : Bool
  right : Bool
  deriving DecidableEq, Repr

/-- A machine check waiting at a row (R297): syndrome and TRAPELEM. -/
structure MCheck where
  syndrome : BitVec 64
  elem : BitVec 13
  deriving DecidableEq, Repr

/-- A held timeline post (R271): translation, amount, scope, place in the row's issue order. -/
structure Post where
  va : BitVec 64
  xl : Xlate
  add : BitVec 64
  scope : Nat
  seq : Nat
  deriving DecidableEq, Repr

/-- A ring arrival or a pack-barrier arrival issued but not yet counted (R245, R361): what it counts for, and its
place in the row's issue order. -/
structure Arrival where
  n : Nat
  gen : Nat
  seq : Nat
  deriving DecidableEq, Repr

/-- The dispatch recorded for R116. -/
structure Recorded where
  entry : BitVec 48
  set : List Nat
  deriving DecidableEq, Repr

/-- One tentative line of a transaction or of a speculative pack (R431, R439): line number, byte mask and bytes, and whether
its data are poisoned (R326). -/
structure TentLine where
  line : Nat
  mask : BitVec 64
  bytes : List (BitVec 8)
  bad : Bool
  deriving DecidableEq, Repr

/-- An open transaction (R431, R432). -/
structure Tx where
  lines : List TentLine
  doomed : Option (BitVec 64)
  deriving DecidableEq, Repr

/-- One record of the row's vector history (R461). -/
structure HistRecord where
  words : List (BitVec 64)
  deriving DecidableEq, Repr

/-- A `bar.sync` in progress: barrier number, the instruction's address and the phase it waits for (R362, R365). -/
structure BarSync where
  n : Nat
  pc : BitVec 48
  gen : Nat
  deriving DecidableEq, Repr

/-- The counts of a trace summary record (R463), each saturating at 16 bits. -/
structure Summary where
  runs : Nat
  instrs : Nat
  vectors : Nat
  waits : Nat
  deriving DecidableEq, Repr

/-- How a row stands: live, or ended for the rest of the launch (R141, R280). -/
inductive RowLife where
  | live | ended
  deriving DecidableEq, Repr

/-- A row context (R155) with everything a row holds. `edits` are the handler's edits of strands not yet in effect, by
strand (R114), `debugWrites` a debugger's writes, which take effect at release (R460). `bpSkip` are the addresses whose
instruction executes without matching (R458), each with whether the row has resumed there since. `stopped` marks a row
stopped for a forced save (R287), `ids` the identity registers that an edited image has changed (R295), by number, PRIO
under 0, and `bad` the control thread's poisoned registers (R296). -/
structure Row where
  thread : Thread
  x : Vector (BitVec 64) 32
  p : Vector (BitVec 64) 32
  strands : List Strand
  nextGroup : Nat
  q0 : List (List (BitVec 64))
  q1 : List (List (BitVec 64))
  status : Status
  trap : TrapRegs
  vstart : BitVec 13
  vl : BitVec 14
  vtype : VType
  width : Width
  rowmask : BitVec 64
  fp : FpStatus
  snap : BitVec 64
  txstart : BitVec 64
  haddr : BitVec 48
  scratch : BitVec 64
  copy : CopyRegs
  copyErr : CopyErr
  nextTid : BitVec 32
  strandsel : BitVec 7
  mode : ModeReg
  preempt : Preempt
  dbg : DebugRight
  bpSkip : List (BitVec 48 × Bool)
  stopped : Bool
  life : RowLife
  vq : List VEntry
  issueSeq : Nat
  posts : List Post
  ringArr : List Arrival
  barArr : List Arrival
  gens : List Nat
  ap : List (BitVec 64)
  barSync : Option BarSync
  recorded : Option Recorded
  edits : Table StrandEdit
  debugWrites : List DebugAccess
  mcheck : Option MCheck
  tx : Option Tx
  history : List HistRecord
  histSeq : Nat
  summary : Summary
  context : Nat
  ids : Table (BitVec 64)
  bad : List RegName
  deriving DecidableEq, Repr

/-! ## Packs -/

/-- A defined ring (R243); `base` is relative to the allocation (R247). `counts` are the arrivals for generations CG + 1 … CG + S. -/
structure Ring where
  base : Nat
  s : Nat
  size : Nat
  parties : Nat
  cg : Nat
  counts : List Nat
  deriving DecidableEq, Repr

/-- A ringdef or ringfree that other rows may not have seen yet (R276): the ring before it, the row that made it, its
place in that row's issue order, the rows that have acquired it, and where the defining row has released it since:
timelines by address, barrier arrivals by barrier + 16 × phase. -/
structure RingEdit where
  n : Nat
  old : Option Ring
  by_ : Nat
  seq : Nat
  known : List Nat
  posted : List Nat
  bars : List Nat
  deriving DecidableEq, Repr

/-- The keep latch (R257): the A field, type and brace of the latching mma, and the rows of A as words. -/
structure Latch where
  va : BitVec 6
  ta : MatType
  brace : Bool
  rows : List (List (BitVec 64))
  deriving DecidableEq, Repr

/-- One core's side of a pack's allocation (R224, R228): scratchpad bytes and poisoned words by offset from base,
accumulator words by 4096·tile + 64·i + j, poisoned accumulator words, SAT flags. -/
structure Side where
  sp : Memory
  spPoison : List Nat
  acc : Table (BitVec 32)
  accPoison : List Nat
  sat : BitVec 16
  deriving DecidableEq, Repr

/-- Where a pack stands (R382–R389, R440). -/
inductive PackLife where
  | waiting | resident | saved | ended
  deriving DecidableEq, Repr

/-- An ordered-speculative pack's mode (R439, R440): the transaction and its start time, or serial mode; whether
some lower pack had not committed when it started; whether it must wait for the lower packs. -/
structure Ospec where
  serial : Bool
  start : Nat
  lowerOpen : Bool
  waitLower : Bool
  tx : Tx
  committed : Bool
  deriving DecidableEq, Repr

/-- What a row's strand part of a kennel image holds (R293, R294): whether strand slots are saved, whether as a discard and
its entry, the queue records, and the part's offset. -/
structure RowPart where
  strands : Bool
  discard : Bool
  entry : BitVec 48
  qcount : Nat
  at_ : Nat
  deriving DecidableEq, Repr

/-- A saved pack's image (R292): whether by a forced save, the WIDTH and base then, the held transfers, each row's strand
part, the place of the image's end, and the number that names its private queue records. -/
structure Saved where
  forced : Bool
  width : Width
  base : BitVec 22
  held : Nat
  parts : List RowPart
  size : Nat
  tag : Nat
  deriving DecidableEq, Repr

/-- A pack: identity, resources and rows (R155, R187, R384). `core` is the core or the brace's leader; `saved` the image of
its last save, `swapping` whether the swap asked it to leave, and `swapped` its order once it has left so (R388). -/
structure Pack where
  life : PackLife
  packId : BitVec 32
  launch : Nat
  index : BitVec 32
  ctx : Nat
  part : Nat
  core : Nat
  braced : Bool
  base : BitVec 22
  units : Nat
  tiles : Nat
  ringCount : Nat
  prio : BitVec 3
  kaddr : BitVec 48
  ksize : Nat
  lead : Side
  foll : Side
  rings : List (Option Ring)
  ringEdits : List RingEdit
  latch : Option Latch
  cp : List (BitVec 64)
  rows : List Row
  placedAt : Nat
  saved : Option Saved
  swapping : Bool
  swapped : Option Nat
  ospec : Option Ospec
  started : Bool
  deriving DecidableEq, Repr

/-! ## Copies -/

/-- Where a transfer stands (R235, R236, R240): held, held in its pack's kennel, started, with steps 1 and 2 of its
completion taken, or complete. -/
inductive CopyLife where
  | held | saved | started | adding | done
  deriving DecidableEq, Repr

/-- A copy transfer in flight (R234): its row, TID, captured registers, captured generations of the rings that SRC,
DST and ARING name, captured translations, the issuer's mode (R401), the pieces not yet performed, and the first
failure. Its start fixes the allocation's base and the stages that ring-relative sides resolve to (R231, R244): offset and
size. `sides` is the scratchpad it goes on reading once its pack has left the core (R240), `reads` the rows of its shape with the lines
that have counted as read (R415). -/
structure Transfer where
  pack : Nat
  row : Nat
  core : Nat
  tid : BitVec 32
  regs : CopyRegs
  genSrc : Nat
  genDst : Nat
  genArr : Nat
  tl : Option Xlate
  gate : Option Xlate
  user : Bool
  life : CopyLife
  left : List Nat
  cause : Option (BitVec 8)
  base : BitVec 22
  stageSrc : Option (Nat × Nat)
  stageDst : Option (Nat × Nat)
  sides : Option (Side × Side)
  reads : List (Nat × Nat)
  deriving DecidableEq, Repr

/-! ## Cores, clusters, dies -/

/-- A scalar write in a core's L1 that is not yet visible outside the core (R182, R333), or, with no bytes, the
marker of a release fence (R339). `held` marks a release wider than the core (R337, R357); `settled` a write that some
access of the core's agents happens after (R340, R404), `shown` one that the core's other agents read already (R333). -/
structure L1Store where
  agent : Agent
  pa : Nat
  bytes : List (BitVec 8)
  held : Bool
  settled : Bool
  shown : Bool
  deriving DecidableEq, Repr

/-- A read that an agent has performed before its place in program order (R334): of a load whose base register is `base`, which nothing
has written since, or with none of a code line at virtual address `va`; where it read, and what. `sp` is the side of the pack's scratchpad
that a local load read, `pa` then its offset (R345). `after` is what copies have left there since, and the core of the last (R270). -/
structure Early where
  agent : Agent
  base : Option (BitVec 6)
  va : BitVec 48
  sp : Option Bool
  pa : Nat
  bytes : List (BitVec 8)
  after : Option (Nat × List (BitVec 8))
  deriving DecidableEq, Repr

/-- A translation held in a TLB (R324, R403): partition, address space unless global, first virtual address and size of its
page, the leaf with its place, and the table entries it was filled from with what they held. -/
structure TlbEntry where
  part : Nat
  asid : Option Nat
  page : Nat
  size : Nat
  loc : Nat
  leaf : BitVec 64
  path : List (Nat × BitVec 64)
  deriving DecidableEq, Repr

/-- A pointer entry in a walker's cache (R324, R403): its tags, the level of the node it names, the virtual addresses it serves
divided by their span, the node, and the table entries it was reached through. -/
structure WalkEntry where
  part : Nat
  asid : Nat
  level : Nat
  prefix_ : Nat
  node : Nat
  path : List (Nat × BitVec 64)
  deriving DecidableEq, Repr

/-- A trace in progress on a core (R463), set under the right of context `ctx`. -/
structure TraceState where
  ctx : Nat
  set : TraceSet
  written : Nat
  overflow : Bool
  deriving DecidableEq, Repr

/-- Sampling on a core (R464), set under the right of context `ctx`: the setting, the count of vector instructions, the samples not yet written as header words and, for each lane
group, the elements completed there if it holds any of the instruction's, the bytes written. -/
structure SampleState where
  ctx : Nat
  set : SampleSet
  count : Nat
  due : List (List (BitVec 64))
  written : Nat
  deriving DecidableEq, Repr

/-- A core (R155, R166, R183, R226, R324, R456, R463, R464); a comparator is held with the context under whose right it was
set, `tlb` is its L1 TLB, `l1Bad` the poisoned words of its
L1 data cache (R296). -/
structure Core where
  healthy : BitVec 32
  retire : BitVec 32
  disabled : Bool
  marked : Bool
  unitsOut : List Nat
  unitsMarked : List Nat
  l1 : List L1Store
  tlb : List TlbEntry
  l1Bad : List Nat
  comparators : List (Option (Nat × Comparator))
  trace : Option TraceState
  sample : Option SampleState
  gated : BitVec 4
  corrected : Nat
  uncorrected : Nat
  icacheErrors : Nat
  laneErrors : Table (List Nat)
  networkErrors : Nat
  deriving DecidableEq, Repr

/-- A cluster (R312, R324–R328): retired ways, error counts and the CYCLEs of recent correctable errors by 16·bank + way, the
L2 TLB and the walker's entry cache. -/
structure Cluster where
  waysOut : List Nat
  errors : Table Nat
  recent : Table (List Nat)
  failed : Bool
  tlbErrors : Nat
  tlb : List TlbEntry
  walks : List WalkEntry
  deriving DecidableEq, Repr

/-- An output port of a router (R367): to its neighbours along x and y, to its cluster, onto the ring, and on an IO die to the
homes, the memory-side cache and the fabric links. -/
inductive Port where
  | xUp | xDown | yUp | yDown | cluster | portP | portN | home | cache
  | fabric (i : Nat)
  deriving DecidableEq, Repr

/-- An output port of a router of a die: one hop of a route (R368). Dies 8 to 11 are the IO dies. -/
structure Hop where
  die : Nat
  router : Nat
  port : Port
  deriving DecidableEq, Repr

/-- What a connection serves (R372, R385): the multicasts of a litter's pack by PACKINDEX, or a row's collective by its place in the row's
issue order. -/
inductive ConnOwner where
  | litter (l m index : Nat)
  | collective (p r seq : Nat)
  deriving DecidableEq, Repr

/-- A connection in the slot allocator's copy (R370): from a port to its destination ports, with the slots it holds on its first link;
on link `j` each is `j` higher, mod 64. One with no slots waits for them (R373, R393). -/
structure Conn where
  id : Nat
  owner : ConnOwner
  src : Hop
  dsts : List Hop
  slots : List Nat
  deriving DecidableEq, Repr

/-- A die (R370, R374, R388, R393, R493): SWAPN, its routers' slot tables by 4096·router + 64·port + slot, the partitions in the rotation
of the free slots with their shares, its route set where it is not x
then y (the routers passed, by 8·from + to), the CYCLEs of router errors by 4096·router + entry, failed routers, those a route set
has been installed for, when a resident row last issued. -/
structure Die where
  swapn : Nat
  slots : Table Nat
  rotation : Table Nat
  routes : Table (List Nat)
  routerErrors : Table (List Nat)
  routersFailed : List Nat
  rerouted : List Nat
  lastIssue : Nat
  slowed : Bool
  deriving DecidableEq, Repr

/-! ## Versions, partitions, launches, fabric -/

/-- An old version of a line (R422). -/
structure OldVersion where
  ts : Nat
  bytes : List (BitVec 8)
  poisoned : Bool
  deriving DecidableEq, Repr

/-- A line's head timestamp and old versions, newest first (R422). -/
structure VLine where
  ts : Nat
  chain : List OldVersion
  deriving DecidableEq, Repr

/-- A counted line (R414, R415): its count and what HBM holds of it. -/
structure RcLine where
  count : Nat
  hbm : List (BitVec 8)
  deriving DecidableEq, Repr

/-- An entry of the snapshot table (R426). -/
structure Snapshot where
  time : Nat
  part : Nat
  lid : BitVec 32
  deriving DecidableEq, Repr

/-- TDISP interface states (R476). -/
inductive Tdisp where
  | unlocked | locked | run | error
  deriving DecidableEq, Repr

/-- A partition (R420, R476, R480): `key` is its pair of AES-256 keys, the data key and the tweak key. -/
structure Partition where
  id : Nat
  tdisp : Tdisp
  slotShare : Nat
  snapShare : Nat
  ownerKey : Option (BitVec 256)
  mailbox : Nat
  swapn : Option Nat
  execDigest : Option (BitVec 256)
  key : BitVec 256 × BitVec 256
  deriving DecidableEq, Repr

/-- A launch-queue descriptor's fields as the front end last read them (R377). -/
structure QueueDesc where
  base : Nat
  owner : Bool
  enable : Bool
  log2 : Nat
  deriving DecidableEq, Repr

/-- A context (R481). -/
structure Context where
  num : Nat
  part : Nat
  root : BitVec 64
  haddr : BitVec 48
  kennelBase : BitVec 64
  kennelSize : Nat
  transBase : BitVec 64
  transSize : Nat
  block : Nat
  debugRight : Bool
  queues : List QueueDesc
  deriving DecidableEq, Repr

/-- A launch record as 16 words (R375). -/
abbrev Record := List (BitVec 64)

/-- A record taken from its queue and waiting for its gate (R381). -/
structure Head where
  ctx : Nat
  q : Nat
  rec_ : Record
  lid : BitVec 32
  deriving DecidableEq, Repr

/-- A pack failure, in the order of failing (R391). -/
structure PackFail where
  index : BitVec 32
  code : BitVec 8
  tcause : BitVec 64
  tpc : BitVec 64
  deriving DecidableEq, Repr

/-- A taken launch (R381, R389, R390): its record, the queue it was taken from (R463), packs generated so far, packs ended, failures, litter barriers' CP by
litter, packs ended by the executive before they were generated, whether it was refused and whether it has completed. -/
structure Launch where
  ctx : Nat
  lid : BitVec 32
  rec_ : Record
  queue : Nat
  order : Nat
  nextPack : Nat
  ended : Nat
  fails : List PackFail
  litterCp : Table (List (BitVec 64))
  cut : Nat
  refused : Bool
  completed : Bool
  deriving DecidableEq, Repr

/-- A link (R482, R483, R485): retries, width code, state code, the CYCLEs of recent retries, the sequence number expected next,
tag failures in a row, the flits taken of the group still open, and the credits that its peer has returned. -/
structure Link where
  retries : Nat
  width : BitVec 2
  state : BitVec 2
  recent : List Nat
  seq : Nat
  tagFails : Nat
  group : Nat := 0
  credits : Nat := 0
  deriving DecidableEq, Repr

/-- Whose write leaves over a window, and loses it should it be in flight when the link goes down (R486): a row's, a transfer's, or one
that no pack waits for, of a partition. -/
inductive Sender where
  | row (p r : Nat)
  | copy (p r : Nat) (tid : BitVec 32)
  | other (part : Nat)
  deriving DecidableEq, Repr

/-- What leaves over a fabric window (R421). -/
inductive LinkMsg where
  | write (by_ : Sender) (tdev pa : Nat) (bytes : List (BitVec 8))
  | read (tdev pa n : Nat)
  | atomic (by_ : Sender) (tdev pa : Nat) (f : AmoFn) (w32 : Bool) (b c : BitVec 64)
  | response (tdev pa : Nat) (bytes : List (BitVec 8)) (poisoned : Bool)
  | error (tdev pa : Nat)
  deriving DecidableEq, Repr

/-- A fabric session (R483, R484): the key's number, the groups sent and taken under it, and what waits for the next key. -/
structure Session where
  tdev : Nat
  part : Nat
  route : List Nat
  epoch : Nat
  sent : Nat := 0
  taken : Nat := 0
  waiting : List LinkMsg := []
  deriving DecidableEq, Repr

/-- A response of the firmware (R479): OPCODE and LENGTH, both of them 0 and the payload's own for an answer to no command. -/
structure Response where
  opcode : Nat
  length : Nat
  tag : BitVec 64
  part : Nat
  status : Nat
  payload : List (BitVec 64)
  deriving DecidableEq, Repr

/-- What the host read (R474): the bytes, or poison. -/
structure HostRead where
  pa : Nat
  bytes : List (BitVec 8)
  poisoned : Bool
  deriving DecidableEq, Repr

/-- A native translation in force (R451): context, function start and size, the Adtan bytes it was built from and their digest, the
PATCHID it was built under, the kind of its lines, its place in the translation area, the address map, and the addresses of the
instructions that it leaves to Adtan. -/
structure Built where
  ctx : Nat
  start : BitVec 48
  size : Nat
  text : List (BitVec 8)
  strand : Bool
  code : BitVec 256
  digest : BitVec 256
  dest : Nat
  len : Nat
  map : List (BitVec 48 × BitVec 48)
  exits : List (BitVec 48)
  deriving DecidableEq, Repr

/-- What the hardware does on its own between the events of the opcode table: strand `k`'s registers are sampled for reads
made outside a handler (R113), entry `i` of a core's L1 becomes visible to the core's other agents (R333), the memory-side cache writes a line back or
evicts it (R415, R416), an agent performs a read of memory or of its scratchpad early (R334, R345), goes past its next load without performing
it, performs the oldest that it went past (R334), or begins its next vector instruction with an element (R405), elements of a row's queued vector loads reach its load buffers (R171), the matrix or accumulator instruction at the head of a
row's queue applies some of its tile words (R250), or the security processor takes a command whose opcode is not listed (R480). -/
inductive Engine where
  | sample (p r k : Nat)
  | reveal (core i : Nat)
  | writeBack (line : Nat)
  | early (a : Agent) (base : Option (BitVec 6)) (va : BitVec 64)
  | earlyLocal (a : Agent) (base : BitVec 6) (va : BitVec 64)
  | defer (a : Agent)
  | perform (a : Agent)
  | begin_ (a : Agent) (e : Nat)
  | land (p r : Nat)
  | words (p r : Nat)
  | unlisted (c : Cmd) (opcode : Nat)
  deriving DecidableEq, Repr

/-- Who moves in the next step: a thread, a hardware event or command, or the hardware on its own. -/
inductive Turn where
  | thread (a : Agent)
  | hw (i : Instr)
  | engine (e : Engine)
  deriving DecidableEq, Repr

/-- The state of the package. `voided` holds the partitions, each with a context, whose mailboxes held a debug command when the context's
right was revoked (R465). `turn`, `sched` and `nonce` are the model's own: whose turn it is, the turns that
follow, and the counter that freshens free values. `issuer` and `fetch` latch the thread and the encoding of the
instruction now executing. -/
structure State where
  turn : Turn
  sched : List Turn
  nonce : Nat
  issuer : Agent
  fetch : Fetch
  cycle : Nat
  mem : Memory
  poison : List Nat
  granules : Table Nat
  lines : Table VLine
  cc : Nat
  snapshots : List Snapshot
  storeShare : Nat
  hbm : Table (List (BitVec 8))
  counted : Table RcLine
  failedChannels : List (Nat × Nat)
  channelCounts : Table Nat
  channelErrors : Table (List Nat)
  early : List Early
  cores : List Core
  clusters : List Cluster
  dies : List Die
  conns : List Conn
  nextConn : Nat
  packs : List Pack
  launches : List Launch
  heads : List Head
  served : Table (Nat × Nat)
  nextLid : BitVec 32
  nextPackId : BitVec 32
  nextOrder : Nat
  nextPlace : Nat
  asked : List (Nat × Nat × Nat)
  pendingEnd : List (Nat × BitVec 32)
  copies : List Transfer
  partitions : List Partition
  contexts : List Context
  laneRetire : Nat
  patch : List (BitVec 8)
  patchId : BitVec 256
  built : List Built
  ranAdtan : Table (BitVec 64)
  links : List Link
  sessions : List Session
  linkOut : List LinkMsg
  responses : List Response
  hostReads : List HostRead
  romMeasured : Bool
  partMade : Bool
  ready : Bool
  voided : List (Nat × Nat)
  deriving DecidableEq, Repr

/-! ## Reset -/

/-- A run with nothing in it (R60). -/
def Run.empty : Run := { count := 0, start := 0, cycle := 0, stream := 0, owed := [], owedSr := [] }

/-- A thread at an address, about to begin a run (R60). -/
def Thread.start (pc : BitVec 48) : Thread :=
  { pc := pc, line := none, run := Run.empty, patch := none, waiting := none, begun := [], late := [] }

/-- The latch with nothing fetched. -/
def Fetch.empty : Fetch :=
  { raw := 0, pc := 0, npc := 0, mark := false, adtan := false, sub := false, lastSub := false }

/-- An empty side of an allocation (R225, R229). -/
def Side.empty : Side := { sp := [], spPoison := [], acc := [], accPoison := [], sat := 0 }

/-- Core `c` at package reset (R166). -/
def Core.reset (c : Nat) : Core :=
  { healthy := Config.fuseHealthy c, retire := 0, disabled := Config.fuseDisabled c, marked := false, unitsOut := [],
    unitsMarked := [], l1 := [], tlb := [], l1Bad := [], comparators := List.replicate 8 none, trace := none, sample := none,
    gated := 0, corrected := 0, uncorrected := 0, icacheErrors := 0, laneErrors := [], networkErrors := 0 }

/-- A cluster at package reset. -/
def Cluster.reset : Cluster :=
  { waysOut := [], errors := [], recent := [], failed := false, tlbErrors := 0, tlb := [], walks := [] }

/-- A die at package reset (R388). -/
def Die.reset : Die :=
  { swapn := 2 ^ 20, slots := [], rotation := [], routes := [], routerErrors := [], routersFailed := [], rerouted := [], lastIssue := 0, slowed := false }

/-- A link at package reset: up at eight lanes once the ROM firmware has trained it (R485, R492). -/
def Link.reset : Link := { retries := 0, width := 2, state := 2, recent := [], seq := 0, tagFails := 0 }

/-- The machine right after package reset (R492, R424, R388, R81, R423): no partition, no context, no pack; memory
lists nothing. The first turn is the bring-up itself. -/
def State.reset : State :=
  { turn := .hw .packageReset, sched := [], nonce := 0, issuer := .control 0 0, fetch := Fetch.empty,
    cycle := 0, mem := [], poison := [], granules := [], lines := [], cc := 1,
    snapshots := [], storeShare := 4, hbm := [], counted := [], failedChannels := Config.fuseChannels, channelCounts := [],
    channelErrors := [], early := [],
    cores := (List.range 256).map Core.reset, clusters := List.replicate 64 Cluster.reset,
    dies := List.replicate 12 Die.reset, conns := [], nextConn := 1, packs := [], launches := [], heads := [], served := [],
    nextLid := 1, nextPackId := 0, nextOrder := 0, nextPlace := 0, asked := [], pendingEnd := [], copies := [],
    partitions := [], contexts := [], laneRetire := 16, patch := [], patchId := 0, built := [], ranAdtan := [],
    links := List.replicate 16 Link.reset, sessions := [], linkOut := [], responses := [], hostReads := [],
    romMeasured := false, partMade := false, ready := false, voided := [] }

end Sys2Proof.Machine
end

