-- ==== Sys2Proof/Machine/Num.lean ====
section
/-! DEFINITION. Numbers (R10–R44): the six binary floating-point formats computed on exact integers with one
rounding, log6, integer conversions. -/
namespace Sys2Proof.Machine

/-- A binary floating-point format (R13): exponent and fraction widths, bias, and whether it is E4M3 (R15). -/
structure FFormat where
  ebits : Nat
  fbits : Nat
  bias : Nat
  e4m3 : Bool
  deriving DecidableEq, Repr

def fp64 : FFormat := { ebits := 11, fbits := 52, bias := 1023, e4m3 := false }
def fp32 : FFormat := { ebits := 8, fbits := 23, bias := 127, e4m3 := false }
def fp16 : FFormat := { ebits := 5, fbits := 10, bias := 15, e4m3 := false }
def bf16 : FFormat := { ebits := 8, fbits := 7, bias := 127, e4m3 := false }
def e5m2 : FFormat := { ebits := 5, fbits := 2, bias := 15, e4m3 := false }
def e4m3 : FFormat := { ebits := 4, fbits := 3, bias := 7, e4m3 := true }

/-- The width of a format in bits (R13). -/
def FFormat.width (f : FFormat) : Nat := f.ebits + f.fbits + 1

/-- The sign bit as a number (R13). -/
def FFormat.signBit (f : FFormat) : Nat := 2 ^ (f.ebits + f.fbits)

/-- The encoding of the largest finite magnitude (R13, R15). -/
def FFormat.maxFinite (f : FFormat) : Nat :=
  if f.e4m3 then 0x7E else (2 ^ f.ebits - 1) * 2 ^ f.fbits - 1

/-- The encoding of +infinity (R14); E4M3 has none. -/
def FFormat.infinity (f : FFormat) : Nat := (2 ^ f.ebits - 1) * 2 ^ f.fbits

/-- The canonical NaN (R13, R17). -/
def FFormat.nan (f : FFormat) : Nat :=
  if f.e4m3 then 0x7F else f.infinity + 2 ^ (f.fbits - 1)

/-- A number as an exact value: `fin s m e` is (−1)^s · m · 2^e, with m = 0 a signed zero. -/
inductive Val where
  | nan (signalling : Bool)
  | inf (s : Bool)
  | fin (s : Bool) (m : Nat) (e : Int)
  deriving DecidableEq, Repr

/-- The value an encoding denotes (R13–R16); only the format's low bits are read (R12). -/
def FFormat.unpack (f : FFormat) (bits : Nat) : Val :=
  let s := decide (bits / f.signBit % 2 = 1)
  let ef := bits / 2 ^ f.fbits % 2 ^ f.ebits
  let fr := bits % 2 ^ f.fbits
  if ef = 2 ^ f.ebits - 1 ∧ f.e4m3 = false then
    if fr = 0 then .inf s else .nan (decide (fr < 2 ^ (f.fbits - 1)))
  else if f.e4m3 = true ∧ ef = 2 ^ f.ebits - 1 ∧ fr = 2 ^ f.fbits - 1 then .nan false
  else if ef = 0 then .fin s fr (1 - (f.bias : Int) - f.fbits)
  else .fin s (2 ^ f.fbits + fr) ((ef : Int) - f.bias - f.fbits)

/-- A concrete rounding mode (R19). -/
inductive RMode where
  | rne | rtz | rtp | rtn | rna
  deriving DecidableEq, Repr

/-- The mode of an S field under FPSTATUS.RM (R19, R20). -/
def rmode (s : BitVec 4) (rm : BitVec 3) : RMode :=
  let n := if s = 0 then rm.toNat else s.toNat
  if n = 2 then .rtz else if n = 3 then .rtp else if n = 4 then .rtn else if n = 5 then .rna else .rne

/-- The exception flags, in FPSTATUS order: bit 0 NV, 1 DZ, 2 OF, 3 UF, 4 NX (R25). -/
abbrev Flags := BitVec 5

def flagNV : Flags := 1
def flagDZ : Flags := 2
def flagOF : Flags := 4
def flagUF : Flags := 8
def flagNX : Flags := 16

/-- A flag when a condition holds. -/
def flagIf (c : Bool) (f : Flags) : Flags := if c then f else 0

/-- Whether a mode rounds a magnitude up: its sign, whether the kept integer is odd, and how the discarded part
compares with one half (0: exact, 1: below, 2: equal, 3: above) (R19). -/
def roundsUp (mode : RMode) (s odd : Bool) (part : Nat) : Bool :=
  match mode with
  | .rne => part = 3 || (part = 2 && odd)
  | .rna => part = 3 || part = 2
  | .rtz => false
  | .rtp => part ≠ 0 && !s
  | .rtn => part ≠ 0 && s

/-- The discarded part of `m` below bit `k`, with a sticky bit beneath, against one half. -/
def discarded (m k : Nat) (sticky : Bool) : Nat :=
  let r := 2 * (m % 2 ^ k)
  if r = 0 ∧ sticky = false then 0
  else if r < 2 ^ k then 1
  else if r = 2 ^ k ∧ sticky = false then 2 else 3

/-- `m · 2^e` as a multiple of 2^q rounded to an integer, and whether that was inexact. -/
def roundTo (mode : RMode) (s : Bool) (m : Nat) (e : Int) (sticky : Bool) (q : Int) : Nat × Bool :=
  if q ≤ e then (m * 2 ^ (e - q).toNat, sticky)
  else
    let k := (q - e).toNat
    let part := discarded m k sticky
    let n := m / 2 ^ k
    (if roundsUp mode s (decide (n % 2 = 1)) part then n + 1 else n, decide (part ≠ 0))

/-- The signed encoding of a magnitude. -/
def FFormat.signed (f : FFormat) (s : Bool) (mag : Nat) : Nat := if s then f.signBit + mag else mag

/-- The overflowed result (R21). -/
def FFormat.overflow (f : FFormat) (mode : RMode) (s : Bool) : Nat :=
  if f.e4m3 then f.maxFinite
  else
    match mode with
    | .rne | .rna => f.infinity
    | .rtz => f.maxFinite
    | .rtp => if s then f.maxFinite else f.infinity
    | .rtn => if s then f.infinity else f.maxFinite

/-- Round (−1)^s · m · 2^e, with a sticky bit beneath m, to a format (R20–R22). A zero keeps its sign. A caller that
passes a sticky bit gives m at least fbits + 3 bits. -/
def FFormat.round (f : FFormat) (mode : RMode) (s : Bool) (m : Nat) (e : Int) (sticky : Bool) : Nat × Flags :=
  if m = 0 then (f.signed s 0, 0)
  else
    let top : Int := e + Nat.log2 m
    let emin : Int := 1 - (f.bias : Int)
    let q : Int := (if top < emin then emin else top) - f.fbits
    let (k, inexact) := roundTo mode s m e sticky q
    let mag := k + (q - (emin - f.fbits)).toNat * 2 ^ f.fbits
    if mag > f.maxFinite then (f.signed s (f.overflow mode s), flagOF ||| flagNX)
    else
      let unb := (roundTo mode s m e sticky (top - f.fbits)).1
      let tiny := decide (top < emin) && !(decide (top = emin - 1) && decide (unb = 2 ^ (f.fbits + 1)))
      (f.signed s mag, flagIf (tiny && inexact) flagUF ||| flagIf inexact flagNX)

/-- Whether a value is a signalling NaN (R18). -/
def Val.sig : Val → Bool
  | .nan b => b
  | _ => false

/-- Whether a value is a NaN. -/
def Val.isNan : Val → Bool
  | .nan _ => true
  | _ => false

/-- The negated value. -/
def Val.neg : Val → Val
  | .nan b => .nan b
  | .inf s => .inf (!s)
  | .fin s m e => .fin (!s) m e

/-- The canonical NaN with invalid when `nv` (R17, R22). -/
def FFormat.nanWith (f : FFormat) (nv : Bool) : Nat × Flags := (f.nan, flagIf nv flagNV)

/-- A signed exact mantissa. -/
def sgn (s : Bool) (m : Nat) : Int := if s then -(m : Int) else m

/-- The exact sum of two finite values as mantissa and exponent. -/
def sumExact (s1 : Bool) (m1 : Nat) (e1 : Int) (s2 : Bool) (m2 : Nat) (e2 : Int) : Int × Int :=
  let e := if e1 ≤ e2 then e1 else e2
  (sgn s1 m1 * 2 ^ (e1 - e).toNat + sgn s2 m2 * 2 ^ (e2 - e).toNat, e)

/-- The sign of an exact zero sum (R147): −0 under RTN, unless both terms are zeros of one sign. -/
def zeroSign (mode : RMode) (z1 s1 z2 s2 : Bool) : Bool :=
  if z1 && z2 && s1 == s2 then s1 else decide (mode = .rtn)

/-- The rounded sum of two values (R20–R22). -/
def FFormat.addVal (f : FFormat) (mode : RMode) (a b : Val) : Nat × Flags :=
  match a, b with
  | .nan x, y => f.nanWith (x || y.sig)
  | x, .nan y => f.nanWith (y || x.sig)
  | .inf s1, .inf s2 => if s1 = s2 then (f.signed s1 f.infinity, 0) else f.nanWith true
  | .inf s, .fin .. => (f.signed s f.infinity, 0)
  | .fin .., .inf s => (f.signed s f.infinity, 0)
  | .fin s1 m1 e1, .fin s2 m2 e2 =>
    let (m, e) := sumExact s1 m1 e1 s2 m2 e2
    if m = 0 then (f.signed (zeroSign mode (decide (m1 = 0)) s1 (decide (m2 = 0)) s2) 0, 0)
    else f.round mode (decide (m < 0)) m.natAbs e false

/-- The exact product of two values; a NaN for 0 × infinity (R22). -/
def mulVal (a b : Val) : Val :=
  match a, b with
  | .nan x, y => .nan (x || y.sig)
  | x, .nan y => .nan (y || x.sig)
  | .inf s1, .inf s2 => .inf (s1 != s2)
  | .inf s1, .fin s2 m _ => if m = 0 then .nan true else .inf (s1 != s2)
  | .fin s1 m _, .inf s2 => if m = 0 then .nan true else .inf (s1 != s2)
  | .fin s1 m1 e1, .fin s2 m2 e2 => .fin (s1 != s2) (m1 * m2) (e1 + e2)

/-- Round an exact value (R20, R29). An infinity becomes E4M3's NaN with invalid (R29). -/
def FFormat.roundVal (f : FFormat) (mode : RMode) (v : Val) : Nat × Flags :=
  match v with
  | .nan x => f.nanWith x
  | .inf s => if f.e4m3 then f.nanWith true else (f.signed s f.infinity, 0)
  | .fin s m e => f.round mode s m e false

/-- The rounded quotient (R22, R146). -/
def FFormat.divVal (f : FFormat) (mode : RMode) (a b : Val) : Nat × Flags :=
  match a, b with
  | .nan x, y => f.nanWith (x || y.sig)
  | x, .nan y => f.nanWith (y || x.sig)
  | .inf _, .inf _ => f.nanWith true
  | .inf s1, .fin s2 _ _ => (f.signed (s1 != s2) f.infinity, 0)
  | .fin s1 _ _, .inf s2 => (f.signed (s1 != s2) 0, 0)
  | .fin s1 m1 e1, .fin s2 m2 e2 =>
    if m2 = 0 then (if m1 = 0 then f.nanWith true else (f.signed (s1 != s2) f.infinity, flagDZ))
    else if m1 = 0 then (f.signed (s1 != s2) 0, 0)
    else
      let k := f.fbits + 4 + Nat.log2 m2
      let n := m1 * 2 ^ k
      f.round mode (s1 != s2) (n / m2) (e1 - e2 - k) (decide (n % m2 ≠ 0))

/-- The integer square root: the largest r < 2^n with r² ≤ x, by bits. -/
def isqrt (x : Nat) : Nat → Nat → Nat
  | 0, r => r
  | n + 1, r => if (r + 2 ^ n) * (r + 2 ^ n) ≤ x then isqrt x n (r + 2 ^ n) else isqrt x n r

/-- The rounded square root (R22, R146). -/
def FFormat.sqrtVal (f : FFormat) (mode : RMode) (a : Val) : Nat × Flags :=
  match a with
  | .nan x => f.nanWith x
  | .inf s => if s then f.nanWith true else (f.infinity, 0)
  | .fin s m e =>
    if m = 0 then (f.signed s 0, 0)
    else if s then f.nanWith true
    else
      let k0 := 2 * f.fbits + 8
      let k := if (e - k0) % 2 = 0 then k0 else k0 + 1
      let n := m * 2 ^ k
      let r := isqrt n (Nat.log2 n / 2 + 1) 0
      f.round mode false r ((e - k) / 2) (decide (r * r ≠ n))

/-- The fused multiply-add of exact operands, rounded once (R147): a product 0 × infinity is invalid whatever the
addend. -/
def FFormat.fmaVal (f : FFormat) (mode : RMode) (a b c : Val) : Nat × Flags :=
  match mulVal a b with
  | .nan x => f.nanWith (x || c.sig)
  | p => f.addVal mode p c

/-- Whether x < y for non-NaN values, zeros compared as equal. -/
def Val.less : Val → Val → Bool
  | .inf s1, .inf s2 => s1 && !s2
  | .inf s1, .fin .. => s1
  | .fin .., .inf s2 => !s2
  | .fin s1 m1 e1, .fin s2 m2 e2 => decide ((sumExact s1 m1 e1 (!s2) m2 e2).1 < 0)
  | _, _ => false

/-- Whether x = y for non-NaN values, with −0 equal to +0 (R24). -/
def Val.same (a b : Val) : Bool := !a.isNan && !b.isNan && !a.less b && !b.less a

/-- The sign of a value (R13). -/
def Val.sign : Val → Bool
  | .nan _ => false
  | .inf s => s
  | .fin s _ _ => s

/-- Minimum or maximum of two encodings (R23): −0 below +0, a lone NaN gives way, two give the canonical NaN. -/
def FFormat.minMax (f : FFormat) (max : Bool) (a b : Nat) : Nat × Flags :=
  let x := f.unpack a
  let y := f.unpack b
  let nv := flagIf (x.sig || y.sig) flagNV
  let a' := a % 2 ^ f.width
  let b' := b % 2 ^ f.width
  if x.isNan then (if y.isNan then f.nan else b', nv)
  else if y.isNan then (a', nv)
  else
    let lower := x.less y || (x.same y && x.sign && !y.sign)
    (if lower == max then b' else a', nv)

/-- Clear or flip the sign bit of an encoding, payload kept (R18). -/
def FFormat.absBits (f : FFormat) (a : Nat) : Nat := a % f.signBit
def FFormat.negBits (f : FFormat) (a : Nat) : Nat :=
  let m := a % 2 ^ f.width
  if m < f.signBit then m + f.signBit else m - f.signBit

/-- The two-operand float functions (R146, R201). -/
def FFormat.bin (f : FFormat) (fn : FBinFn) (mode : RMode) (a b : Nat) : Nat × Flags :=
  match fn with
  | .add => f.addVal mode (f.unpack a) (f.unpack b)
  | .sub =>
    match f.unpack b with
    | .nan x => f.addVal mode (f.unpack a) (.nan x)
    | v => f.addVal mode (f.unpack a) v.neg
  | .mul => f.roundVal mode (mulVal (f.unpack a) (f.unpack b))
  | .div => f.divVal mode (f.unpack a) (f.unpack b)
  | .min => f.minMax false a b
  | .max => f.minMax true a b

/-- The one-operand float functions (R146, R201). -/
def FFormat.un (f : FFormat) (fn : FUnFn) (mode : RMode) (a : Nat) : Nat × Flags :=
  match fn with
  | .sqrt => f.sqrtVal mode (f.unpack a)
  | .abs => (f.absBits a, 0)
  | .neg => (f.negBits a, 0)

/-- The fused forms (R147): fms negates the addend, fnma the product. -/
def FFormat.fused (f : FFormat) (fn : FmaFn) (mode : RMode) (a b c : Nat) : Nat × Flags :=
  let x := f.unpack a
  let y := f.unpack b
  let z := f.unpack c
  match fn with
  | .fma => f.fmaVal mode x y z
  | .fms => f.fmaVal mode x y z.neg
  | .fnma => f.fmaVal mode x.neg y z

/-- The float compares with their invalid flag (R24). -/
def FFormat.cmp (f : FFormat) (fn : FCmpFn) (a b : Nat) : Bool × Flags :=
  let x := f.unpack a
  let y := f.unpack b
  let anyNan := x.isNan || y.isNan
  let sig := flagIf (x.sig || y.sig) flagNV
  match fn with
  | .eq => (x.same y, sig)
  | .lt => (!anyNan && x.less y, flagIf anyNan flagNV)
  | .le => (!anyNan && (x.less y || x.same y), flagIf anyNan flagNV)
  | .unord => (anyNan, sig)

/-- Round a finite value to an integer (R28). -/
def roundInt (mode : RMode) (s : Bool) (m : Nat) (e : Int) : Int × Bool :=
  let (k, inexact) := roundTo mode s m e false 0
  (sgn s k, inexact)

/-- Float to i64 (R28). -/
def toI64 (mode : RMode) (v : Val) : Nat × Flags :=
  match v with
  | .nan _ => (0, flagNV)
  | .inf s => (if s then 0x8000000000000000 else 0x7FFFFFFFFFFFFFFF, flagNV)
  | .fin s m e =>
    let (k, inexact) := roundInt mode s m e
    if k > 0x7FFFFFFFFFFFFFFF then (0x7FFFFFFFFFFFFFFF, flagNV)
    else if k < -0x8000000000000000 then (0x8000000000000000, flagNV)
    else ((BitVec.ofInt 64 k).toNat, flagIf inexact flagNX)

/-- An exact integer as a value. -/
def Val.ofInt (k : Int) : Val := .fin (decide (k < 0)) k.natAbs 0

/-! ## log6 -/

/-- The FP32 fraction of each column of R34: L ≡ 1, 2, 3, 0 (mod 4). -/
def lgColumn (c : Nat) : Nat :=
  if c = 0 then 0x0B95C2 else if c = 1 then 0x25FED7 else if c = 2 then 0x45672B else 0x6AC0C7

/-- The smallest FP32 magnitude that converts to L = n − 15 (R34). -/
def lgEntry (n : Nat) : Nat := (123 + n / 4) * 2 ^ 23 + lgColumn (n % 4)

/-- How many of the first `n` entries of R34 are at or below a magnitude. -/
def lgCount (b : Nat) : Nat → Nat
  | 0 => 0
  | n + 1 => lgCount b n + (if lgEntry n ≤ b then 1 else 0)

/-- A log6 code from its sign and L + 16 (R30). -/
def lgCode (s : Bool) (l16 : Nat) : Nat := (l16 + 16) % 32 + (if s then 32 else 0)

/-- FP32 to log6 (R33, R34). -/
def lgOfF32 (bits : Nat) : Nat × Flags :=
  let b := bits % 2 ^ 31
  let s := decide (bits / 2 ^ 31 % 2 = 1)
  match fp32.unpack bits with
  | .nan x => (0x30, flagIf x flagNV)
  | .inf s => (lgCode s 31, flagNV)
  | .fin .. =>
    if b = 0 then (0x10, 0)
    else
      let n := lgCount b 31
      if n = 0 then (0x10, flagUF ||| flagNX)
      else if lgEntry 31 ≤ b then (lgCode s 31, flagOF ||| flagNX)
      else
        let exact := decide (b % 2 ^ 23 = 0 ∧ 124 ≤ b / 2 ^ 23 ∧ b / 2 ^ 23 ≤ 130)
        (lgCode s n, flagIf (!exact) flagNX)

/-- L + 16 of a code: its low five bits as a two's-complement number (R30). -/
def lgL16 (code : Nat) : Nat := (code % 32 + 16) % 32

/-- The FP32 fraction of 2^(f/4), rounded down or up in magnitude, or to nearest (R35). -/
def lgFraction (f : Nat) (mode : RMode) (s : Bool) : Nat :=
  let down := decide (mode = .rtz) || (decide (mode = .rtp) && s) || (decide (mode = .rtn) && !s)
  let near := decide (mode = .rne) || decide (mode = .rna)
  if f = 0 then 0
  else if f = 1 then (if near || down then 0x1837F0 else 0x1837F1)
  else if f = 2 then (if near || down then 0x3504F3 else 0x3504F4)
  else (if near then 0x5744FD else if down then 0x5744FC else 0x5744FD)

/-- log6 to FP32 (R35). -/
def f32OfLg (mode : RMode) (code : Nat) : Nat × Flags :=
  let c := code % 64
  if c = 0x10 then (0, 0)
  else if c = 0x30 then (fp32.nan, 0)
  else
    let s := decide (32 ≤ c)
    let n := lgL16 c
    let f := n % 4
    (fp32.signed s ((123 + n / 4) * 2 ^ 23 + lgFraction f mode s), flagIf (decide (f ≠ 0)) flagNX)

/-- T of R36 in units of 1/128. -/
def lgT (f : Nat) : Nat := if f = 0 then 128 else if f = 1 then 152 else if f = 2 then 181 else 215

/-- One log6 product in units of 2^−15 (R36, R37); none for NaR. -/
def lgProduct (a b : Nat) : Option Int :=
  let a := a % 64
  let b := b % 64
  if a = 0x30 ∨ b = 0x30 then none
  else if a = 0x10 ∨ b = 0x10 then some 0
  else
    let lp := lgL16 a + lgL16 b
    some (sgn (decide (32 ≤ a) != decide (32 ≤ b)) (lgT (lp % 4) * 2 ^ (lp / 4)))

/-- log6 code of an exact finite value by the log-domain boundaries 2^((2L−1)/8), compared exactly (R33, R267). -/
def lgCountExact (m : Nat) (e : Int) : Nat → Nat
  | 0 => 0
  | n + 1 =>
    let k : Int := 2 * ((n : Int) - 15) - 1 - 8 * e
    lgCountExact m e n + (if (if k < 0 then 1 else 2 ^ k.toNat) ≤ (if k < 0 then m ^ 8 * 2 ^ (-k).toNat else m ^ 8) then 1 else 0)

/-! ## Conversions (R149, R28, R29, R33, R35) -/

/-- One conversion of R149: source bits to result bits (zero-extended, R12) and flags. -/
def convert (fn : ConvFn) (mode : RMode) (a : Nat) : Nat × Flags :=
  match fn with
  | .f64F32 => fp64.roundVal mode (fp32.unpack a)
  | .f32F64 => fp32.roundVal mode (fp64.unpack a)
  | .f32I64 => fp32.roundVal mode (.ofInt (BitVec.ofNat 64 a).toInt)
  | .i64F32 => toI64 mode (fp32.unpack a)
  | .f64I64 => fp64.roundVal mode (.ofInt (BitVec.ofNat 64 a).toInt)
  | .i64F64 => toI64 mode (fp64.unpack a)
  | .bf16F32 => bf16.roundVal mode (fp32.unpack a)
  | .f32Bf16 => fp32.roundVal mode (bf16.unpack a)
  | .fp16F32 => fp16.roundVal mode (fp32.unpack a)
  | .f32Fp16 => fp32.roundVal mode (fp16.unpack a)
  | .e4m3F32 => e4m3.roundVal mode (fp32.unpack a)
  | .f32E4m3 => fp32.roundVal mode (e4m3.unpack a)
  | .e5m2F32 => e5m2.roundVal mode (fp32.unpack a)
  | .f32E5m2 => fp32.roundVal mode (e5m2.unpack a)
  | .lgF32 => lgOfF32 a
  | .f32Lg => f32OfLg mode a

/-! ## Matrix accumulation (R38–R40) -/

/-- The sum of one group of products (R39): a NaN, an infinity, or an exact finite sum with the sign of its zero. -/
inductive GroupSum where
  | nan
  | inf (s : Bool)
  | fin (m : Int) (e : Int) (allNegZero : Bool)
  deriving DecidableEq, Repr

/-- Add one exact product to a group's sum (R39). -/
def GroupSum.add : GroupSum → Val → GroupSum
  | .nan, _ => .nan
  | _, .nan _ => .nan
  | .inf s, .inf t => if s = t then .inf s else .nan
  | .inf s, .fin .. => .inf s
  | .fin .., .inf t => .inf t
  | .fin m e z, .fin s m2 e2 =>
    let lo := if e ≤ e2 then e else e2
    .fin (m * 2 ^ (e - lo).toNat + sgn s m2 * 2 ^ (e2 - lo).toNat) lo (z && s && decide (m2 = 0))

/-- The group's sum as a value. -/
def GroupSum.val : GroupSum → Val
  | .nan => .nan false
  | .inf s => .inf s
  | .fin m e z => .fin (if m = 0 then z else decide (m < 0)) m.natAbs e

/-- One group added to an FP32 accumulator word with one rounding (R39); products of the group's present pairs. -/
def accGroup (acc : Nat) (products : List Val) : Nat :=
  match products with
  | [] => acc
  | _ =>
    let sum := products.foldl GroupSum.add (.fin 0 0 true)
    (fp32.addVal .rne (fp32.unpack acc) sum.val).1

/-- The element format of a float matrix type (R252). -/
def MatType.format : MatType → FFormat
  | .bf16 => Machine.bf16 | .fp16 => Machine.fp16 | .e4m3 => Machine.e4m3 | .e5m2 => Machine.e5m2
  | .i8 => fp32 | .log6 => fp32

/-- One accumulator update by float pairs (R39): present pairs with their absolute k, in four groups of 16. -/
def accFloat (ta tb : MatType) (acc : BitVec 32) (pairs : List (Nat × Nat × Nat)) : BitVec 32 :=
  BitVec.ofNat 32 <| (List.range 4).foldl (fun a j =>
    accGroup a ((pairs.filter fun t => t.1 / 16 = j).map fun t =>
      mulVal (ta.format.unpack t.2.1) (tb.format.unpack t.2.2))) acc.toNat

/-- One accumulator update by i8 pairs (R40). -/
def accI8 (acc : BitVec 32) (pairs : List (Nat × Nat × Nat)) : BitVec 32 :=
  pairs.foldl (fun a t => a + BitVec.ofInt 32 ((BitVec.ofNat 8 t.2.1).toInt * (BitVec.ofNat 8 t.2.2).toInt)) acc

/-- One accumulator update by log6 pairs, and whether it saturated (R38). -/
def accLog6 (acc : BitVec 32) (pairs : List (Nat × Nat × Nat)) : BitVec 32 × Bool :=
  let step : Option Int → Nat × Nat × Nat → Option Int := fun s t =>
    match s, lgProduct t.2.1 t.2.2 with
    | some x, some p => some (x + p)
    | _, _ => none
  match pairs.foldl step (if acc = 0x80000000 then none else some acc.toInt) with
  | none => (0x80000000, false)
  | some s =>
    if s > 0x7FFFFFFF then (0x7FFFFFFF, true)
    else if s < -0x7FFFFFFF then (0x80000001, true)
    else (BitVec.ofInt 32 s, false)

/-- One accumulator update (R255), and whether SAT is set. -/
def accUpdate (ta tb : MatType) (acc : BitVec 32) (pairs : List (Nat × Nat × Nat)) : BitVec 32 × Bool :=
  match ta with
  | .i8 => (accI8 acc pairs, false)
  | .log6 => accLog6 acc pairs
  | _ => (accFloat ta tb acc pairs, false)

/-! ## zcvt (R267) -/

/-- The exact value of an accumulator word under a source kind (R37, R267): 0 f32, 1 i32, 2 fix. -/
def accVal (src : Nat) (w : BitVec 32) : Val :=
  if src = 0 then fp32.unpack w.toNat
  else if src = 1 then .ofInt w.toInt
  else if w = 0x80000000 then .nan false
  else .fin (decide (w.toInt < 0)) w.toInt.natAbs (-15)

/-- Bytes per element of a zcvt target (R227, R267). -/
def zcvtSize (tgt : Nat) : Nat := if tgt ≤ 1 then 2 else if tgt = 6 then 4 else 1

/-- One element of a converted tile (R267). -/
def zcvtWord (src tgt : Nat) (w : BitVec 32) : Nat :=
  let v := accVal src w
  let fl : FFormat → Nat := fun f =>
    match v with
    | .fin s m e => (f.round .rne (if m = 0 then s && decide (src = 0) else s) m e false).1
    | _ => (f.roundVal .rne v).1
  if tgt = 0 then fl bf16
  else if tgt = 1 then fl fp16
  else if tgt = 2 then fl e4m3
  else if tgt = 3 then fl e5m2
  else if tgt = 6 then fl fp32
  else if tgt = 4 then
    match v with
    | .nan _ => 127
    | .inf s => if s then 128 else 127
    | .fin s m e =>
      let k := (roundInt .rne s m e).1
      (BitVec.ofInt 8 (if k > 127 then 127 else if k < -128 then -128 else k)).toNat
  else
    match v with
    | .nan _ => 0x30
    | .inf s => lgCode s 31
    | .fin s m e =>
      if m = 0 then 0x10
      else
        let n := lgCountExact m e 31
        if n = 0 then 0x10 else lgCode s n

/-! ## Reductions (R41–R44) -/

/-- Sum in ascending order from an initial value, with flags (R42). -/
def orderedSum (f : FFormat) (init : Nat) (elems : List Nat) : Nat × Flags :=
  elems.foldl (fun a x =>
    let (r, fl) := f.addVal .rne (f.unpack a.1) (f.unpack x)
    (r, a.2 ||| fl)) (init % 2 ^ f.width, 0)

/-- One level of the tree of R43. -/
def treeLevel (f : FFormat) : List (Option Nat) → List (Option Nat) × Flags
  | [] => ([], 0)
  | [a] => ([a], 0)
  | a :: b :: rest =>
    let (tail, fl) := treeLevel f rest
    match a, b with
    | none, b => (b :: tail, fl)
    | a, none => (a :: tail, fl)
    | some x, some y =>
      let (r, g) := f.addVal .rne (f.unpack x) (f.unpack y)
      (some r :: tail, fl ||| g)

/-- The levels of the tree until one node is left (R43). -/
def treeSum (f : FFormat) : Nat → List (Option Nat) → Option Nat × Flags
  | 0, l => (l.headD none, 0)
  | n + 1, l =>
    if l.length ≤ 1 then (l.headD none, 0)
    else
      let (l', fl) := treeLevel f l
      let (r, g) := treeSum f n l'
      (r, fl ||| g)

/-- The float reductions (R42–R44) over present elements; absent ones are none. -/
def floatReduce (f : FFormat) (fn : FRedFn) (init : Nat) (elems : List (Option Nat)) : Nat × Flags :=
  let present := elems.filterMap id
  let init := init % 2 ^ f.width
  match fn with
  | .ordered => orderedSum f init present
  | .tree =>
    match treeSum f 14 elems with
    | (none, _) => (init, 0)
    | (some t, fl) =>
      let (r, g) := f.addVal .rne (f.unpack init) (f.unpack t)
      (r, fl ||| g)
  | .max | .min =>
    present.foldl (fun a x =>
      let (r, fl) := f.minMax (decide (fn = .max)) a.1 x
      (r, a.2 ||| fl)) (init, 0)

end Sys2Proof.Machine
end

