-- ==== Sys2Proof/Machine/Store.lean ====
section
/-! DEFINITION. Access to the parts of the state: sparse memories and tables, packs, rows, strands, cores, and the
replacement of each. -/
namespace Sys2Proof.Machine

/-! ## Sparse memory -/

/-- The byte at an address; an unlisted byte reads 0 (R420, R225). -/
def memRead : Memory → Nat → BitVec 8
  | [], _ => 0
  | (k, v) :: r, a => if a = k then v else if a < k then 0 else memRead r a

/-- Write one byte, keeping the canonical form. -/
def memWrite : Memory → Nat → BitVec 8 → Memory
  | [], a, v => if v = 0 then [] else [(a, v)]
  | (k, w) :: r, a, v =>
    if a < k then (if v = 0 then (k, w) :: r else (a, v) :: (k, w) :: r)
    else if a = k then (if v = 0 then r else (a, v) :: r)
    else (k, w) :: memWrite r a v

/-- Every listed address is above `lo`, addresses rise, no listed byte is 0. -/
def memWfFrom : Nat → Memory → Bool
  | _, [] => true
  | lo, (k, v) :: r => decide (lo ≤ k) && decide (v ≠ 0) && memWfFrom (k + 1) r

/-- The canonical form: strictly rising addresses, no entry equal to the 0 an unlisted address reads as. -/
def Memory.wf (m : Memory) : Bool := memWfFrom 0 m

/-- `n` bytes from an address, lowest first. -/
def memBytes (m : Memory) (a n : Nat) : List (BitVec 8) := (List.range n).map fun i => memRead m (a + i)

/-- Write bytes from an address upward. -/
def memPut : Memory → Nat → List (BitVec 8) → Memory
  | m, _, [] => m
  | m, a, b :: r => memPut (memWrite m a b) (a + 1) r

/-- The little-endian number of a byte list (R3). -/
def leNat : List (BitVec 8) → Nat
  | [] => 0
  | b :: r => b.toNat + 256 * leNat r

/-- The `n` little-endian bytes of a number (R3). -/
def leBytes : Nat → Nat → List (BitVec 8)
  | 0, _ => []
  | n + 1, v => BitVec.ofNat 8 v :: leBytes n (v / 256)

/-- The little-endian word of a byte list. -/
def leWord (l : List (BitVec 8)) : BitVec 64 := BitVec.ofNat 64 (leNat l)

/-! ## Tables -/

/-- The entry at a key. -/
def tget {α : Type} : Table α → Nat → Option α
  | [], _ => none
  | (k, v) :: r, a => if a = k then some v else tget r a

/-- Set the entry at a key, keys rising. -/
def tset {α : Type} : Table α → Nat → α → Table α
  | [], a, v => [(a, v)]
  | (k, w) :: r, a, v =>
    if a < k then (a, v) :: (k, w) :: r else if a = k then (a, v) :: r else (k, w) :: tset r a v

/-- Remove the entry at a key. -/
def tdel {α : Type} (t : Table α) (a : Nat) : Table α := t.filter fun x => x.1 ≠ a

/-- Insert a number into a rising list without repeats. -/
def setIns : List Nat → Nat → List Nat
  | [], a => [a]
  | k :: r, a => if a < k then a :: k :: r else if a = k then k :: r else k :: setIns r a

/-- Remove a number from a rising list. -/
def setDel (l : List Nat) (a : Nat) : List Nat := l.filter fun k => k ≠ a

/-! ## Parts of the state -/

/-- The copy registers with every X field at a free value (R4, R230); `n` and `slot` name the free values. -/
def CopyRegs.placed (n slot : Nat) : CopyRegs :=
  let w := fun k => Config.freeWord n (slot + k)
  { src := w 0, dst := w 1, rows := (w 2).setWidth 16, cols := (w 3).setWidth 16,
    sstride := (w 4).setWidth 32, dstride := (w 5).setWidth 32, aring := (w 6).setWidth 3,
    arr := (w 7).getLsbD 0, rc := (w 8).setWidth 8, mfmt := (w 9).setWidth 2, esize := (w 10).setWidth 2,
    dir := (w 11).setWidth 3, tl := 0, inc := 0, gate := 0, gval := 0 }

/-- An IDLE strand with clear registers (R101 PLACE, R157). -/
def Strand.idle : Strand :=
  { thread := Thread.start 0, leash := 0, g := Vector.replicate 64 0, p := Vector.replicate 32 0, md := 0,
    state := .idle, idem := false, cause := 0, fval := 0, pend := false, qblk := false, skip := false,
    group := 0, flags := 0, sample := { pc := 0, leash := 0, word := 0 }, bad := [] }

/-- A row as first placed (R157, R160, R161, R184, R281, R384): thread at `entry`, `s` strands, the identity and
context values placement writes. -/
def Row.placed (entry : BitVec 48) (s : Nat) (w : Width) (haddr : BitVec 48) (foreign right : Bool)
    (context n slot : Nat) : Row :=
  { thread := Thread.start entry, x := Vector.replicate 32 0, p := Vector.replicate 32 0,
    strands := List.replicate s Strand.idle, nextGroup := 0,
    q0 := List.replicate (s + 1) [], q1 := List.replicate (s + 1) [],
    status := { runlong := false, saoff := false, cmode := .user, pmode := .user, intrap := false },
    trap := { cause := 0, nest := false, mcovf := false, pc := 0, val := 0, elem := 0 },
    vstart := 0, vl := 0, vtype := { bs := false, g := 0, ew := 0 }, width := w,
    rowmask := BitVec.ofNat 64 (2 ^ w.grant.toNat - 1),
    fp := { excsel := 7, flags := 0, rm := 1 }, snap := 0, txstart := 0, haddr := haddr &&& ~~~1#48, scratch := 0,
    copy := CopyRegs.placed n slot, copyErr := { tid := 0, valid := false, cause := 0 }, nextTid := 1,
    strandsel := 0, mode := { foreign := foreign, ilkset := false, now := foreign },
    preempt := { tforce := 100, park := false, forced := false, req := false },
    dbg := { halted := false, catch_ := false, right := right },
    bpSkip := [], stopped := false, life := .live, vq := [], issueSeq := 0, posts := [], ringArr := [],
    barArr := [], gens := List.replicate 8 0, ap := List.replicate 16 0, barSync := none, recorded := none,
    edits := [], debugWrites := [], mcheck := none, tx := none, history := [], histSeq := 0,
    summary := { runs := 0, instrs := 0, vectors := 0, waits := 0 }, context := context, ids := [], bad := [] }

/-- The row read where the state holds none. -/
def Row.none : Row :=
  Row.placed 0 0 { braced := false, req := 0, grant := 0 } 0 false false 0 0 0

/-- The pack read where the state holds none. -/
def Pack.none : Pack :=
  { life := .ended, packId := 0, launch := 0, index := 0, ctx := 0, part := 0, core := 0, braced := false,
    base := 0, units := 0, tiles := 0, ringCount := 0, prio := 0, kaddr := 0, ksize := 0, lead := Side.empty,
    foll := Side.empty, rings := List.replicate 8 Option.none, ringEdits := [], latch := Option.none,
    cp := List.replicate 8 0, rows := [], placedAt := 0, saved := Option.none,
    swapping := false, swapped := Option.none, ospec := Option.none, started := false }

/-- The context read where the state holds none. -/
def Context.none : Context :=
  { num := 0, part := 0, root := 0, haddr := 0, kennelBase := 0, kennelSize := 0, transBase := 0,
    transSize := 0, block := 0, debugRight := false, queues := [] }

/-- The launch read where the state holds none. -/
def Launch.none : Launch :=
  { ctx := 0, lid := 0, rec_ := [], queue := 0, order := 0, nextPack := 0, ended := 0, fails := [], litterCp := [],
    cut := 0, refused := true, completed := true }

def State.pack (s : State) (p : Nat) : Pack := s.packs.getD p Pack.none
def State.modPack (s : State) (p : Nat) (f : Pack → Pack) : State := { s with packs := s.packs.modify p f }
def State.row (s : State) (p r : Nat) : Row := (s.pack p).rows.getD r Row.none
def State.modRow (s : State) (p r : Nat) (f : Row → Row) : State :=
  s.modPack p fun k => { k with rows := k.rows.modify r f }
def State.strand (s : State) (p r k : Nat) : Strand := (s.row p r).strands.getD k Strand.idle
def State.modStrand (s : State) (p r k : Nat) (f : Strand → Strand) : State :=
  s.modRow p r fun w => { w with strands := w.strands.modify k f }
def State.core (s : State) (c : Nat) : Core := s.cores.getD c (Core.reset c)
def State.modCore (s : State) (c : Nat) (f : Core → Core) : State := { s with cores := s.cores.modify c f }
def State.modCluster (s : State) (c : Nat) (f : Cluster → Cluster) : State :=
  { s with clusters := s.clusters.modify c f }
def State.modDie (s : State) (d : Nat) (f : Die → Die) : State := { s with dies := s.dies.modify d f }
/-- Early reads that are none of the agent's any more (R334). -/
def State.forget (s : State) (f : Early → Bool) : State := { s with early := s.early.filter fun e => !f e }
def State.launch (s : State) (l : Nat) : Launch := s.launches.getD l Launch.none
def State.modLaunch (s : State) (l : Nat) (f : Launch → Launch) : State :=
  { s with launches := s.launches.modify l f }

/-- The context with a number, and the partition with one. -/
def State.ctxOf (s : State) (c : Nat) : Option Context := s.contexts.find? fun x => decide (x.num = c)
def State.context (s : State) (c : Nat) : Context := (s.ctxOf c).getD Context.none
def State.partOf (s : State) (p : Nat) : Option Partition := s.partitions.find? fun x => decide (x.id = p)
def State.modPart (s : State) (p : Nat) (f : Partition → Partition) : State :=
  { s with partitions := s.partitions.map fun x => if x.id = p then f x else x }

/-! ## Agents -/

end Sys2Proof.Machine

namespace Sys2Proof

/-- The pack and row an agent belongs to. -/
def Agent.pr : Agent → Nat × Nat
  | .control p r => (p, r)
  | .strand p r _ => (p, r)

end Sys2Proof

namespace Sys2Proof.Machine

/-- The thread of an agent. -/
def State.thread (s : State) : Agent → Thread
  | .control p r => (s.row p r).thread
  | .strand p r k => (s.strand p r k).thread

def State.modThread (s : State) (a : Agent) (f : Thread → Thread) : State :=
  match a with
  | .control p r => s.modRow p r fun w => { w with thread := f w.thread }
  | .strand p r k => s.modStrand p r k fun t => { t with thread := f t.thread }

/-- The core an agent runs on (R180): a follower strand's is the leader's neighbour. -/
def State.coreOf (s : State) (a : Agent) : Nat :=
  match a with
  | .control p _ => (s.pack p).core
  | .strand p r k => if k < (s.row p r).width.grant.toNat then (s.pack p).core else (s.pack p).core + 1

/-- Whether an agent's accesses are user-mode ones (R277, R401). -/
def State.userMode (s : State) (a : Agent) : Bool :=
  match a with
  | .control p r => decide ((s.row p r).status.cmode = .user)
  | .strand .. => true

/-- The record word of a pack's launch (R375). -/
def recWord (r : Record) (i : Nat) : BitVec 64 := r.getD i 0
def State.record (s : State) (p : Nat) : Record := (s.launch (s.pack p).launch).rec_

/-- The litter size of a record (R375). -/
def recLitter (r : Record) : Nat := (recWord r 3 >>> 56).toNat

/-- A number from the free choices of this step, below `n`; with one outcome there is nothing to choose (R6). -/
def State.pick (s : State) (slot n : Nat) : Nat := if n ≤ 1 then 0 else Config.choose s.nonce slot % n

end Sys2Proof.Machine
end

