-- ==== Sys2Proof/Machine/Access.lean ====
section
/-! DEFINITION. Generic memory and scratchpad: translation (R394–R402), versions and commits (R422–R437), counted lines
(R414–R416), the L1's early step (R333), loads and stores (R129–R134), scratchpad addresses (R222–R226, R244). -/
namespace Sys2Proof.Machine

/-! ## Translation -/

/-- The end of local memory (R394). -/
def localEnd : Nat := 0x5400000000

/-- Bits [63:47] all zero or all one (R129 order 2). -/
def canonical (va : BitVec 64) : Bool := decide ((va.setWidth 48).signExtend 64 = va)

/-- Whether a partition owns the granule of a physical address (R395). -/
def State.owned (s : State) (part pa : Nat) : Bool := decide (tget s.granules (pa / 2 ^ 21) = some part)

/-- How a walk ends (R397, R399): not valid, a node the partition may not read, or a leaf found at a place. -/
inductive Walked where
  | invalid
  | denied
  | leaf (loc : Nat) (entry : BitVec 64) (size : Nat)
  deriving DecidableEq, Repr

/-- The PA field of an entry (R398). -/
def entryPa (e : BitVec 64) : Nat := e.toNat / 4096 % 2 ^ 40 * 4096

/-- The page size of a leaf at a level (R397): 4 KiB, 2 MiB or 1 GiB, times 16 with SPAN. -/
def leafSize (level : Nat) (e : BitVec 64) : Nat := 2 ^ (12 + 9 * level) * (if e.getLsbD 8 then 16 else 1)

/-- Whether an entry is a valid pointer (R397, R398). -/
def isPointer (e : BitVec 64) : Bool :=
  e.getLsbD 0 && decide (e.toNat / 2 % 2 ^ 11 = 0) && decide (e.toNat / 2 ^ 52 = 0)

/-- Whether an entry is a valid leaf at a level (R397–R399). -/
def isLeaf (level : Nat) (e : BitVec 64) : Bool :=
  e.getLsbD 0 && (e.getLsbD 1 || e.getLsbD 3) && !(e.getLsbD 2 && !e.getLsbD 1) && decide (level ≤ 2) &&
  decide (e.toNat / 2 ^ 59 = 0) &&
  decide (entryPa e % (leafSize level e * (if e.getLsbD 10 then 4 else 1)) = 0) &&
  !((e.getLsbD 9 || e.getLsbD 10) && decide (e.toNat / 2 ^ 52 ≠ 0)) &&
  !(e.getLsbD 9 && (e.getLsbD 10 || e.getLsbD 11))

/-- Entry `i` of a node. -/
def State.nodeEntry (s : State) (node i : Nat) : BitVec 64 := leWord (memBytes s.mem (node + 8 * i) 8)

/-- The entry of a span that an access at index `i` takes (R400): its own, or where entries of the 16 differ, any of them that
is a SPAN leaf. -/
def State.spanEntry (s : State) (level node i : Nat) : Nat :=
  let e := s.nodeEntry node i
  let others := ((List.range 16).map fun j => i / 16 * 16 + j).filter fun j =>
    let x := s.nodeEntry node j
    decide (x ≠ e) && isLeaf level x && x.getLsbD 8
  (i :: others).getD (s.pick 60 (others.length + 1)) i

/-- The walk from a node at a level down (R397, R399, R395). -/
def State.walk (s : State) (part : Nat) (va : BitVec 64) : Nat → Nat → Walked
  | level, node =>
    let i := va.toNat / 2 ^ (12 + 9 * level) % 512
    if localEnd ≤ node then .invalid
    else if !s.owned part (node + 8 * i) then .denied
    else
      let j := s.spanEntry level node i
      let e := s.nodeEntry node j
      if isLeaf level e then .leaf (node + 8 * j) e (leafSize level e)
      else
        match level with
        | 0 => .invalid
        | l + 1 => if isPointer e then s.walk part va l (entryPa e) else .invalid

/-- The nearest copy of a replicated page (R418). -/
def nearestCopy (die : Nat) : Nat :=
  if die = 1 ∨ die = 2 then 0 else if die = 3 ∨ die = 4 then 1 else if die = 5 ∨ die = 6 then 2 else 3

/-- The physical address a leaf gives (R397, R417). -/
def leafPa (e : BitVec 64) (size copy : Nat) (va : BitVec 64) : Nat :=
  let o := va.toNat % size
  if e.getLsbD 10 then entryPa e + o / 4096 * 16384 + copy * 4096 + o % 4096 else entryPa e + o

/-- Whether an established session serves a TDEV for a partition (R421, R484). -/
def State.hasSession (s : State) (part tdev : Nat) : Bool :=
  s.sessions.any fun x => decide (x.tdev = tdev ∧ x.part = part)

/-- The permission a kind of access needs (R401). -/
def permits (e : BitVec 64) (k : AccessKind) (user : Bool) : Bool :=
  (match k with
   | .read => e.getLsbD 1
   | .write => e.getLsbD 2
   | .readWrite => e.getLsbD 1 && e.getLsbD 2
   | .fetch => e.getLsbD 3) && (!user || e.getLsbD 4)

/-- Whether an access writes. -/
def accessWrites : AccessKind → Bool
  | .write => true
  | .readWrite => true
  | _ => false

/-- What a leaf gives an access of a partition from a die, once it passes the checks of R395 and R401. -/
def State.leafXlate (s : State) (part die : Nat) (va : BitVec 64) (k : AccessKind) (user : Bool) (e : BitVec 64)
    (size : Nat) : Option Xlate :=
  let pa := leafPa e size (nearestCopy die) va
  let tdev := e.toNat / 2 ^ 52 % 128
  let reach := if tdev = 0 then decide (pa < localEnd) && s.owned part pa else s.hasSession part tdev
  if permits e k user && reach then
    some { pa := pa, r := e.getLsbD 1, w := e.getLsbD 2, x := e.getLsbD 3, u := e.getLsbD 4,
           vers := e.getLsbD 9, repl := e.getLsbD 10, nc := e.getLsbD 11, tdev := tdev }
  else none

/-- The leaf once A, and D for a write, are set (R402). -/
def leafMarked (e : BitVec 64) (k : AccessKind) : BitVec 64 :=
  e ||| 0x40#64 ||| (if accessWrites k then 0x80#64 else 0#64)

/-- Translate and check one access by a walk from a node at a level (R394–R402): the fault 0x06 or 0x07, or the translation
with A and D set as the access needs. -/
def State.translateFrom (s : State) (part level node die : Nat) (va : BitVec 64) (k : AccessKind) (user : Bool) :
    Except (BitVec 8) (Xlate × State) :=
  match s.walk part va level node with
  | .invalid => .error 0x06
  | .denied => .error 0x07
  | .leaf loc e size =>
    match s.leafXlate part die va k user e size with
    | none => .error 0x07
    | some xl =>
      let e' := leafMarked e k
      .ok (xl, if e' = e then s else { s with mem := memPut s.mem loc (leBytes 8 e'.toNat) })

/-- Translate and check one access of a context from a die by a walk from its root. -/
def State.translate (s : State) (ctx die : Nat) (va : BitVec 64) (k : AccessKind) (user : Bool) :
    Except (BitVec 8) (Xlate × State) :=
  let c := s.context ctx
  s.translateFrom c.part 3 (entryPa c.root) die va k user

/-- Whether two byte ranges overlap. -/
def overlaps (a n b m : Nat) : Bool := decide (a < b + m ∧ b < a + n)

/-! ## TLBs and the walker's entry cache (R324, R403, R404) -/

/-- The capacities (R324). -/
def l1TlbRoom : Nat := 512
def l2TlbSets : Nat := 1024
def l2TlbWays : Nat := 8
def l2TlbRoom : Nat := l2TlbSets * l2TlbWays
def walkRoom : Nat := 512

/-- The address space of a context (R396). -/
def Context.asid (c : Context) : Nat := c.root.toNat % 4096

/-- Whether table entries still hold what a copy was filled from, for an access made on a core: a store that changes one
removes the copy (R404). -/
def State.pathHolds (s : State) (core : Nat) (l : List (Nat × BitVec 64)) : Bool :=
  l.all fun x => decide (leWord (memBytes s.mem x.1 8) = x.2) &&
    !((s.core core).l1.any fun e => e.settled && overlaps e.pa e.bytes.length x.1 8)

/-- Whether a TLB entry serves an access: its tags match, its page holds the address, and D is set for a write (R402). -/
def State.tlbServes (s : State) (core : Nat) (c : Context) (va : BitVec 64) (k : AccessKind) (e : TlbEntry) : Bool :=
  decide (e.part = c.part) && (e.asid.isNone || decide (e.asid = some c.asid)) &&
  decide (e.page ≤ va.toNat ∧ va.toNat < e.page + e.size) && (!accessWrites k || e.leaf.getLsbD 7) && s.pathHolds core e.path

/-- The entry that serves an access; where several do, any of them (R400, R401). -/
def State.tlbFind (s : State) (core slot : Nat) (c : Context) (va : BitVec 64) (k : AccessKind) (l : List TlbEntry) :
    Option TlbEntry :=
  let hits := l.filter fun e => s.tlbServes core c va k e
  hits[s.pick slot hits.length]?

/-- Put an entry into a table of limited room: an entry that a free choice names makes way. -/
def State.fillTable {α : Type} (s : State) (slot room : Nat) (e : α) (l : List α) : List α :=
  if l.length < room then e :: l else e :: l.eraseIdx (s.pick slot l.length)

/-- The set of the L2 TLB that holds an entry (R324). -/
def TlbEntry.set (e : TlbEntry) : Nat := Config.tlbSet e.page e.size % l2TlbSets

/-- Put an entry into the L2 TLB (R324): in its set of 8 ways, where an entry that a free choice names makes way. -/
def State.fillL2 (s : State) (slot : Nat) (e : TlbEntry) (l : List TlbEntry) : List TlbEntry :=
  let mine := fun (x : TlbEntry) => decide (x.set = e.set)
  s.fillTable slot l2TlbWays e (l.filter mine) ++ l.filter fun x => !mine x

/-- The pointer entries of a walk with the levels of the nodes they name: from the walk's start to its leaf. -/
def State.walkSteps (s : State) (va : BitVec 64) : Nat → Nat → List (Nat × Nat × Nat × BitVec 64)
  | level, node =>
    let i := va.toNat / 2 ^ (12 + 9 * level) % 512
    let j := s.spanEntry level node i
    let e := s.nodeEntry node j
    match level with
    | 0 => []
    | l + 1 =>
      if isLeaf level e || !isPointer e then []
      else (l, entryPa e, node + 8 * j, e) :: s.walkSteps va l (entryPa e)

/-- The pointer entry of the walker's cache that a walk starts from, if it takes one. -/
def State.walkFind (s : State) (core : Nat) (c : Context) (va : BitVec 64) : Option WalkEntry :=
  let hits := ((s.clusters.getD (core / 4) Cluster.reset).walks).filter fun e =>
    decide (e.part = c.part ∧ e.asid = c.asid ∧ e.prefix_ = va.toNat / 2 ^ (21 + 9 * e.level)) && s.pathHolds core e.path
  hits[s.pick 63 (hits.length + 1)]?

/-- The die of a core (R187). -/
def dieOf (core : Nat) : Nat := core / 32

/-- The stack and the channel of a line (R394). -/
def lineChannel (line : Nat) : Nat × Nat := (line / 64 % 4 * 2 + line / 32 % 2, line % 32)

/-- Whether a line can be neither held nor rebuilt (R410): its channel has failed and another of its parity group with it. -/
def State.lostLine (s : State) (line : Nat) : Bool :=
  let c := lineChannel line
  s.failedChannels.contains c && s.failedChannels.any fun d => decide (d.2 = c.2 ∧ d.1 ≠ c.1)

/-- Whether a line is poisoned (R408, R410). -/
def State.linePoisoned (s : State) (line : Nat) : Bool := s.poison.contains line || s.lostLine line

/-- Whether the line of an address is poisoned; a fabric window has no local line. -/
def State.poisoned (s : State) (xl : Xlate) : Bool := decide (xl.tdev = 0) && s.linePoisoned (xl.pa / 64)

/-! ## Plain bytes of memory -/

/-- Whether a write would land on a mailbox doorbell that is not zero (R480): such a store is ignored. -/
def State.mailboxBusy (s : State) (pa n : Nat) : Bool :=
  s.partitions.any fun p =>
    decide (p.mailbox < pa + n ∧ pa < p.mailbox + 8) && decide (leNat (memBytes s.mem p.mailbox 8) ≠ 0)

/-- The L1 copies of `n` bytes' words are invalidated in every core but one (R182, R296): a poisoned word leaves with its copy. -/
def State.dropCopies (s : State) (but : Option Nat) (pa n : Nat) : State :=
  let gone := fun (w : Nat) => overlaps (8 * w) 8 pa n
  if s.cores.all fun k => !(k.l1Bad.any gone) then s
  else { s with cores := s.cores.mapIdx fun c k => if but = some c then k else { k with l1Bad := k.l1Bad.filter fun w => !gone w } }

/-- The L1 copies of a line are invalidated, in every core but one (R182, R354, R414). -/
def State.dropLines (s : State) (but : Option Nat) (line : Nat) : State := s.dropCopies but (64 * line) 64

/-- A write reaching memory from a core's L1, or from no L1: nothing happens to a poisoned line (R129, R211), or at a busy
mailbox doorbell (R480); the other cores' copies of the line are invalidated (R182). -/
def State.writeFrom (s : State) (core : Option Nat) (pa : Nat) (bytes : List (BitVec 8)) : State :=
  if s.linePoisoned (pa / 64) || s.mailboxBusy pa bytes.length then s
  else { s with mem := memPut s.mem pa bytes }.dropLines core (pa / 64)

/-- A write of an agent or engine reaching memory at its home. -/
def State.writeMem (s : State) (pa : Nat) (bytes : List (BitVec 8)) : State := s.writeFrom none pa bytes

/-- The bytes that a commit leaves in a line: a mailbox doorbell that is not zero stands (R480). -/
def State.mailboxKeep (s : State) (line : Nat) (bytes : List (BitVec 8)) : List (BitVec 8) :=
  if s.mailboxBusy (64 * line) 8 then memBytes s.mem (64 * line) 8 ++ bytes.drop 8 else bytes

/-- The 64 bytes of a line. -/
def State.lineBytes (s : State) (line : Nat) : List (BitVec 8) := memBytes s.mem (64 * line) 64

/-- One read of a line reaching its home (R415): the count falls, and at zero the line drops to what was last written
back. -/
def State.countRead (s : State) (line : Nat) : State :=
  match tget s.counted line with
  | none => s
  | some c =>
    if c.count ≤ 1 then
      { s with counted := tdel s.counted line, mem := memPut s.mem (64 * line) c.hbm }
    else { s with counted := tset s.counted line { c with count := c.count - 1 } }

/-- What HBM holds of a line (R415): what was last written back, or the zeros of the scrub. -/
def State.hbmLine (s : State) (line : Nat) : List (BitVec 8) := (tget s.hbm line).getD (List.replicate 64 0)

/-- Set a reader count on a line just written (R414): no L1 keeps a copy. -/
def State.setCount (s : State) (line n : Nat) : State :=
  { s.dropLines none line with counted := tset s.counted line { count := n, hbm := s.hbmLine line } }

/-- The memory-side cache writes a line back; one that is counted is evicted, and its count discarded (R415, R416). -/
def State.writeBack (s : State) (line : Nat) : State :=
  { s with hbm := tset s.hbm line (s.lineBytes line), counted := tdel s.counted line }

/-! ## Versions -/

/-- A line's versions (R422): a line never committed has timestamp 0 and no old version. -/
def State.vline (s : State) (line : Nat) : VLine := (tget s.lines line).getD { ts := 0, chain := [] }

/-- The start times registered with the collector (R433, R438). -/
def State.startTimes (s : State) : List Nat :=
  s.packs.foldr (fun k l =>
    if k.life = .ended then l
    else (match k.ospec with
          | some o => if o.serial || k.life = .waiting || !k.started then [] else [o.start]
          | none => (k.rows.filter fun r => decide (r.txstart ≠ 0)).map fun r => r.txstart.toNat) ++ l) []

/-- The live floor (R438). -/
def State.liveFloor (s : State) : Nat :=
  ((s.snapshots.map fun e => e.time) ++ s.startTimes).foldl Nat.min s.cc

/-- The versions that the collector leaves (R438): an old one goes once the next newer has a time at or below the
floor. -/
def keepFrom (floor : Nat) : Nat → List OldVersion → List OldVersion
  | _, [] => []
  | newer, v :: r => if newer ≤ floor then [] else v :: keepFrom floor v.ts r

/-- Reclaim a line's unreachable versions (R438). -/
def State.reclaim (s : State) (line : Nat) : State :=
  match tget s.lines line with
  | none => s
  | some v => { s with lines := tset s.lines line { v with chain := keepFrom s.liveFloor v.ts v.chain } }

/-- The records of the version store in use (R423). -/
def State.storeUsed (s : State) : Nat := s.lines.foldl (fun n e => n + e.2.chain.length) 0

/-- Whether a line can take one more old version after reclaiming (R434, R437). -/
def State.hasRoom (s : State) (line : Nat) : Bool := decide ((s.vline line).chain.length < 15)

/-- Whether the version store has `n` free records (R423, R434). -/
def State.storeRoom (s : State) (n : Nat) : Bool := decide (s.storeUsed + n ≤ Config.versionRecords s.storeShare)

/-- Install a new head with a timestamp, the old head moving to the chain (R434, R437). -/
def State.installHead (s : State) (ts line : Nat) (bytes : List (BitVec 8)) : State :=
  let v := s.vline line
  let old : OldVersion := { ts := v.ts, bytes := s.lineBytes line, poisoned := s.linePoisoned line }
  { s.dropLines none line with
    lines := tset s.lines line { ts := ts, chain := old :: v.chain },
    mem := memPut s.mem (64 * line) (s.mailboxKeep line bytes) }

/-- Replace bytes at an offset of a byte list. -/
def patchBytes (base : List (BitVec 8)) (off : Nat) (new : List (BitVec 8)) : List (BitVec 8) :=
  base.take off ++ new ++ base.drop (off + new.length)

/-- A single-line commit that changes a line's bytes (R437); none when it must wait for room. A poisoned line is written by
nothing (R129). -/
def State.commitWith (s : State) (line : Nat) (f : List (BitVec 8) → List (BitVec 8)) : Option State :=
  if s.linePoisoned line then some s
  else
    let s := s.reclaim line
    if s.hasRoom line && s.storeRoom 1 then
      let c := s.cc + 1
      some { s.installHead c line (f (s.lineBytes line)) with cc := c }
    else none

/-- A single-line commit of bytes at a physical address (R437). -/
def State.commitLine (s : State) (pa : Nat) (bytes : List (BitVec 8)) : Option State :=
  s.commitWith (pa / 64) fun b => patchBytes b (pa % 64) bytes

/-- The head and old versions as (timestamp, bytes, poisoned), newest first. -/
def State.versions (s : State) (line : Nat) : List OldVersion :=
  let v := s.vline line
  { ts := v.ts, bytes := s.lineBytes line, poisoned := s.linePoisoned line } :: v.chain

/-- The place in a version list of the version current at a time (R422); the oldest left where none is. -/
def currentAt (time : Nat) : List OldVersion → Nat
  | [] => 0
  | [_] => 0
  | v :: r => if v.ts ≤ time then 0 else currentAt time r + 1

/-- The version of a line that a read at a time selects. `open_` is whether some agent keeps that time; else each read, which `slot`
numbers, may return a newer one (R134). -/
def State.versionAt (s : State) (slot line time : Nat) (open_ : Bool) : OldVersion :=
  let vs := s.versions line
  let i := currentAt time vs
  let i := if open_ then i else s.pick (80 + line + slot * 2 ^ 48) (i + 1)
  vs.getD i { ts := 0, bytes := s.lineBytes line, poisoned := false }

/-- Whether a partition keeps a snapshot at a time (R429). -/
def State.snapOpen (s : State) (part time : Nat) : Bool :=
  s.snapshots.any fun e => decide (e.time = time ∧ e.part = part)

/-! ## Transactions -/

/-- The transaction an agent's accesses belong to, with its start time (R431, R439). -/
def State.txOf (s : State) (a : Agent) : Option (Nat × Tx) :=
  let k := s.pack a.pr.1
  match k.ospec with
  | some o => if o.serial then none else some (o.start, o.tx)
  | none =>
    match a with
    | .control p r => (s.row p r).tx.map fun t => ((s.row p r).txstart.toNat, t)
    | .strand .. => none

/-- Replace the transaction an agent's accesses belong to. -/
def State.setTx (s : State) (a : Agent) (t : Tx) : State :=
  let (p, r) := a.pr
  match (s.pack p).ospec with
  | some _ => s.modPack p fun k => { k with ospec := k.ospec.map fun o => { o with tx := t } }
  | none => s.modRow p r fun w => { w with tx := some t }

/-- Merge bytes into a tentative line. -/
def TentLine.merge (t : TentLine) (off : Nat) (new : List (BitVec 8)) : TentLine :=
  { t with bytes := patchBytes t.bytes off new,
           mask := t.mask ||| BitVec.ofNat 64 ((2 ^ new.length - 1) * 2 ^ off) }

/-- The bytes a transaction sees of a line: a base overlaid with its own writes (R431). -/
def TentLine.over (t : TentLine) (base : List (BitVec 8)) : List (BitVec 8) :=
  (List.range 64).map fun i => if t.mask.getLsbD i then t.bytes.getD i 0 else base.getD i 0

/-- All tentative lines held in a cluster's slice (R315, R431). -/
def State.clusterTentative (s : State) (cluster : Nat) : List Nat :=
  s.packs.foldr (fun k l =>
    if k.core / 4 = cluster ∧ k.life = .resident then
      (match k.ospec with
       | some o => if o.tx.doomed.isSome then [] else o.tx.lines.map fun t => t.line
       | none => k.rows.foldr (fun w m =>
           (match w.tx with
            | some t => if t.doomed.isSome then [] else t.lines.map fun t => t.line
            | none => []) ++ m) []) ++ l
    else l) []

/-- The bank and set of a line in an L2 slice (R312). -/
def bankOf (line : Nat) : Nat := (line % 32) ^^^ (line / 32 % 32)
def setOf (line : Nat) : Nat := line / 32 % 256

/-- The in-service ways of a bank (R327). -/
def State.waysOf (s : State) (cluster bank : Nat) : Nat :=
  16 - (((s.clusters.getD cluster Cluster.reset).waysOut.filter fun w => decide (w / 16 = bank)).length)

/-- Whether a set has room for one more tentative line (R315). -/
def State.tentRoom (s : State) (cluster line : Nat) : Bool :=
  let same := (s.clusterTentative cluster).filter fun l => decide (bankOf l = bankOf line ∧ setOf l = setOf line)
  decide (same.length < s.waysOf cluster (bankOf line) - 4)

/-- A tentative write (R431, R432): not performed once doomed; one that finds no room dooms with status 2. -/
def State.tentWrite (s : State) (a : Agent) (t : Tx) (pa : Nat) (bytes : List (BitVec 8)) : State :=
  let line := pa / 64
  if t.doomed.isSome then s
  else if t.lines.any fun x => decide (x.line = line) then
    s.setTx a { t with lines := t.lines.map fun x => if x.line = line then x.merge (pa % 64) bytes else x }
  else if t.lines.length < 4096 && s.tentRoom (s.coreOf a / 4) line then
    let new : TentLine := { line := line, mask := 0, bytes := List.replicate 64 0, bad := false }
    s.setTx a { t with lines := t.lines ++ [new.merge (pa % 64) bytes] }
  else s.setTx a { t with doomed := some 2 }

/-- The bytes a transactional read sees of a line (R431, R432): once doomed, each byte it wrote is either value. -/
def State.txLine (s : State) (start : Nat) (t : Tx) (line : Nat) : List (BitVec 8) :=
  let base := (s.versionAt 0 line start true).bytes
  match t.lines.find? fun x => decide (x.line = line) with
  | none => base
  | some x =>
    if t.doomed.isSome then
      (List.range 64).map fun i =>
        if x.mask.getLsbD i && decide (s.pick (100 + i) 2 = 0) then x.bytes.getD i 0 else base.getD i 0
    else x.over base

/-! ## The L1's early step (R182, R333, R337) -/

/-- The entries of a core's L1 that an agent sees: its own, and those of others shown to it that no wide release of theirs
holds back (R333, R337). -/
def l1Visible (a : Agent) : List Agent → List L1Store → List L1Store
  | _, [] => []
  | blocked, e :: r =>
    let rest := l1Visible a (if e.held then e.agent :: blocked else blocked) r
    if e.agent = a || (e.shown && !e.held && !blocked.contains e.agent) then e :: rest else rest

/-- Bytes of memory overlaid with L1 entries. -/
def l1Overlay (bytes : List (BitVec 8)) (pa : Nat) (l : List L1Store) : List (BitVec 8) :=
  l.foldl (fun b e =>
    (List.range b.length).map fun i =>
      if e.pa ≤ pa + i ∧ pa + i < e.pa + e.bytes.length then e.bytes.getD (pa + i - e.pa) 0 else b.getD i 0) bytes

/-- `n` bytes at a physical address as an agent's cached scalar accesses see them. -/
def State.seenBytes (s : State) (a : Agent) (pa n : Nat) : List (BitVec 8) :=
  l1Overlay (memBytes s.mem pa n) pa (l1Visible a [] (s.core (s.coreOf a)).l1)

/-- The first `n` entries of a core's L1 leave for the L2, in order (R182). -/
def State.drainN (s : State) (core : Nat) : Nat → State
  | 0 => s
  | n + 1 =>
    match (s.core core).l1 with
    | [] => s
    | e :: r => ((s.modCore core fun k => { k with l1 := r }).writeFrom (some core) e.pa e.bytes).drainN core n

/-- One entry of a core's L1 leaves for the L2 (R182, R333). -/
def State.leave (s : State) (core i : Nat) : State :=
  match (s.core core).l1[i]? with
  | none => s
  | some e => (s.modCore core fun k => { k with l1 := k.l1.eraseIdx i }).writeFrom (some core) e.pa e.bytes

/-- Every pending scalar write of a core leaves its L1. -/
def State.drainCore (s : State) (core : Nat) : State := s.drainN core (s.core core).l1.length

/-- How many entries must leave for every entry that satisfies a test to have left. -/
def drainUpTo (f : L1Store → Bool) : List L1Store → Nat
  | [] => 0
  | e :: r =>
    let n := drainUpTo f r
    if n = 0 then (if f e then 1 else 0) else n + 1

/-- The entries that an access at the home must find gone: those the agent sees on the same bytes (R131, R332, R354)
and the agent's own held releases (R337). -/
def State.drainFor (s : State) (a : Agent) (pa n : Nat) : State :=
  let core := s.coreOf a
  let l := (s.core core).l1
  let vis := l1Visible a [] l
  s.drainN core (drainUpTo (fun e =>
    (e.agent = a && e.held) || (vis.contains e && overlaps e.pa e.bytes.length pa n)) l)

/-- The pending scalar writes visible to an agent leave its L1, those ahead of them first (R337). -/
def State.drainVisible (s : State) (a : Agent) : State :=
  let core := s.coreOf a
  let l := (s.core core).l1
  let vis := l1Visible a [] l
  s.drainN core (drainUpTo (fun e => vis.contains e) l)

/-- An agent's pending wide releases leave its L1, and what they cover: nothing of the agent's may become visible before
(R337). -/
def State.flushHeld (s : State) (a : Agent) : State :=
  s.drainN (s.coreOf a) (drainUpTo (fun e => e.agent = a && e.held) (s.core (s.coreOf a)).l1)

/-- Whether an entry may leave before those ahead of it (R131, R332, R337). -/
def l1MayLeave (l : List L1Store) (i : Nat) : Bool :=
  match l[i]? with
  | none => false
  | some e =>
    if e.held then decide (i = 0)
    else (l.take i).all fun x => !(x.agent = e.agent && x.held) && !overlaps x.pa x.bytes.length e.pa e.bytes.length

/-! ## Translation of an agent's access (R404) -/

/-- The pending scalar writes that an agent sees are visible to its core's agents and ordered before what they do later
(R334, R337, R340). -/
def State.settleFor (s : State) (a : Agent) : State :=
  if (s.core (s.coreOf a)).l1.isEmpty then s
  else
    s.modCore (s.coreOf a) fun k =>
      let vis := l1Visible a [] k.l1
      { k with l1 := k.l1.map fun e => if vis.contains e then { e with settled := true, shown := true } else e }

/-- An engine command starts (R344): a release at core scope of what its issuer has done. -/
def State.startCommand (s : State) (a : Agent) : State := (s.flushHeld a).settleFor a

/-- The settled writes of a core leave its L1: what a command's issuer released at its start is visible everywhere
(R236, R241). -/
def State.drainSettled (s : State) (core : Nat) : State :=
  s.drainN core (drainUpTo (fun e => e.settled) (s.core core).l1)

/-- An entry of a core's L1 becomes visible to the core's other agents (R333). -/
def State.reveal (s : State) (core i : Nat) : State :=
  s.modCore core fun k => { k with l1 := k.l1.modify i fun e => { e with shown := true } }

/-- Those of a core's pending scalar writes that a read of these bytes returns are ordered before what depends on it
(R334, R335). -/
def State.settleRead (s : State) (core pa n : Nat) : State :=
  if (s.core core).l1.any (fun e => overlaps e.pa e.bytes.length pa n) then
    s.modCore core fun k => { k with l1 := k.l1.map (fun e =>
      if overlaps e.pa e.bytes.length pa n then { e with settled := true } else e) }
  else s

/-- The settled writes of a core to some bytes leave its L1, before an access at the home that happens after them. -/
def State.settleAt (s : State) (core pa n : Nat) : State :=
  s.drainN core (drainUpTo (fun e => e.settled && overlaps e.pa e.bytes.length pa n) (s.core core).l1)

/-- The settled writes of a core to the table entries of a walk, or to the spans they lie in (R400), leave its L1 before
the walk reads them (R404). -/
def State.settleWalk (s : State) (core : Nat) (va : BitVec 64) : Nat → Nat → State
  | level, node =>
    let i := va.toNat / 2 ^ (12 + 9 * level) % 512
    let s := s.settleAt core (node + i / 16 * 128) 128
    let e := s.nodeEntry node i
    match level with
    | 0 => s
    | l + 1 => if isPointer e then s.settleWalk core va l (entryPa e) else s

/-- Enter the pointers a walk read into the walker's cache: `path` are the entries it was reached through. -/
def State.cacheWalk (s : State) (cluster : Nat) (c : Context) (va : BitVec 64) :
    List (Nat × Nat × Nat × BitVec 64) → List (Nat × BitVec 64) → State
  | [], _ => s
  | (l, node, loc, e) :: r, path =>
    let path := path ++ [(loc, e)]
    let w : WalkEntry := { part := c.part, asid := c.asid, level := l, prefix_ := va.toNat / 2 ^ (21 + 9 * l), node := node,
                           path := path }
    (s.modCluster cluster fun k =>
      { k with walks := if k.walks.contains w then k.walks else s.fillTable 64 walkRoom w k.walks }).cacheWalk cluster c va r path

/-- Enter a translation into the TLBs of a core (R324, R403). -/
def State.fillTlb (s : State) (core : Nat) (e : TlbEntry) (l2 : Bool) : State :=
  let s := s.modCore core fun k => { k with tlb := s.fillTable 65 l1TlbRoom e k.tlb }
  if l2 then s.modCluster (core / 4) fun k => { k with tlb := s.fillL2 66 e k.tlb } else s

/-- A walk for an access made on a core (R324, R325), from the root or from a cached pointer: the translation enters the TLBs,
the pointers the walker's cache. -/
def State.walkFill (s : State) (core ctx : Nat) (va : BitVec 64) (k : AccessKind) (user : Bool) :
    Except (BitVec 8) (Xlate × State) :=
  let c := s.context ctx
  let (level, node, path) := match s.walkFind core c va with
    | some w => (w.level, w.node, w.path)
    | none => (3, entryPa c.root, [])
  match s.translateFrom c.part level node (dieOf core) va k user with
  | .error e => .error e
  | .ok (xl, s1) =>
    match s.walk c.part va level node with
    | .leaf loc e size =>
      let steps := s.walkSteps va level node
      let e' := leafMarked e k
      let entry : TlbEntry :=
        { part := c.part, asid := if e.getLsbD 5 then none else some c.asid, page := va.toNat / size * size, size := size,
          loc := loc, leaf := e', path := path ++ (steps.map fun x => x.2.2) ++ [(loc, e')] }
      .ok (xl, (s1.cacheWalk (core / 4) c va steps path).fillTlb core entry true)
    | _ => .ok (xl, s1)

/-- Translate an access made on a core (R324, R403): by its L1 TLB, its cluster's L2 TLB, or a walk. What happens after a
write of a table entry uses the new entry (R404). -/
def State.translateAt (s : State) (core ctx : Nat) (va : BitVec 64) (k : AccessKind) (user : Bool) :
    Except (BitVec 8) (Xlate × State) :=
  let c := s.context ctx
  let s := s.settleWalk core va 3 (entryPa c.root)
  let use := fun (e : TlbEntry) (s' : State) =>
    match s.leafXlate c.part (dieOf core) va k user e.leaf e.size with
    | none => Except.error (ε := BitVec 8) 0x07
    | some xl => .ok (xl, s')
  match s.tlbFind core 61 c va k (s.core core).tlb with
  | some e => use e s
  | none =>
    match s.tlbFind core 62 c va k (s.clusters.getD (core / 4) Cluster.reset).tlb with
    | some e => use e (s.fillTlb core e false)
    | none => s.walkFill core ctx va k user

/-- What the checks of an access come to: a trap's cause with the state, in which a walk may have set A and D (R402), or what
they found. -/
abbrev Access (α : Type) := Except (BitVec 8 × State) α

/-- Translate an access of an agent (R401: strands and user code need U). -/
def State.translateFor (s : State) (a : Agent) (va : BitVec 64) (k : AccessKind) :
    Except (BitVec 8) (Xlate × State) :=
  s.translateAt (s.coreOf a) (s.pack a.pr.1).ctx va k (s.userMode a)

/-! ## Machine checks (R297) -/

/-- Raise a machine check at a row (R297): one waits, a further one is dropped and sets MCOVF. -/
def State.machineCheck (s : State) (p r : Nat) (syndrome : BitVec 64) (elem : Nat) : State :=
  s.modRow p r fun w =>
    match w.mcheck with
    | none => { w with mcheck := some { syndrome := syndrome, elem := BitVec.ofNat 13 elem } }
    | some _ => { w with trap := { w.trap with mcovf := true } }

/-- A syndrome (R297). -/
def syndrome (src : Nat) (foll : Bool) (unit addr : Nat) : BitVec 64 :=
  BitVec.ofNat 64 (src * 2 ^ 60 + (if foll then 2 ^ 59 else 0) + unit % 64 * 2 ^ 52 + addr % 2 ^ 52)

/-! ## Scalar loads and stores of generic memory -/

/-- A number of its own for each agent of a row: the control thread's is 0. -/
def agentSlot : Agent → Nat
  | .control .. => 0
  | .strand _ _ k => k + 1

/-- The groups that one key of a session protects (R483). -/
def keyGroups : Nat := 2 ^ 32

/-- The TDEV that a message goes to. -/
def LinkMsg.tdev : LinkMsg → Nat
  | .write _ t _ _ => t
  | .read t _ _ => t
  | .atomic _ t _ _ _ _ _ => t
  | .response t _ _ _ => t
  | .error t _ => t

/-- A message of a partition leaves over its window (R421), one flit group under the session's key; under a key that is exhausted it waits
for the next (R483). DESIGN CHOICE: a message is one group; the manual does not say how messages fill groups (log 110). -/
def State.send (s : State) (part : Nat) (m : LinkMsg) : State :=
  let is := fun (x : Session) => decide (x.tdev = m.tdev ∧ x.part = part)
  if s.sessions.any fun x => is x && decide (keyGroups ≤ x.sent) then
    { s with sessions := s.sessions.map fun x => if is x then { x with waiting := x.waiting ++ [m] } else x }
  else
    { s with linkOut := s.linkOut ++ [m],
             sessions := s.sessions.map fun x => if is x then { x with sent := x.sent + 1 } else x }

/-- The partition of a sender. -/
def State.partOfSender (s : State) : Sender → Nat
  | .row p _ => (s.pack p).part
  | .copy p _ _ => (s.pack p).part
  | .other part => part

/-- A write leaves over a window. -/
def State.sendWrite (s : State) (by_ : Sender) (xl : Xlate) (bytes : List (BitVec 8)) : State :=
  s.send (s.partOfSender by_) (.write by_ xl.tdev xl.pa bytes)

/-- A read request of a partition leaves over a window. -/
def State.sendRead (s : State) (part : Nat) (xl : Xlate) (n : Nat) : State := s.send part (.read xl.tdev xl.pa n)

/-- A read over a fabric window: the request leaves, the value is the peer's (R421). -/
def State.remoteRead (s : State) (part : Nat) (xl : Xlate) (n slot : Nat) : BitVec 64 × State :=
  (Config.freeWord s.nonce (200 + slot) &&& BitVec.ofNat 64 (2 ^ (8 * n) - 1),
   s.sendRead part xl n)

/-- Whether a load of a page is served at the line's home: no L1 holds the line (R182, R415). -/
def State.atHome (s : State) (xl : Xlate) : Bool := xl.nc || (tget s.counted (xl.pa / 64)).isSome

/-- Before an access at the home, the writes of the bytes that it must find there leave the agent's L1: those the agent sees (R131,
R332) and those settled before it (R334, R340, R347). -/
def State.reachHome (s : State) (a : Agent) (pa n : Nat) : State := (s.drainFor a pa n).settleAt (s.coreOf a) pa n

/-- `n` bytes as a scalar access of an agent reads them now (R131, R182, R415), once what the read must find at the home is there. -/
def State.view (s : State) (a : Agent) (xl : Xlate) (n : Nat) : List (BitVec 8) × State :=
  if s.atHome xl then
    let s := s.reachHome a xl.pa n
    (memBytes s.mem xl.pa n, s)
  else (s.seenBytes a xl.pa n, s)

/-- A poisoned word of the L1 that a load consumes (R296): unless its line has left the L1, the load completes with the data as
read and its row takes a machine check. -/
def State.l1Consume (s : State) (a : Agent) (xl : Xlate) (n : Nat) (v : BitVec 64) : BitVec 64 × State :=
  let c := s.coreOf a
  let hit := fun (w : Nat) => overlaps (8 * w) 8 xl.pa n
  if s.atHome xl || !(s.core c).l1Bad.any hit then (v, s)
  else if s.pick 9204 2 = 0 then
    (v, s.modCore c fun k => { k with l1Bad := k.l1Bad.filter fun w => !hit w })
  else
    (Config.freeWord s.nonce (9210 + agentSlot a) &&& BitVec.ofNat 64 (2 ^ (8 * n) - 1),
     s.machineCheck a.pr.1 a.pr.2 (syndrome 5 (decide (c ≠ (s.pack a.pr.1).core)) 0 xl.pa) 0)

/-- What a load of a line's head returns, and the state after it (R132, R415). -/
def State.loadHead (s : State) (a : Agent) (xl : Xlate) (n : Nat) : BitVec 64 × State :=
  let (b, s) := s.view a xl n
  let (v, s) := s.l1Consume a xl n (leWord b)
  (v, (s.settleRead (s.coreOf a) xl.pa n).countRead (xl.pa / 64))

/-- What a plain load of an agent returns, and the state after it (R132, R415, R421, R431). -/
def State.loadPlain (s : State) (a : Agent) (xl : Xlate) (n : Nat) : BitVec 64 × State :=
  if xl.tdev ≠ 0 then s.remoteRead (s.pack a.pr.1).part xl n (agentSlot a)
  else
    match xl.vers, s.txOf a with
    | true, some (start, t) =>
      (leWord (((s.txLine start t (xl.pa / 64)).drop (xl.pa % 64)).take n), s.countRead (xl.pa / 64))
    | _, _ => s.loadHead a xl n

/-- An agent accesses bytes in program order: no early read of them stands (R131, R332). -/
def State.forgetAt (s : State) (a : Agent) (pa n : Nat) : State :=
  s.forget fun e => decide (e.agent = a ∧ e.sp = none) && overlaps e.pa e.bytes.length pa n

/-- The same of bytes of the agent's scratchpad (R345). -/
def State.forgetSp (s : State) (a : Agent) (follower : Bool) (off n : Nat) : State :=
  s.forget fun e => decide (e.agent = a ∧ e.sp = some follower) && overlaps e.pa e.bytes.length off n

/-- An agent's later accesses follow what it does now: none of its early reads stands (R334, R338). -/
def State.forgetAll (s : State) (a : Agent) : State := s.forget fun e => decide (e.agent = a)

/-- An early read is consumed: the agent has read these bytes as that read found them, and no earlier one of them stands (R131,
R332). -/
def State.forgetBefore (s : State) (e : Early) (pa n : Nat) : State :=
  let older := s.early.takeWhile fun x => decide (x ≠ e)
  let newer := s.early.dropWhile fun x => decide (x ≠ e)
  let kept := older.filter fun x => !(decide (x.agent = e.agent ∧ x.sp = e.sp) && overlaps x.pa x.bytes.length pa n)
  { s with early := kept ++ newer }

/-- Whether a load that its thread went past reads some of `n` bytes: of memory, or of a side of the pack's scratchpad. -/
def Late.meets (x : Late) (at_ : Nat ⊕ (Bool × Nat)) (n : Nat) : Bool :=
  match x.src, at_ with
  | .inl xl, .inl pa => overlaps xl.pa x.n pa n
  | .inr (f, o), .inr (g, q) => decide (f = g) && overlaps o x.n q n
  | _, _ => false

/-- Whether an agent has gone past a load that reads some of these bytes, or that gives the register an early read would use: such a
read follows it (R131, R335). -/
def State.lateBars (s : State) (a : Agent) (base : Option (BitVec 6)) (at_ : Nat ⊕ (Bool × Nat)) (n : Nat) : Bool :=
  (s.thread a).late.any fun x => decide (base = some x.dest) || x.meets at_ n

/-- An agent performs a read before its place in program order (R334, R449): 8 bytes for a load, a line for a fetch, of local memory
whose reads are not counted, a transaction's apart. Its walk sets A before it (R402). DESIGN CHOICE: that bit stays set where the load then does not execute (log 135). -/
def State.readEarly (s : State) (a : Agent) (base : Option (BitVec 6)) (va : BitVec 64) : State :=
  match s.translateFor a va (if base.isSome then .read else .fetch) with
  | .error _ => s
  | .ok (xl, s1) =>
    let n := if base.isSome then 8 else 64
    let pa := xl.pa / n * n
    if xl.tdev ≠ 0 ∨ (xl.vers && (s.txOf a).isSome) ∨ s.poisoned xl ∨ (tget s.counted (pa / 64)).isSome ∨ s.lateBars a base (.inl pa) n then s
    else
      let (b, s2) := s1.view a { xl with pa := pa } n
      let e : Early := { agent := a, base := base, va := va.setWidth 48 &&& ~~~0x3F#48, sp := none, pa := pa, bytes := b, after := none }
      ({ s2 with early := s2.early ++ [e] } : State).settleRead (s2.coreOf a) pa n

/-- The early read that a load of an agent may take its value from. -/
def State.earlyOf (s : State) (a : Agent) (base : BitVec 6) (sp : Option Bool) (pa n : Nat) : Option Early :=
  s.early.find? fun e =>
    decide (e.agent = a ∧ e.base = some base ∧ e.sp = sp ∧ e.pa ≤ pa ∧ pa + n ≤ e.pa + e.bytes.length)

/-- The bytes of a load in an early read. -/
def Early.cut (e : Early) (pa n : Nat) : BitVec 64 := leWord ((e.bytes.drop (pa - e.pa)).take n)

/-- What a generic load returns, in program order or as read early (R332, R334, R335); `base` is its base register. -/
def State.loadGeneric (s : State) (a : Agent) (base : BitVec 6) (xl : Xlate) (n : Nat) : BitVec 64 × State :=
  let plain := s.loadPlain a xl n
  match s.earlyOf a base none xl.pa n with
  | some e =>
    if xl.tdev = 0 ∧ !(xl.vers && (s.txOf a).isSome) ∧ s.pick (9700 + agentSlot a) 2 = 0 then (e.cut xl.pa n, s.forgetBefore e xl.pa n)
    else (plain.1, plain.2.forgetAt a xl.pa n)
  | none => (plain.1, plain.2.forgetAt a xl.pa n)

/-- The value of a load, extended to the register it goes to (R129). -/
def loadExt (w : Nat) (signed : Bool) (v : BitVec 64) : BitVec 64 :=
  if signed then (v <<< (64 - 8 * w)).sshiftRight (64 - 8 * w) else v &&& BitVec.ofNat 64 (2 ^ (8 * w) - 1)

/-- Whether a load may be left behind by the thread (R334): to a register, and unread as yet. -/
def State.mayDefer (s : State) (a : Agent) (d base : BitVec 6) (sp : Option Bool) (pa n : Nat) : Bool :=
  decide (d ≠ 0) && (s.earlyOf a base sp pa n).isNone

/-- What a snapshot load returns (R134): at the snapshot on a versioned page, the head otherwise. -/
def State.loadSnap (s : State) (a : Agent) (snap : BitVec 64) (xl : Xlate) (n : Nat) : BitVec 64 × State :=
  if xl.tdev ≠ 0 then s.remoteRead (s.pack a.pr.1).part xl n (agentSlot a)
  else if xl.vers && decide (snap ≠ 0) then
    let v := s.versionAt (agentSlot a) (xl.pa / 64) snap.toNat (s.snapOpen (s.pack a.pr.1).part snap.toNat)
    (leWord ((v.bytes.drop (xl.pa % 64)).take n), s.countRead (xl.pa / 64))
  else s.loadHead a xl n

/-- Whether the data a load of an agent would return are poisoned (R129, R173, R423): of the version it selects, or of
the line. `snap` is the snapshot of a snapshot load. DESIGN CHOICE: a doomed transaction's load of the tentative line that an error
struck meets poison, though R432 has discarded that line (log 136). -/
def State.readPoisoned (s : State) (a : Agent) (xl : Xlate) (snap : Option (BitVec 64)) : Bool :=
  if xl.tdev ≠ 0 then false
  else
    match snap with
    | some w =>
      if xl.vers && decide (w ≠ 0) then
        (s.versionAt (agentSlot a) (xl.pa / 64) w.toNat (s.snapOpen (s.pack a.pr.1).part w.toNat)).poisoned
      else s.poisoned xl
    | none =>
      match xl.vers, s.txOf a with
      | true, some (start, t) =>
        (t.lines.any fun x => x.bad && decide (x.line = xl.pa / 64)) || (s.versionAt 0 (xl.pa / 64) start true).poisoned
      | _, _ => s.poisoned xl

/-- A store of an agent to generic memory (R132): tentative in a transaction, a single-line commit on a versioned page,
at the home on an NC page, over the link through a window, else into the core's L1. `held` marks a releasing store
wider than the core (R357). None when it must wait for version room (R437). -/
def State.store (s : State) (a : Agent) (xl : Xlate) (bytes : List (BitVec 8)) (held : Bool) : Option State :=
  if xl.tdev ≠ 0 then some ((s.drainFor a xl.pa 0).sendWrite (.row a.pr.1 a.pr.2) xl bytes)
  else if xl.vers then
    match s.txOf a with
    | some (_, t) =>
      let s := if held then s.drainVisible a else s
      some (s.tentWrite a t xl.pa bytes)
    | none =>
      let s := s.drainFor a xl.pa bytes.length
      let s := if held then s.drainVisible a else s
      s.commitLine xl.pa bytes
  else if xl.nc then
    let s := s.drainFor a xl.pa bytes.length
    let s := if held then s.drainVisible a else s
    some (s.writeMem xl.pa bytes)
  else
    some (s.modCore (s.coreOf a) fun k =>
      { k with l1Bad := k.l1Bad.filter fun w => !(decide (bytes.length = 8) && decide (8 * w = xl.pa)),
               l1 := k.l1 ++ [{ agent := a, pa := xl.pa, bytes := bytes, held := held, settled := false, shown := false }] })

/-- A write of an engine, of the VLSU or of a post (R333: visible to all at one instant); none when it must wait for
version room (R437). -/
def State.engineWrite (s : State) (by_ : Sender) (xl : Xlate) (bytes : List (BitVec 8)) : Option State :=
  if xl.tdev ≠ 0 then some (s.sendWrite by_ xl bytes)
  else if xl.vers then s.commitLine xl.pa bytes
  else some (s.writeMem xl.pa bytes)

/-! ## Scratchpad -/

def Pack.side (k : Pack) (follower : Bool) : Side := if follower then k.foll else k.lead
def Pack.modSide (k : Pack) (follower : Bool) (f : Side → Side) : Pack :=
  if follower then { k with foll := f k.foll } else { k with lead := f k.lead }
def State.side (s : State) (p : Nat) (follower : Bool) : Side := (s.pack p).side follower
def State.modSide (s : State) (p : Nat) (follower : Bool) (f : Side → Side) : State :=
  s.modPack p fun k => k.modSide follower f

/-- The bytes of a pack's allocation (R224). -/
def Pack.spBytes (k : Pack) : Nat := 65536 * k.units

/-- Where a core-view address leads: a place, a fault with its cause, or a stall (R223, R244). -/
inductive SpRes where
  | at_ (follower : Bool) (off : Nat) (ring : Option Nat)
  | fault (cause : BitVec 8)
  | stall (n need : Nat)
  deriving DecidableEq, Repr

/-- The ring a row sees under a number (R276): the current one, or one from before an edit by another row that it has not
acquired. -/
def State.ringSeen (s : State) (p r n : Nat) : Option Ring :=
  let k := s.pack p
  let now := k.rings.getD n none
  let olds := (k.ringEdits.filter fun e => decide (e.n = n) && decide (e.by_ ≠ r) && !e.known.contains r).map fun e => e.old
  (now :: olds).getD (s.pick (90 + n) (olds.length + 1)) now

/-- Resolve a ring-relative address for a generation (R244): `w` is the access size. -/
def ringResolve (g : Ring) (gen : Nat) (addr : BitVec 64) (w n : Nat) : SpRes :=
  let k := addr.toNat / 2 ^ 24 % 16
  let o := addr.toNat % 2 ^ 24
  if g.s ≤ k ∨ g.size < o + w then .fault 0x0C
  else if g.cg < gen then .stall n gen
  else .at_ false (g.base + (gen + k) % g.s * g.size + o) (some n)

/-- Resolve a core-view address of a pack's row (R223, R244). -/
def State.spResolve (s : State) (p r : Nat) (addr : BitVec 64) (w : Nat) : SpRes :=
  let k := s.pack p
  let a := addr.toNat
  let base := k.base.toNat
  if 2 ^ 31 ≤ a ∧ a < 2 ^ 32 then
    let n := a / 2 ^ 28 % 8
    match s.ringSeen p r n with
    | none => .fault 0x0C
    | some g => ringResolve g ((s.row p r).gens.getD n 0) addr w n
  else if base ≤ a ∧ a + w ≤ base + k.spBytes then .at_ false (a - base) none
  else if k.braced ∧ base + 0x300000 ≤ a ∧ a + w ≤ base + 0x300000 + k.spBytes then
    .at_ true (a - 0x300000 - base) none
  else .fault 0x07

/-- The offset in the allocation of a local address of a lane slice (R109, R224). -/
def laneOffset (lane l : Nat) : Nat := l / 64 * 2048 + lane * 64 + l % 64

/-- The logical lane of a strand (R167). -/
def laneOf (grant k : Nat) : Nat := (if k < grant then k else k - grant) % 32

/-- Whether a scratchpad word is poisoned (R226). -/
def Side.bad (d : Side) (off n : Nat) : Bool :=
  d.spPoison.any fun w => overlaps (8 * w) 8 off n

/-- A scratchpad store (R226): a poisoned word is written, and cleared, only by a store that covers it. -/
def Side.store (d : Side) (off : Nat) (bytes : List (BitVec 8)) : Side :=
  if d.bad off bytes.length then
    if bytes.length = 8 then { d with sp := memPut d.sp off bytes, spPoison := setDel d.spPoison (off / 8) } else d
  else { d with sp := memPut d.sp off bytes }

end Sys2Proof.Machine
end

