-- ==== Sys2Proof/Machine/Ops.lean ====
section
/-! DEFINITION. The named operations of the machine: registers and their visibility (R61, R62), runs (R60–R64), code
lines and transfer targets (R45–R50, R75, R76), trap entry and return (R278–R281), strand transitions (R101–R105),
the end of rows and packs (R141, R280, R361, R389). -/
namespace Sys2Proof.Machine

/-! ## Registers -/

/-- Whether the instruction now executing runs interlocked (R64, R80). -/
def State.interlocked (s : State) (a : Agent) : Bool :=
  s.fetch.adtan || s.fetch.sub || (s.row a.pr.1 a.pr.2).mode.now

/-- The value of an integer register: x or g, register 0 reading zero (R54, R117). -/
def State.intReg (s : State) (a : Agent) (n : BitVec 6) : BitVec 64 :=
  if n = 0 then 0
  else
    match a with
    | .control p r => (s.row p r).x.toList.getD n.toNat 0
    | .strand p r k => (s.strand p r k).g[n.toNat]

/-- The value of a predicate register, p0 reading all ones (R54). -/
def State.predReg (s : State) (a : Agent) (n : BitVec 5) : BitVec 64 :=
  if n = 0 then BitVec.allOnes 64
  else
    match a with
    | .control p r => (s.row p r).p[n.toNat]
    | .strand p r k => (s.strand p r k).p[n.toNat]

/-- Replace an element of a register file; an index beyond it changes nothing. -/
def setReg {n : Nat} (v : Vector (BitVec 64) n) (i : Nat) (w : BitVec 64) : Vector (BitVec 64) n :=
  v.setIfInBounds i w

/-- A load whose base register is written depends on what writes it: no earlier read of it stands (R335). -/
def State.forgetBase (s : State) (a : Agent) : RegName → State
  | .int i => s.forget fun e => decide (e.agent = a ∧ e.base = some i)
  | .pred _ => s

/-- Replace a register of a thread; a write to register 0 is discarded (R54), and a poisoned register written is poisoned no
more (R296). -/
def State.regPut (s : State) (a : Agent) (n : RegName) (v : BitVec 64) : State :=
  match a, n with
  | .control p r, .int i => if i = 0 then s else s.modRow p r fun w => { w with x := setReg w.x i.toNat v, bad := w.bad.erase n }
  | .control p r, .pred i => if i = 0 then s else s.modRow p r fun w => { w with p := setReg w.p i.toNat v, bad := w.bad.erase n }
  | .strand p r k, .int i =>
    if i = 0 then s else s.modStrand p r k fun t => { t with g := setReg t.g i.toNat v, bad := t.bad.erase n }
  | .strand p r k, .pred i =>
    if i = 0 then s else s.modStrand p r k fun t => { t with p := setReg t.p i.toNat v, bad := t.bad.erase n }

/-- Write a register of a thread, and with it what depends on it (R54, R335). -/
def State.putReg (s : State) (a : Agent) (n : RegName) (v : BitVec 64) : State := (s.forgetBase a n).regPut a n v

/-- The current value of a register by name. -/
def State.regNow (s : State) (a : Agent) : RegName → BitVec 64
  | .int n => s.intReg a n
  | .pred n => s.predReg a n

/-- A slot for the free choice of a register read (R61). -/
def RegName.slot : RegName → Nat
  | .int n => 300 + n.toNat
  | .pred n => 400 + n.toNat

/-- The values a read of a register may return besides the current one (R61): those owed results of the same run
replaced. None in interlocked mode (R64). -/
def State.olds (s : State) (a : Agent) (n : RegName) : List (BitVec 64) :=
  if s.interlocked a then []
  else (s.thread a).run.owed.filterMap fun x => if x.1 = n then some x.2 else none

/-- What a read of a register returns (R61). -/
def State.readReg (s : State) (a : Agent) (n : RegName) : BitVec 64 :=
  match s.olds a n with
  | [] => s.regNow a n
  | l => l.getD (s.pick n.slot (l.length + 1)) (s.regNow a n)

/-- Read an integer register, and a predicate (R61, R117). -/
def State.int (s : State) (a : Agent) (n : BitVec 6) : BitVec 64 := s.readReg a (.int n)
def State.pred (s : State) (a : Agent) (n : BitVec 5) : BitVec 64 := s.readReg a (.pred n)

/-- Read an x register of a C-kind instruction. -/
def State.xr (s : State) (a : Agent) (n : BitVec 5) : BitVec 64 := s.int a (n.setWidth 6)

/-- Write a result that the next instruction of the run sees (R61). -/
def State.writeNow (s : State) (a : Agent) (n : RegName) (v : BitVec 64) : State :=
  (s.putReg a n v).modThread a fun t => { t with run := { t.run with owed := t.run.owed.filter fun x => x.1 ≠ n } }

/-- Write a result that only later runs are sure to see (R61). -/
def State.writeLate (s : State) (a : Agent) (n : RegName) (v : BitVec 64) : State :=
  if s.interlocked a || n = .int 0 || n = .pred 0 then s.putReg a n v
  else
    let old := s.regNow a n
    (s.putReg a n v).modThread a fun t => { t with run := { t.run with owed := t.run.owed ++ [(n, old)] } }

/-- Write the x result of a C-kind instruction (R61). -/
def State.setX (s : State) (a : Agent) (n : BitVec 5) (v : BitVec 64) : State := s.writeLate a (.int (n.setWidth 6)) v

/-! ## Runs -/

/-- Add to a 16-bit saturating count. -/
def satInc (n : Nat) : Nat := if n < 65535 then n + 1 else n

/-- Whether an agent's stream reports for its group: the control thread, a LOOSE strand, or the lowest member. -/
def State.leadsStream (s : State) (a : Agent) : Bool :=
  match a with
  | .control .. => true
  | .strand p r k =>
    let t := s.strand p r k
    decide (t.state ≠ .lockstep) ||
      (((s.row p r).strands.take k).all fun u => !(decide (u.state = .lockstep) && decide (u.group = t.group)))

/-- A filter of R456 against a row. -/
def filterMatches (f : Filter) (s : State) (p r : Nat) : Bool :=
  (f.packId.all fun x => decide ((s.pack p).packId = x)) && (f.rowId.all fun x => decide (r = x)) &&
  (f.launchId.all fun x => decide ((s.launch (s.pack p).launch).lid = x)) &&
  (f.queue.all fun x => decide ((s.launch (s.pack p).launch).queue = x))

/-- Append a record to a buffer in memory, or report that it is full (R463). -/
def State.appendRecord (s : State) (base size written : Nat) (words : List (BitVec 64)) : Option State :=
  let off := Config.bufferHeader + written
  if off + 8 * words.length ≤ size then
    some { s with mem := memPut s.mem (base + off) (words.flatMap fun w => leBytes 8 w.toNat) }
  else none

/-- The packs with rows on a core, as a brace's follower core too (R180). -/
def Pack.on (k : Pack) (c : Nat) : Bool :=
  decide (k.life = .resident) && (decide (k.core = c) || (k.braced && decide (k.core + 1 = c)))

/-- The full-trace row of a core (R463): the matching row with a debug right whose row context is lowest. -/
def State.fullTrace (s : State) (c : Nat) : Option (Nat × Nat) :=
  match (s.core c).trace with
  | none => none
  | some t =>
    ((List.range s.packs.length).flatMap fun p =>
      if (s.pack p).on c then
        ((List.range (s.pack p).rows.length).filter fun r =>
          (s.row p r).dbg.right && filterMatches t.set.filter s p r).map fun r => (p, r)
      else []).foldl (fun best x =>
        match best with
        | none => some x
        | some b => if (s.row x.1 x.2).context < (s.row b.1 b.2).context then some x else some b) none

/-- A trace record is written, or the buffer is full: writing stops and the header's flag is set (R463). -/
def State.traceRecord (s : State) (c : Nat) (t : TraceState) (words : List (BitVec 64)) : State :=
  match s.appendRecord t.set.base t.set.size t.written words with
  | some s' => s'.modCore c fun k => { k with trace := some { t with written := t.written + 16 } }
  | none =>
    let at_ := t.set.base + Config.overflowFlag % (8 * Config.bufferHeader) / 8
    let bit := BitVec.ofNat 8 (2 ^ (Config.overflowFlag % 8))
    let s := if Config.bufferHeader = 0 ∨ t.set.size < Config.bufferHeader then s else { s with mem := memWrite s.mem at_ (memRead s.mem at_ ||| bit) }
    s.modCore c fun k => { k with trace := some { t with overflow := true } }

/-- The full-trace record of a run that ends, by the core its stream runs on (R463). -/
def State.traceRun (s : State) (a : Agent) (byWait : Bool) : State :=
  let c := s.coreOf a
  let run := (s.thread a).run
  match (s.core c).trace with
  | none => s
  | some t =>
    if decide (run.count ≠ 0) && !t.overflow && s.leadsStream a && decide (s.fullTrace c = some a.pr) then
      let w := run.start.toNat + run.count % 32 * 2 ^ 48 + (if byWait then 2 ^ 53 else 0) + run.stream * 2 ^ 54
      s.traceRecord c t [BitVec.ofNat 64 w, BitVec.ofNat 64 run.cycle]
    else s

/-- End the current run of a thread (R60, R62): its results are visible; MODE.ILKSET takes effect (R65). -/
def State.endRun (s : State) (a : Agent) (byWait : Bool) : State :=
  let s := s.traceRun a byWait
  let had := decide ((s.thread a).run.count ≠ 0)
  let s := s.modThread a fun t => { t with run := Run.empty }
  match a with
  | .control p r => s.modRow p r fun w =>
      { w with mode := { w.mode with now := w.mode.foreign || w.mode.ilkset },
               summary := { w.summary with runs := if had then satInc w.summary.runs else w.summary.runs,
                                           waits := if had && byWait then satInc w.summary.waits else w.summary.waits } }
  | .strand p r _ => if s.leadsStream a then s.modRow p r fun w =>
      { w with summary := { w.summary with runs := if had then satInc w.summary.runs else w.summary.runs,
                                           waits := if had && byWait then satInc w.summary.waits else w.summary.waits } }
    else s

/-- Whether a wait is one on a cross-lane queue, which shows in QBLK (R107). -/
def Waiting.onQueue : Waiting → Bool
  | .qsend .. => true
  | .qrecv .. => true
  | _ => false

/-- A thread keeps the instruction it waits in (R178). -/
def State.keepWait (s : State) (a : Agent) (i : Waiting) (f : Fetch) : State :=
  let s' := s.modThread a fun t => { t with waiting := some (i, f) }
  match a with
  | .control .. => s'
  | .strand p r k => s'.modStrand p r k fun t => { t with qblk := i.onQueue }

/-- A thread whose instruction must wait: its run ends before the instruction, which it keeps (R178). -/
def State.waitIn (s : State) (a : Agent) (i : Waiting) : State := (s.endRun a true).keepWait a i s.fetch

/-- The members of a strand's group, ascending: itself alone when LOOSE (R100). -/
def State.groupOf (s : State) (p r k : Nat) : List Nat :=
  let t := s.strand p r k
  if t.state = .lockstep then
    (List.range (s.row p r).strands.length).filter fun j =>
      decide ((s.strand p r j).state = .lockstep) && decide ((s.strand p r j).group = t.group)
  else [k]

/-- A thread's run ends as it leaves its stream (R105); the stream's own run goes on while others of the group are in it
(R101). -/
def State.leaveRun (s : State) (a : Agent) (byWait : Bool) : State :=
  match a with
  | .control .. => s.endRun a byWait
  | .strand p r k =>
    if (s.groupOf p r k).length ≤ 1 then s.endRun a byWait
    else s.modThread a fun t => { t with run := Run.empty }

/-- The number of a stream (R463): 0 for the control thread, else 1 + the lowest strand. -/
def State.streamOf (s : State) (a : Agent) : Nat :=
  match a with
  | .control .. => 0
  | .strand p r k => (s.groupOf p r k).headD k + 1

/-- Count an instruction in its run (R60, R63, R463), and its die as issuing (R388). -/
def State.tally (s : State) (a : Agent) : State :=
  (s.modThread a fun t =>
    { t with run := { t.run with count := t.run.count + 1,
                                 start := if t.run.count = 0 then s.fetch.pc else t.run.start,
                                 cycle := if t.run.count = 0 then s.cycle else t.run.cycle,
                                 stream := if t.run.count = 0 then s.streamOf a else t.run.stream } }).modRow
    a.pr.1 a.pr.2 (fun w => { w with summary := { w.summary with instrs := satInc w.summary.instrs } })
  |>.modDie (dieOf (s.pack a.pr.1).core) fun d => { d with lastIssue := s.cycle }

/-- The marks that only the instruction just completed may still hold: the address not to match again where the row has
resumed (R458) — a tret has resumed it at its own target — and, for a strand, those of a wait and a break. -/
def State.clearMarks (s : State) (a : Agent) (npc : BitVec 48) : State :=
  match a with
  | .control p r => s.modRow p r fun w =>
      { w with bpSkip := w.bpSkip.filter fun x => !x.2 || (decide (x.1 = npc) && decide (s.fetch.pc ≠ npc)) }
  | .strand p r k => s.modStrand p r k fun t => { t with skip := false, qblk := false }

/-- STATUS.RUNLONG, set when a run reaches its 24th instruction unmarked and not interlocked (R63, R64). -/
def State.noteLong (s : State) (a : Agent) (long : Bool) : State :=
  s.modRow a.pr.1 a.pr.2 fun w => { w with status := if long then { w.status with runlong := true } else w.status }

/-- Whether each instruction of a thread ends its run (R64): Adtan code, or MODE.ILK. -/
def State.endsRuns (s : State) (a : Agent) : Bool := s.fetch.adtan || (s.row a.pr.1 a.pr.2).mode.now

/-- Count an instruction in its run (R60), a 24th unmarked one setting RUNLONG (R63). -/
def State.tallyLong (s : State) (a : Agent) : State :=
  let ilk := s.endsRuns a
  let s := s.tally a
  s.noteLong a (decide ((s.thread a).run.count = 24) && !s.fetch.mark && !ilk)

/-- QBLK of a strand once its queue operation is no longer blocked (R107). -/
def State.unblock (s : State) (a : Agent) : State :=
  match a with
  | .control .. => s
  | .strand p r k => s.modStrand p r k fun t => { t with qblk := false }

/-- Complete an instruction of a thread (R48, R60, R63, R64, R80): the thread moves to `npc`; a mark, interlocked mode
or the 24th instruction ends the run. A substitute before the last moves only within its sequence. -/
def State.retire (s : State) (a : Agent) (npc : BitVec 48) : State :=
  if s.fetch.sub && !s.fetch.lastSub then
    (s.modThread a fun t =>
      { t with waiting := none, patch := t.patch.map (fun q => { q with next := q.next + 1 }), begun := [] }).unblock a
  else
    let ilk := s.endsRuns a
    let s := s.tallyLong a
    let count := (s.thread a).run.count
    let s := (s.modThread a fun t => { t with pc := npc, waiting := none, patch := none, begun := [] }).clearMarks a npc
    if s.fetch.mark || ilk || decide (24 ≤ count) then s.endRun a false else s

/-- Whether a thread stands short of a run boundary: in a run, or between the substitutes of a matched instruction (R80). -/
def Thread.midRun (t : Thread) : Bool := decide (t.run.count ≠ 0) || (t.patch.isSome && t.waiting.isNone)

/-- The words of an encoding as R68 lays it out. -/
def rawWords (raw : BitVec 64) : Words :=
  { head := raw.setWidth 16, w1 := (raw >>> 16).setWidth 16, w2 := (raw >>> 32).setWidth 16, w3 := (raw >>> 48).setWidth 16 }

/-- The instruction in a latch: a substitute, or one of either code form (R67, R69, R80). -/
noncomputable def Fetch.decoded (f : Fetch) : Except Reject Instr :=
  if f.adtan && !f.sub then decodeAdtan (f.raw.setWidth 32) ((f.raw >>> 32).setWidth 32) else decode (rawWords f.raw)

/-- The fields of the instruction in a latch, before any operand has a meaning (R52, R73). -/
def Fetch.fields (f : Fetch) : Option Enc :=
  if f.adtan && !f.sub then
    (formatOf ((f.raw >>> 25).setWidth 7)).bind fun fmt => adtanFields fmt (f.raw.setWidth 32) ((f.raw >>> 32).setWidth 32)
  else (formatOf ((f.raw >>> 6).setWidth 7)).map fun fmt => fieldsOf fmt (rawWords f.raw)

/-- The next address in sequence (R48, R75). -/
def State.next (s : State) : BitVec 48 := s.fetch.npc

/-! ## Code lines -/

/-- The 16-bit word at a byte offset of a line. -/
def lineWord (b : List (BitVec 8)) (off : Nat) : BitVec 16 := b.getD (off + 1) 0 ++ b.getD off 0

/-- N of a line's head (R45). -/
def lineCount (b : List (BitVec 8)) : Nat := (lineWord b 0).toNat / 2 ^ 11

/-- The tail bytes of slots 1 … i together (R46). -/
def tailBytes (b : List (BitVec 8)) : Nat → Nat
  | 0 => 0
  | i + 1 => tailBytes b i + 2 * ((lineWord b (2 * (i + 1))).toNat / 2 ^ 14)

/-- Why a line is illegal, if it is (R47). -/
def lineReason (b : List (BitVec 8)) (strand : Bool) : Option Nat :=
  let n := lineCount b
  if n = 0 then some 1
  else if (lineWord b 0).toNat % 2 ^ 10 ≠ 0 then some 2
  else if 64 < 2 * (n + 1) + tailBytes b n then some 3
  else if !((b.drop (2 * (n + 1))).take (64 - tailBytes b n - 2 * (n + 1))).all fun x => decide (x = 0) then some 4
  else if (lineWord b 0).getLsbD 10 ≠ strand then some 5
  else none

/-- The encoding at a slot, as R68 lays it out: head, w1, w2, w3, absent words zero (R46). -/
def slotWords (b : List (BitVec 8)) (i : Nat) : BitVec 64 :=
  let head := lineWord b (2 * i)
  let t := head.toNat / 2 ^ 14
  let off := 64 - tailBytes b i
  let w := fun (k : Nat) => if k ≤ t then lineWord b (off + 2 * (k - 1)) else 0
  w 3 ++ w 2 ++ w 1 ++ head

/-- Sign-extend a 48-bit address (R49). -/
def va64 (pc : BitVec 48) : BitVec 64 := pc.signExtend 64

/-- The line a native address lies in. -/
def lineAddr (pc : BitVec 48) : BitVec 48 := pc &&& ~~~0x3F#48

/-- Read `n` bytes of code at a virtual address (R406): 0x06, 0x07 or 0x0A when it cannot be read. -/
def State.fetchBytes (s : State) (a : Agent) (user : Bool) (va : BitVec 64) (n : Nat) :
    Access (List (BitVec 8) × State) :=
  if !canonical va then .error (0x07, s)
  else
    match s.translateAt (s.coreOf a) (s.pack a.pr.1).ctx va .fetch user with
    | .error c => .error (c, s)
    | .ok (xl, s) =>
      if s.poisoned xl then .error (0x0A, s)
      else if xl.tdev ≠ 0 then
        .ok ((List.range n).flatMap fun i => if i % 8 = 0 then leBytes 8 (Config.freeWord s.nonce (500 + i)).toNat else [],
             s.sendRead (s.pack a.pr.1).part xl n)
      else .ok (if xl.nc then memBytes s.mem xl.pa n else s.seenBytes a xl.pa n, s)

/-! ## Transfers -/

/-- The target an immediate names (R49; R76 in Adtan, where bits [1:0] of the offset must be zero), bit 0 the code
form. DESIGN CHOICE: TRAPVAL of trap 0x03 on an Adtan offset is this target with the code form's bit 0 set (log 120). -/
def State.immTarget (s : State) (imm : BitVec 64) : BitVec 64 :=
  let pc := va64 s.fetch.pc
  if s.fetch.adtan then pc + imm
  else (pc &&& ~~~0x3F#64) + (imm.sshiftRight 5) * 64 + 2 * (imm &&& 0x1F)

/-- Whether an immediate target breaks R76's alignment. -/
def State.immBad (s : State) (imm : BitVec 64) : Bool := s.fetch.adtan && decide (imm &&& 3 ≠ 0)

/-- Check a transfer target (R49, R75, R406): canonical; in Adtan bit 1 clear; in native code a slot of the target line.
The line of either form must be readable (R281, R406). -/
def State.checkTarget (s : State) (a : Agent) (t : BitVec 64) (user : Bool) : Access State :=
  if !canonical t then .error (0x03, s)
  else if t.getLsbD 0 then
    if t.getLsbD 1 then .error (0x03, s)
    else
      match s.fetchBytes a user (t - 1) 4 with
      | .error c => .error c
      | .ok (_, s) => .ok s
  else
    let slot := t.toNat / 2 % 32
    if slot = 0 then .error (0x03, s)
    else
      match s.fetchBytes a user (t &&& ~~~0x3F#64) 2 with
      | .error c => .error c
      | .ok (b, s) => if lineCount b < slot then .error (0x03, s) else .ok s

/-- Whether an agent is a strand. -/
def isStrand : Agent → Bool
  | .control .. => false
  | .strand .. => true

/-- The Adtan address that a native address of a translation in force stands for, and whether that instruction is left to Adtan (R452). -/
def State.adtanOf (s : State) (ctx : Nat) (strand : Bool) (pc : BitVec 48) : Option (BitVec 48 × Bool) :=
  s.built.findSome? fun b =>
    if b.ctx = ctx ∧ b.strand = strand then (b.map.find? fun m => m.2 = pc).map fun m => (m.1, b.exits.contains m.1) else none

/-- Whether a translated function still has, for a thread, the Adtan bytes it was built from. -/
def State.textStands (s : State) (a : Agent) (b : Built) : Bool :=
  (List.range (b.size / 4)).all fun i =>
    match s.fetchBytes a (s.userMode a) (va64 b.start + BitVec.ofNat 64 (4 * i)) 4 with
    | .ok (x, _) => decide (x = (b.text.drop (4 * i)).take 4)
    | .error _ => false

/-- The address at which an Adtan thread goes on at a safe point (R77, R452): the native translation's, where one of its context's
functions in force, built for its kind of thread, maps it. Once the function's bytes have changed, whether it follows the old ones
or the new is a free choice until the function is built again (R453). -/
def State.safePoint (s : State) (a : Agent) (npc : BitVec 48) : BitVec 48 :=
  if npc.getLsbD 0 then
    match s.built.find? fun b =>
        decide (b.ctx = (s.pack a.pr.1).ctx ∧ b.digest = s.patchId ∧ b.strand = isStrand a) && !b.exits.contains npc &&
          b.map.any fun m => m.1 = npc with
    | none => npc
    | some b =>
      if s.textStands a b || decide (s.pick 9410 2 = 0) then ((b.map.find? fun m => m.1 = npc).map fun m => m.2).getD npc
      else npc
  else npc

/-- Where a transfer arrives: an Adtan thread moves at a backward target, and any thread at a call return that lands in
Adtan (R77, R452). -/
def State.arriveAt (s : State) (a : Agent) (npc : BitVec 48) (isRet : Bool) : BitVec 48 :=
  if isRet || (s.fetch.adtan && decide (npc ≤ s.fetch.pc)) then s.safePoint a npc else npc

/-! ## Barriers of ended rows, and the end of rows and packs -/

/-- Phases a row is counted as arrived for (R361, R364): AP less an arrival not yet counted. -/
def Row.counted (w : Row) (b : Nat) : BitVec 64 :=
  w.ap.getD b 0 - (if w.barArr.any fun x => x.n = b then 1 else 0)

/-- Whether phase `c` + 1 of a barrier is complete among its party rows (R361). -/
def phaseDone (rows : List Row) (b : Nat) (c : BitVec 64) : Bool :=
  (rows.all fun w => decide (w.life = .ended) || decide (c < w.counted b)) &&
  rows.any fun w => decide (w.life = .live) && decide (c < w.counted b)

/-- The litter of a pack (R385): its launch and index; none without a litter. -/
def State.litterOf (s : State) (p : Nat) : Option (Nat × Nat) :=
  let l := recLitter (s.record p)
  if l < 2 then none else some ((s.pack p).launch, (s.pack p).index.toNat / l)

/-- The packs of a pack's litter, itself alone without one (R385). -/
def State.litterPacks (s : State) (p : Nat) : List Nat :=
  match s.litterOf p with
  | none => [p]
  | some m => (List.range s.packs.length).filter fun q => decide (s.litterOf q = some m)

/-- CP of a barrier: a pack's own for 0–7, the litter's for 8–15 (R360, R362). -/
def State.cpOf (s : State) (p b : Nat) : BitVec 64 :=
  if b < 8 then (s.pack p).cp.getD b 0
  else
    match s.litterOf p with
    | none => 0
    | some (l, m) => ((tget (s.launch l).litterCp m).getD []).getD (b - 8) 0

/-- Complete the phases of every barrier of a pack and of its litter (R361). -/
def State.checkBarriers (s : State) (p : Nat) : State :=
  let s := s.modPack p fun k =>
    { k with cp := (List.range 8).map fun b =>
        let c := k.cp.getD b 0
        if phaseDone k.rows b c then c + 1 else c }
  match s.litterOf p with
  | none => s
  | some (l, m) =>
    let rows := (s.litterPacks p).flatMap fun q => (s.pack q).rows
    let old := (tget (s.launch l).litterCp m).getD (List.replicate 8 0)
    s.modLaunch l fun k =>
      { k with litterCp := tset k.litterCp m ((List.range 8).map fun b =>
          let c := old.getD b 0
          if phaseDone rows (b + 8) c then c + 1 else c) }

/-- Record a pack's failure once, in the order of failing (R391). -/
def State.failPack (s : State) (p : Nat) (f : PackFail) : State :=
  s.modLaunch (s.pack p).launch fun l =>
    if l.fails.any fun x => x.index = f.index then l else { l with fails := l.fails ++ [f] }

/-- A pack ends and its resources are free (R389); what stays of its sides serves the transfers that had started (R240). -/
def State.endPack (s : State) (p : Nat) : State :=
  if (s.pack p).life = .ended then s
  else
    (s.modPack p fun k => { k with life := .ended, rings := List.replicate 8 none, latch := none }).modLaunch
      (s.pack p).launch fun l => { l with ended := l.ended + 1 }

/-- A queued store without its elements on versioned pages: what an aborted transaction leaves of it (R436). -/
def VOp.untentative (op : VOp) : VOp :=
  match op with
  | .store k vd acc => .store k vd (acc.filter fun x => !x.xl.vers)
  | .storeX vd acc stopped => .storeX vd (acc.filter fun x => !x.xl.vers) stopped
  | op => op

/-- A row without the vector-queue entry that its control thread waits with (R170). -/
def Row.unslotted (w : Row) : Row := { w with vq := w.vq.filter fun x => decide (x.op ≠ .slot) }

/-- Whether the control thread holds the vector-queue entry of the instruction it waits in. -/
def Row.slotHeld (w : Row) : Bool := w.vq.any fun x => decide (x.op = .slot)

/-- A row ends for the rest of the launch (R141, R436, R389): an open transaction is aborted with what is queued of it; the pack
ends with its last row, unless it must first commit (R440). -/
def State.endRow (s : State) (p r : Nat) : State :=
  let s := s.modRow p r fun w =>
    { w with life := .ended, tx := none, txstart := 0,
             vq := if w.tx.isSome then w.unslotted.vq.map fun x => { x with op := x.op.untentative } else w.unslotted.vq,
             thread := { w.thread with waiting := none, run := Run.empty } }
  let s := s.checkBarriers p
  let k := s.pack p
  if k.rows.all fun w => decide (w.life = .ended) then
    match k.ospec with
    | some o => if o.serial then s.endPack p else s
    | none => s.endPack p
  else s

/-! ## Trap entry and return -/

/-- Whether the handler cannot be entered (R280), and the state, in which the walk has set A (R402). -/
def State.handlerBad (s : State) (p r : Nat) : Bool × State :=
  let h := (s.row p r).haddr
  if h = 0 then (true, s)
  else
    match s.fetchBytes (.control p r) false (va64 (lineAddr h)) 64 with
    | .error c => (true, c.2)
    | .ok (b, s) =>
      let slot := h.toNat / 2 % 32
      (decide (slot = 0) || decide (lineCount b < slot) || (lineReason b false).isSome, s)

/-- The TRAPCAUSE word (R282). -/
def TrapRegs.word (t : TrapRegs) : BitVec 64 :=
  BitVec.ofNat 64 (t.cause.toNat + (if t.nest then 256 else 0) + (if t.mcovf then 512 else 0))

/-- Write the trap registers (R279, R282). -/
def State.trapRegs (s : State) (p r : Nat) (cause : BitVec 8) (pc : BitVec 48) (val : BitVec 64) (elem : BitVec 13) :
    State :=
  s.modRow p r fun w =>
    { w with trap := { w.trap with cause := cause, nest := w.status.intrap, pc := pc, val := val, elem := elem } }

/-- A control thread takes a trap (R278, R279): an instruction that waits for the lanes gives its entry back, the run ends, the trap registers are written, PMODE := CMODE, CMODE := 1,
INTRAP := 1, and execution continues at HADDR. Where it cannot be delivered, the row ends and the pack's failure is
recorded (R280). -/
def State.takeTrap (s : State) (p r : Nat) (cause : BitVec 8) (pc : BitVec 48) (val : BitVec 64) (elem : BitVec 13) :
    State :=
  let s := (s.endRun (.control p r) false).modRow p r Row.unslotted
  let s := s.trapRegs p r cause pc val elem
  let (bad, s) := s.handlerBad p r
  if bad then
    let w := s.row p r
    let s := s.failPack p { index := (s.pack p).index, code := 1, tcause := w.trap.word, tpc := w.trap.pc.setWidth 64 }
    s.endRow p r
  else
    s.modRow p r fun w =>
      { w with status := { w.status with pmode := w.status.cmode, cmode := .supervisor, intrap := true },
               bpSkip := w.bpSkip.map fun x => (x.1, false),
               thread := { w.thread with pc := w.haddr, line := none, waiting := none, patch := none, begun := [] } }

/-- A debug break at a control thread (R458, R459): with CATCH it halts the row, else it enters the handler. A comparator's
match exempts its instruction from matching once the row resumes there. DESIGN CHOICE: CATCH acts with the value it
holds at the break, also in the run that wrote it (R152; log 121). -/
def State.debugBreak (s : State) (p r : Nat) (cause : BitVec 8) (pc : BitVec 48) (val : BitVec 64) (elem : BitVec 13) :
    State :=
  let halts := (s.row p r).dbg.catch_
  let s := if cause = 0x0E ∧ val ≠ 0 then s.modRow p r fun w => { w with bpSkip := (pc, halts) :: w.bpSkip } else s
  if halts then
    let s := ((s.endRun (.control p r) false).modRow p r Row.unslotted).trapRegs p r cause pc val elem
    s.modRow p r fun w =>
      { w with dbg := { w.dbg with halted := true }, thread := { w.thread with waiting := none, patch := none, begun := [] } }
  else s.takeTrap p r cause pc val elem

/-! ## Strand transitions -/

/-- Form one group of strands (R100). -/
def State.formGroup (s : State) (p r : Nat) (l : List Nat) (f : Strand → Strand) : State :=
  let g := (s.row p r).nextGroup
  let s := l.foldl (fun s k => s.modStrand p r k fun t => { f t with state := .lockstep, group := g }) s
  s.modRow p r fun w => { w with nextGroup := g + 1 }

/-- Whether some strands hold the same snapshot of the line they stand in (R50). DESIGN CHOICE: a group released from a leash whose
members do not enters the line anew, as one stream (log 148). -/
def State.oneSnapshot (s : State) (p r : Nat) (l : List Nat) : Bool :=
  let snap := fun (k : Nat) =>
    let t := (s.strand p r k).thread
    t.line.filter fun x => decide (x.addr = lineAddr t.pc)
  l.all fun k => decide (some (snap k) = l.head?.map snap)

/-- Release the HELD strands of one leash value if R103 lets them go. -/
def State.release (s : State) (p r : Nat) (leash : BitVec 48) : State :=
  let strands := (s.row p r).strands
  let free := strands.all fun t =>
    decide (t.leash ≠ leash) || decide (t.state = .held) || decide (t.state = .idle) || decide (t.state = .halted)
  let held := (List.range strands.length).filter fun k =>
    let t := s.strand p r k
    decide (t.state = .held ∧ t.leash = leash)
  if leash ≠ 0 && free && !held.isEmpty then
    let keep := s.oneSnapshot p r held
    s.formGroup p r held fun t =>
      { t with leash := 0, thread := { t.thread with run := Run.empty, waiting := none, line := if keep then t.thread.line else none } }
  else s

/-- R103 applied to every leash value held. -/
def State.releaseAll (s : State) (p r : Nat) : State :=
  ((s.row p r).strands.map fun t => t.leash).eraseDups.foldl (fun s l => s.release p r l) s

/-- FAULT (R101, R111): the strand stops at its instruction with its fault recorded. -/
def State.faultStrand (s : State) (p r k : Nat) (cause : BitVec 8) (val : BitVec 48) : State :=
  (s.leaveRun (.strand p r k) false).modStrand p r k fun t =>
    { t with state := .faulted, cause := cause, fval := val, pend := true, qblk := false,
             skip := decide (cause = 0x0E) && decide (val ≠ 0),
             thread := { t.thread with pc := s.fetch.pc, waiting := none, patch := none, line := none } }

/-- A strand leaves its stream in a state that does not issue: STOP, HALT, ARRIVE (R101, R105). -/
def State.leaveStrand (s : State) (p r k : Nat) (st : StrandState) (pc : BitVec 48) : State :=
  (s.leaveRun (.strand p r k) false).modStrand p r k fun t =>
    { t with state := st, qblk := false, skip := false,
             thread := { t.thread with pc := pc, waiting := none, patch := none } }

/-- Whether a strand of a pack stands at its leash: in a native translation it stands where the map says it does (R452). -/
def State.atLeash (s : State) (p : Nat) (t : Strand) : Bool :=
  decide (t.thread.pc = t.leash) || (s.adtanOf (s.pack p).ctx true t.thread.pc).any fun x => decide (x.1 = t.leash)

/-- The ARRIVE check after an instruction completes (R102). -/
def State.arriveCheck (s : State) (p r k : Nat) : State :=
  let t := s.strand p r k
  if (t.state = .lockstep ∨ t.state = .loose) ∧ t.leash ≠ 0 ∧ s.atLeash p t = true ∧ t.thread.patch = none then
    s.leaveStrand p r k .held t.thread.pc
  else s

/-- Whether a strand holds lanes (R191). -/
def Strand.active (t : Strand) : Bool :=
  decide (t.state = .lockstep) || decide (t.state = .loose) || decide (t.state = .held)

/-- Whether the row's strands hold the lanes: some strand is LOCKSTEP, LOOSE or HELD (R191). -/
def Row.strandsActive (w : Row) : Bool :=
  w.strands.any Strand.active

/-- Whether the lanes may execute the row's queue (R191). -/
def Row.lanesFree (w : Row) : Bool := !w.strandsActive || w.status.intrap

/-- Merge the strands' flags into FPSTATUS (R26). -/
def State.mergeFlags (s : State) (p r : Nat) : State :=
  s.modRow p r fun w =>
    { w with fp := { w.fp with flags := w.strands.foldl (fun f t => f ||| t.flags) w.fp.flags },
             strands := w.strands.map fun t => { t with flags := 0 } }

/-- No edit of a strand. -/
def StrandEdit.none : StrandEdit := { pc := Option.none, leash := Option.none, state := Option.none, clear := false, ack := false }

/-- Whether an edit wrote the strand's PC or STATE (R114). -/
def StrandEdit.moves (e : StrandEdit) : Bool := e.pc.isSome || e.state.isSome

/-- A strand with an edit's writes in it (R113, R459). -/
def Strand.withEdit (t : Strand) (e : StrandEdit) : Strand :=
  let th := match e.pc with
    | some pc => { t.thread with pc := pc, line := none, waiting := none, patch := none }
    | none => t.thread
  let th := if e.state.isSome then { th with waiting := none, run := Run.empty } else th
  let st := e.state.getD t.state
  { t with thread := th, leash := e.leash.getD t.leash, state := st, skip := t.skip && e.pc.isNone,
           qblk := t.qblk && decide (st = t.state) && e.pc.isNone,
           cause := if e.clear then 0 else t.cause, fval := if e.clear then 0 else t.fval,
           pend := t.pend && !e.clear && !e.ack }

/-- Steps 1 to 3 of R114 for one strand; `moved` is whether its PC or STATE was written, `here` whether it stands at its leash. -/
def Strand.settled (t : Strand) (moved here : Bool) : Strand :=
  let t := if moved && decide (t.state = .lockstep) then { t with state := .loose } else t
  let t := if t.state = .held && (t.leash = 0 || !here) then { t with state := .loose } else t
  if t.state = .loose && t.leash ≠ 0 && here then
    { t with state := .held, qblk := false, thread := { t.thread with waiting := none } }
  else t

/-- Edits take effect, in the order of R114, at tret and at release from a debug halt (R460). -/
def State.applyTable (s : State) (p r : Nat) (edits : Table StrandEdit) : State :=
  let s := s.modRow p r fun w =>
    { w with strands := w.strands.mapIdx fun k t =>
        let e := (tget edits k).getD StrandEdit.none
        (t.withEdit e).settled e.moves (s.atLeash p (t.withEdit e)) }
  s.releaseAll p r

/-- The handler's edits take effect (R114). -/
def State.applyEdits (s : State) (p r : Nat) : State :=
  let edits := (s.row p r).edits
  (s.modRow p r fun w => { w with edits := [] }).applyTable p r edits

/-- The lowest strand whose fault is pending (R112). -/
def Row.pendingStrand (w : Row) : Option Nat :=
  (List.range w.strands.length).find? fun k =>
    match w.strands[k]? with
    | some t => decide (t.state = .faulted) && t.pend
    | Option.none => false

end Sys2Proof.Machine
end

