-- ==== Sys2Proof/Machine/Mesh.lean ====
section
/-! DEFINITION. The package's network (R367–R374, R393): the routers of the dies, fixed routes over mesh and ring, connections, and
the slot allocator's edits. -/
namespace Sys2Proof.Machine

/-! ## Dies, routers and ports (R367) -/

/-- The place of a die on the package ring, C0 C1 IO0 C2 C3 IO1 C4 C5 IO2 C6 C7 IO3; the IO dies are dies 8 to 11 here. -/
def ringAt (d : Nat) : Nat := if d < 8 then 3 * (d / 2) + d % 2 else 3 * (d - 8) + 2

/-- The die at a place on the ring. -/
def dieAtRing (i : Nat) : Nat := if i % 3 = 2 then 8 + i / 3 else 2 * (i / 3) + i % 3

/-- The router of a core's cluster, and the mesh position of a router: x and y. -/
def routerOf (c : Nat) : Nat := c / 4 % 8
def meshX (r : Nat) : Nat := r % 4
def meshY (r : Nat) : Nat := r / 4

/-- How many routers a die has: one on an IO die. -/
def routerCount (d : Nat) : Nat := if d < 8 then 8 else 1

/-- The router that holds the ring port toward the next die, or toward the previous one: 7 and 0 on a compute die. -/
def ringRouter (d : Nat) (next : Bool) : Nat := if next && decide (d < 8) then 7 else 0

/-- A port's number among the 64 that a router's tables are kept by. -/
def Port.num : Port → Nat
  | .xUp => 0
  | .xDown => 1
  | .yUp => 2
  | .yDown => 3
  | .cluster => 4
  | .portP => 5
  | .portN => 6
  | .home => 7
  | .cache => 8
  | .fabric i => 9 + i

/-! ## Routes (R368, R393) -/

/-- The next router on the way to another of the same die: along x first, then along y. -/
def meshNext (a b : Nat) : Nat :=
  if meshX a < meshX b then a + 1 else if meshX b < meshX a then a - 1
  else if meshY a < meshY b then a + 4 else a - 4

/-- The routers passed after `a` on the way to `b`, at most `n` of them. -/
def meshPath (b : Nat) : Nat → Nat → List Nat
  | 0, _ => []
  | n + 1, a => if a = b then [] else meshNext a b :: meshPath b n (meshNext a b)

/-- The port from a router to a neighbour. -/
def meshPort (a b : Nat) : Port :=
  if meshX a < meshX b then .xUp else if meshX b < meshX a then .xDown else if meshY a < meshY b then .yUp else .yDown

/-- The way between two routers of a die under its route set: x then y, but where the set passes around a failed router. -/
def Die.path (d : Die) (a b : Nat) : List Nat := (tget d.routes (8 * a + b)).getD (meshPath b 8 a)

/-- The hops along a list of routers of one die. -/
def hopsOf (die : Nat) : Nat → List Nat → List Hop
  | _, [] => []
  | a, b :: l => { die := die, router := a, port := meshPort a b } :: hopsOf die b l

/-- A die by its number. -/
def State.dieAt (s : State) (d : Nat) : Die := s.dies.getD d Die.reset

/-- Whether the ring link from place `i` to the next is usable: its two routers stand. -/
def State.ringLink (s : State) (i : Nat) : Bool :=
  let a := dieAtRing (i % 12)
  let b := dieAtRing ((i + 1) % 12)
  !(s.dieAt a).routersFailed.contains (ringRouter a true) && !(s.dieAt b).routersFailed.contains (ringRouter b false)

/-- Whether a flit between two places of the ring goes toward PORTN: the way with fewer hops, PORTN when they are equal, and where
only one way is whole, that one. -/
def State.clockwise (s : State) (i j : Nat) : Bool :=
  let up := (j + 12 - i) % 12
  let down := (i + 12 - j) % 12
  let upOk := (List.range up).all fun k => s.ringLink (i + k)
  let downOk := (List.range down).all fun k => s.ringLink (j + k)
  if upOk && downOk then decide (up ≤ down) else upOk

/-- The hops from a router to a router in one direction of the ring, passing at most `n` dies. -/
def State.hopsTo (s : State) (next : Bool) (td tr : Nat) : Nat → Nat → Nat → List Hop
  | 0, _, _ => []
  | n + 1, d, r =>
    if d = td then hopsOf d r ((s.dieAt d).path r tr)
    else
      let out := ringRouter d next
      let e := dieAtRing ((ringAt d + (if next then 1 else 11)) % 12)
      hopsOf d r ((s.dieAt d).path r out) ++ [{ die := d, router := out, port := if next then .portN else .portP }] ++
        s.hopsTo next td tr n e (ringRouter e !next)

/-- The fixed route from a router to a destination port, the port itself its last hop. -/
def State.route (s : State) (d r : Nat) (dst : Hop) : List Hop :=
  s.hopsTo (s.clockwise (ringAt d) (ringAt dst.die)) dst.die dst.router 12 d r ++ [dst]

/-! ## Connections and slots (R370, R372, R373) -/

/-- The key of a slot: router, port, slot. -/
def slotKey (x : Nat × Nat × Nat) : Nat := 4096 * x.1 + 64 * x.2.1 + x.2.2

/-- The links of a connection's route, each with its place along the route. -/
def State.connLinks (s : State) (c : Conn) : List (Hop × Nat) :=
  (c.dsts.flatMap fun d => (s.route c.src.die c.src.router d).mapIdx fun j h => (h, j)).eraseDups

/-- The connection that holds a slot of a link. -/
def State.slotHolder (s : State) (h : Hop) (b : Nat) : Option Nat :=
  tget (s.dieAt h.die).slots (slotKey (h.router, h.port.num, b % 64))

/-- Whether a connection may have slot `b` of its first link, hence slot `b + j` of its link `j`. -/
def State.slotFree (s : State) (links : List (Hop × Nat)) (b : Nat) : Bool :=
  links.all fun x => (s.slotHolder x.1 (b + x.2)).isNone

/-- Write a connection's slots into the routers' tables. -/
def State.laySlots (s : State) (c : Conn) : State :=
  (s.connLinks c).foldl (fun (s : State) x => s.modDie x.1.die fun d =>
    { d with slots := c.slots.foldl (fun t b => tset t (slotKey (x.1.router, x.1.port.num, (b + x.2) % 64)) c.id) d.slots }) s

/-- A connection of `k` slots is set up; none where a link has too few free (R373). -/
def State.connect (s : State) (owner : ConnOwner) (src : Hop) (dsts : List Hop) (k : Nat) : Option State :=
  let c : Conn := { id := s.nextConn, owner := owner, src := src, dsts := dsts, slots := [] }
  let links := s.connLinks c
  let slots := ((List.range 64).filter (s.slotFree links)).take k
  if slots.length < k then none
  else
    let c := { c with slots := slots }
    some ({ s with conns := s.conns ++ [c], nextConn := s.nextConn + 1 }.laySlots c)

/-- The cluster port of a core's router. -/
def coreHop (c : Nat) : Hop := { die := dieOf c, router := routerOf c, port := .cluster }

/-- Whether a connection is still wanted: its litter runs or has multicasts in flight, or its row's xdred stands at the head of the
queue. -/
def State.connWanted (s : State) (c : Conn) : Bool :=
  match c.owner with
  | .litter l m _ =>
    ((List.range s.packs.length).any fun p =>
      decide (s.litterOf p = some (l, m) ∧ (s.pack p).life = .resident) && (s.pack p).started) ||
    s.copies.any fun t => decide (t.life = .started ∧ 4 ≤ t.regs.dir ∧ s.litterOf t.pack = some (l, m))
  | .collective p r seq =>
    decide ((s.pack p).life = .resident) && ((s.row p r).vq.head?).any fun x => decide (x.seq = seq)

/-- The connections that are no longer wanted leave every table (R373). -/
def State.sweepConns (s : State) : State :=
  let kept := s.conns.filter s.connWanted
  { s with conns := kept,
           dies := s.dies.map fun d => { d with slots := d.slots.filter fun x => kept.any fun c => decide (c.id = x.2) } }

/-- The slot allocators put a partition's share into the rotation of the free slots, or take it out (R373, R374). -/
def State.editRotation (s : State) (part : Nat) (share : Option Nat) : State :=
  { s with dies := s.dies.map fun d =>
      { d with rotation := match share with
          | some n => tset d.rotation part n
          | none => tdel d.rotation part } }

/-- A connection takes as many of its slots as are free on every link, at least one; with none free it waits (R373, R393). -/
def State.connectAgain (s : State) (c : Conn) : State :=
  let c := { c with slots := ((List.range 64).filter (s.slotFree (s.connLinks c))).take (Nat.max 1 c.slots.length) }
  { s with conns := s.conns ++ [c] }.laySlots c

/-- The connections that wait for slots are tried again. -/
def State.serveConns (s : State) : State :=
  let waiting := s.conns.filter fun c => c.slots.isEmpty
  waiting.foldl (fun (s : State) c => s.connectAgain c) { s with conns := s.conns.filter fun c => !c.slots.isEmpty }

/-- The connections of a litter leave every table. -/
def State.dropLitter (s : State) (l m : Nat) : State :=
  let mine := fun (c : Conn) => match c.owner with
    | .litter l' m' _ => decide (l' = l ∧ m' = m)
    | .collective .. => false
  let kept := s.conns.filter fun c => !mine c
  { s with conns := kept,
           dies := s.dies.map fun d => { d with slots := d.slots.filter fun x => kept.any fun c => decide (c.id = x.2) } }

/-! ## Failed routers (R393) -/

/-- Whether the router of a core's cluster, or a ring port of its die, has failed: the core takes no pack. -/
def State.routerOut (s : State) (c : Nat) : Bool :=
  let d := s.dieAt (dieOf c)
  d.routersFailed.contains 0 || d.routersFailed.contains 7 || d.routersFailed.contains (routerOf c)

/-- The ways between two routers through the mesh that visit no router twice and none of `bad`. -/
def meshWays (bad : List Nat) (b : Nat) : Nat → Nat → List (List Nat)
  | 0, _ => []
  | n + 1, a =>
    if a = b then [[]]
    else
      ((List.range 8).filter fun c =>
          !bad.contains c && decide ((meshY c = meshY a ∧ (meshX c = meshX a + 1 ∨ meshX a = meshX c + 1)) ∨
            (meshX c = meshX a ∧ meshY c ≠ meshY a))).flatMap fun c =>
        (meshWays (a :: bad) b n c).map fun l => c :: l

/-- A route set that passes around a die's failed routers: where x then y would meet one, some other way. -/
def State.newRoutes (s : State) (d : Nat) : Table (List Nat) :=
  let bad := (s.dieAt d).routersFailed
  (List.range 64).foldl (fun t k =>
    let a := k / 8
    let b := k % 8
    if bad.contains a || bad.contains b || (meshPath b 8 a).all (fun r => !bad.contains r) then t
    else
      let ways := meshWays bad b 8 a
      match ways[s.pick (9100 + k) ways.length]? with
      | some l => tset t k l
      | none => t) []

/-- A die's new route set is installed, and every connection is created again over the routes as they now stand; one that finds no slot
waits for it. -/
def State.reroute (s : State) (d : Nat) : State :=
  let s1 := s.modDie d fun x => { x with routes := s.newRoutes d, rerouted := x.routersFailed }
  let s2 : State := { s1 with conns := [], dies := s1.dies.map fun d => { d with slots := [] } }
  s1.conns.foldl (fun (s : State) c => s.connectAgain c) s2

end Sys2Proof.Machine
end

