-- ==== Sys2Proof/Machine/Sregs.lean ====
section
/-! DEFINITION. The status registers (R4, R25, R65, R113, R150, R160–R163, R184–R187, R230, R281, R282, R289, R427,
R441, R442, R455): the word each reads, the effect of a write, which accesses a mode may make, and what an instruction
of the same run sees (R152). -/
namespace Sys2Proof.Machine

/-- One bit at a place. -/
def bitAt (b : Bool) (i : Nat) : Nat := if b then 2 ^ i else 0

def CMode.code : CMode → Nat
  | .user => 0 | .supervisor => 1 | .firmware => 2

def StrandState.code : StrandState → Nat
  | .idle => 0 | .lockstep => 1 | .loose => 2 | .held => 3 | .faulted => 4 | .halted => 5

/-- The state a saved STATE value restores: 6 and 7 as IDLE (R295). -/
def StrandState.ofCode (n : Nat) : StrandState :=
  if n = 1 then .lockstep else if n = 2 then .loose else if n = 3 then .held else if n = 4 then .faulted
  else if n = 5 then .halted else .idle

/-- The STATUS word (R184). -/
def Status.word (t : Status) (prio : BitVec 3) : Nat :=
  prio.toNat * 2 ^ 12 + bitAt t.runlong 8 + bitAt t.saoff 7 + t.cmode.code * 16 + t.pmode.code * 4 + bitAt t.intrap 1

/-- The FPSTATUS word (R25). -/
def FpStatus.word (f : FpStatus) : Nat := f.excsel.toNat * 2 ^ 16 + f.flags.toNat * 2 ^ 8 + f.rm.toNat

/-- The WIDTH word (R160). -/
def Width.word (w : Width) : Nat := bitAt w.braced 16 + w.req.toNat * 256 + w.grant.toNat

/-- The VTYPE word (R163). -/
def VType.word (t : VType) : Nat := bitAt t.bs 4 + t.g.toNat * 4 + t.ew.toNat

/-- The CPFMT word (R230). -/
def CopyRegs.fmt (c : CopyRegs) : Nat :=
  c.aring.toNat * 2 ^ 25 + bitAt c.arr 24 + c.rc.toNat * 2 ^ 16 + c.mfmt.toNat * 2 ^ 8 + c.esize.toNat * 16 + c.dir.toNat

/-- The copy register with a number (R230). -/
def CopyRegs.word (c : CopyRegs) (n : Nat) : Nat :=
  match n with
  | 0x20 => c.src.toNat
  | 0x21 => c.dst.toNat
  | 0x22 => c.rows.toNat * 2 ^ 16 + c.cols.toNat
  | 0x23 => c.sstride.toNat * 2 ^ 32 + c.dstride.toNat
  | 0x24 => c.fmt
  | 0x25 => c.tl.toNat
  | 0x26 => c.inc.toNat
  | 0x27 => c.gate.toNat
  | 0x28 => c.gval.toNat
  | _ => 0

/-- A write of a copy register (R230). -/
def CopyRegs.put (c : CopyRegs) (n : Nat) (v : BitVec 64) : CopyRegs :=
  match n with
  | 0x20 => { c with src := v }
  | 0x21 => { c with dst := v }
  | 0x22 => { c with rows := (v >>> 16).setWidth 16, cols := v.setWidth 16 }
  | 0x23 => { c with sstride := (v >>> 32).setWidth 32, dstride := v.setWidth 32 }
  | 0x24 => { c with aring := (v >>> 25).setWidth 3, arr := v.getLsbD 24, rc := (v >>> 16).setWidth 8,
                     mfmt := (v >>> 8).setWidth 2, esize := (v >>> 4).setWidth 2, dir := v.setWidth 3 }
  | 0x25 => { c with tl := v }
  | 0x26 => { c with inc := v }
  | 0x27 => { c with gate := v }
  | 0x28 => { c with gval := v }
  | _ => c

/-- The STRANDSTATE word of a strand (R113). -/
def Strand.word (t : Strand) : Nat :=
  t.fval.toNat * 2 ^ 16 + t.cause.toNat * 256 + bitAt t.pend 7 + bitAt t.idem 6 + bitAt t.qblk 5 + bitAt t.skip 4 +
    t.state.code

/-- The PREEMPT word (R289). -/
def Preempt.word (q : Preempt) : Nat :=
  q.tforce.toNat * 2 ^ 12 + bitAt q.park 2 + bitAt q.forced 1 + bitAt q.req 0

/-- The MODE word (R65). -/
def ModeReg.word (m : ModeReg) : Nat := bitAt m.foreign 2 + bitAt m.ilkset 1 + bitAt (m.foreign || m.ilkset) 0

/-- The DEBUGRIGHT word (R455). -/
def DebugRight.word (d : DebugRight) (trace : Bool) : Nat :=
  bitAt d.halted 3 + bitAt d.catch_ 2 + bitAt trace 1 + bitAt d.right 0

/-- The device's family (R441). -/
def deviceFamily : Nat := 0x0880

/-- The STEPPING word (R441). -/
def steppingWord : Nat := deviceFamily * 2 ^ 48 + Config.fuseStep.toNat * 2 ^ 40

/-- The LANEMAP word of a core (R166). -/
def Core.laneMap (c : Core) : Nat := c.retire.toNat * 2 ^ 32 + c.healthy.toNat

/-- A strand as a handler reads it: with the handler's own edits (R113). -/
def Row.edited (w : Row) (k : Nat) (t : Strand) : Strand := t.withEdit ((tget w.edits k).getD StrandEdit.none)

/-- STRANDPC, STRANDLEASH and STRANDSTATE of strand `k` (R113): 0 where there is no such strand. -/
def State.strandWord (s : State) (p r k n : Nat) : Nat :=
  match (s.row p r).strands[k]? with
  | none => 0
  | some t =>
    let t := (s.row p r).edited k t
    if n = 0x031 then t.thread.pc.toNat else if n = 0x032 then t.leash.toNat else t.word

/-- A strand's registers as they stand (R113). -/
def Strand.sampled (t : Strand) : StrandSample :=
  { pc := t.thread.pc, leash := t.leash, word := BitVec.ofNat 64 t.word }

/-- A sampled value of STRANDPC, STRANDLEASH or STRANDSTATE. -/
def StrandSample.get (x : StrandSample) (n : Nat) : BitVec 64 :=
  if n = 0x031 then x.pc.setWidth 64 else if n = 0x032 then x.leash.setWidth 64 else x.word

/-- What a read made outside a handler returns (R113): the sampled value or the present one. -/
def State.strandSeen (s : State) (p r k n : Nat) : BitVec 64 :=
  let t := s.strand p r k
  (if s.pick (600 + n) 2 = 0 then t.sampled else t.sample).get n

/-- A strand's registers are sampled (R113). -/
def State.sampleStrand (s : State) (p r k : Nat) : State := s.modStrand p r k fun t => { t with sample := t.sampled }

/-- An identity register: the value placement gave, unless an edited image has changed it (R295). -/
def Row.idWord (w : Row) (n placed : Nat) : Nat :=
  match tget w.ids n with
  | some v => v.toNat
  | Option.none => placed

/-- The value a status register holds (R150), as Nat; unallocated numbers and CPGO give 0. -/
def State.srNat (s : State) (p r n : Nat) : Nat :=
  let w := s.row p r
  let k := s.pack p
  let l := s.launch k.launch
  match n with
  | 0x000 => w.status.word (BitVec.ofNat 3 (w.idWord 0 k.prio.toNat))
  | 0x001 => w.trap.word.toNat
  | 0x002 => w.trap.pc.toNat
  | 0x003 => w.trap.val.toNat
  | 0x004 => w.trap.elem.toNat
  | 0x005 => w.vstart.toNat
  | 0x006 => w.vl.toNat
  | 0x007 => w.vtype.word
  | 0x008 => w.width.word
  | 0x009 => w.rowmask.toNat
  | 0x00A => w.fp.word
  | 0x00B => w.snap.toNat
  | 0x00C => w.txstart.toNat
  | 0x00D => s.cycle % 2 ^ 64
  | 0x00E => w.haddr.toNat
  | 0x00F => w.scratch.toNat
  | 0x010 => w.idWord 0x010 k.packId.toNat
  | 0x011 => w.idWord 0x011 r
  | 0x012 => k.core
  | 0x013 => w.idWord 0x013 l.lid.toNat
  | 0x014 => w.idWord 0x014 k.index.toNat
  | 0x015 => w.idWord 0x015 ((recWord l.rec_ 3).toNat % 2 ^ 32)
  | 0x016 => w.idWord 0x016 ((recWord l.rec_ 1).toNat % 2 ^ 48)
  | 0x017 => k.units * 2 ^ 24 + k.base.toNat
  | 0x02A => w.copyErr.tid.toNat * 2 ^ 32 + bitAt w.copyErr.valid 8 + w.copyErr.cause.toNat
  | 0x030 => w.strandsel.toNat
  | 0x031 => s.strandWord p r w.strandsel.toNat n
  | 0x032 => s.strandWord p r w.strandsel.toNat n
  | 0x033 => s.strandWord p r w.strandsel.toNat n
  | 0x040 => 0x4B52 * 2 ^ 48 + 0x0880 * 2 ^ 32 + Config.fuseSerial.toNat
  | 0x041 => steppingWord
  | 0x042 => Config.romFirmware.toNat % 2 ^ 48
  | 0x043 => s.patchId.toNat % 2 ^ 64
  | 0x044 => s.patchId.toNat / 2 ^ 64 % 2 ^ 64
  | 0x045 => s.patchId.toNat / 2 ^ 128 % 2 ^ 64
  | 0x046 => s.patchId.toNat / 2 ^ 192
  | 0x047 => (s.core k.core).laneMap
  | 0x048 => w.mode.word
  | 0x050 => w.preempt.word
  | 0x051 => k.kaddr.toNat
  | 0x052 => w.dbg.word (decide (s.fullTrace k.core = some (p, r)))
  | _ => if 0x20 ≤ n ∧ n ≤ 0x28 then w.copy.word n else 0

/-- The value a status register holds, as a word. -/
def State.srWord (s : State) (p r n : Nat) : BitVec 64 := BitVec.ofNat 64 (s.srNat p r n)

/-- Whether a number names a status register (R150). -/
def srAllocated (n : Nat) : Bool :=
  decide (n ≤ 0x017) || decide (0x020 ≤ n ∧ n ≤ 0x02A) || decide (0x030 ≤ n ∧ n ≤ 0x033) ||
  decide (0x040 ≤ n ∧ n ≤ 0x048) || decide (0x050 ≤ n ∧ n ≤ 0x052)

/-- Registers whose every field is for supervisor and firmware mode only (R4, R113, R187, R281, R282, R289). -/
def srAllSup (n : Nat) : Bool :=
  decide (1 ≤ n ∧ n ≤ 4) || n = 0x00E || n = 0x00F || decide (0x030 ≤ n ∧ n ≤ 0x033) || n = 0x051

/-- The PMODE a write stores (R184): 3 never, 2 only from firmware. -/
def pmodeWritten (old : CMode) (firmware : Bool) (n : Nat) : CMode :=
  if n = 0 then .user else if n = 1 then .supervisor else if n = 2 && firmware then .firmware else old

/-- Whether a user-mode setsr would change a writable "(sup)" field (R4). -/
def State.srTouchesSup (s : State) (p r n : Nat) (v : BitVec 64) : Bool :=
  let w := s.row p r
  match n with
  | 0x000 => decide (pmodeWritten w.status.pmode false (v.toNat / 4 % 4) ≠ w.status.pmode)
  | 0x048 => decide (v.getLsbD 1 ≠ w.mode.ilkset)
  | 0x050 => decide (v.toNat / 2 ^ 12 % 2 ^ 20 ≠ 0 ∧ v.toNat / 2 ^ 12 % 2 ^ 20 ≠ w.preempt.tforce.toNat)
  | 0x052 => w.dbg.right && decide (v.getLsbD 2 ≠ w.dbg.catch_)
  | _ => false

/-- The STATE value a write of STRANDSTATE leaves (R113). -/
def stateWritten (old : StrandState) (n : Nat) : StrandState :=
  if 6 ≤ n then old else if n = 1 ∨ n = 3 then .loose else StrandState.ofCode n

/-- What a write of STRANDPC, STRANDLEASH or STRANDSTATE adds to a strand's edit; `st` is the state it stood in (R113).
DESIGN CHOICE: a write of 6 or 7 to STATE, which leaves the field, counts as a write of it in R114 (log 125). -/
def StrandEdit.put (e : StrandEdit) (st : StrandState) (n : Nat) (v : BitVec 64) : StrandEdit :=
  match n with
  | 0x031 => { e with pc := some (v.setWidth 48) }
  | 0x032 => { e with leash := some (v.setWidth 48) }
  | 0x033 =>
    let new := stateWritten (e.state.getD st) (v.toNat % 8)
    { e with state := some new, clear := e.clear || decide (v.toNat % 8 < 6 ∧ new ≠ .faulted),
             ack := e.ack || v.getLsbD 7 }
  | _ => e

/-- Edit the selected strand (R113, R459): PC, leash or STATE. The edit takes effect at tret (R114). -/
def State.editStrand (s : State) (p r k n : Nat) (v : BitVec 64) : State :=
  s.modRow p r fun w =>
    let e := ((tget w.edits k).getD StrandEdit.none).put (w.strands.getD k Strand.idle).state n v
    { w with edits := tset w.edits k e }

/-- The effect of a write on a status register's fields (R4): RO fields and reserved bits stay. `sup` and `firmware`
say which "(sup)" fields the writer may change. The strand registers 0x031–0x033 are written by `editStrand`. -/
def State.srPut (s : State) (p r n : Nat) (v : BitVec 64) (sup firmware : Bool) : State :=
  match n with
  | 0x000 => s.modRow p r fun w =>
      { w with status := { w.status with
          runlong := w.status.runlong && !v.getLsbD 8, saoff := v.getLsbD 7,
          pmode := if sup then pmodeWritten w.status.pmode firmware (v.toNat / 4 % 4) else w.status.pmode } }
  | 0x001 => s.modRow p r fun w => { w with trap := { w.trap with mcovf := w.trap.mcovf && !v.getLsbD 9 } }
  | 0x002 => s.modRow p r fun w => { w with trap := { w.trap with pc := v.setWidth 48 } }
  | 0x003 => s.modRow p r fun w => { w with trap := { w.trap with val := v } }
  | 0x004 => s.modRow p r fun w => { w with trap := { w.trap with elem := v.setWidth 13 } }
  | 0x005 => s.modRow p r fun w => { w with vstart := v.setWidth 13 }
  | 0x009 => s.modRow p r fun w => { w with rowmask := v &&& BitVec.ofNat 64 (2 ^ w.width.grant.toNat - 1) }
  | 0x00A => s.modRow p r fun w =>
      { w with fp := { excsel := (v >>> 16).setWidth 5, flags := (v >>> 8).setWidth 5,
                       rm := if 1 ≤ v.toNat % 8 ∧ v.toNat % 8 ≤ 5 then v.setWidth 3 else w.fp.rm } }
  | 0x00B => s.modRow p r fun w => { w with snap := v }
  | 0x00E => s.modRow p r fun w => { w with haddr := v.setWidth 48 &&& ~~~1#48 }
  | 0x00F => s.modRow p r fun w => { w with scratch := v }
  | 0x02A => if v.getLsbD 8 then s.modRow p r fun w => { w with copyErr := { tid := 0, valid := false, cause := 0 } } else s
  | 0x030 => s.modRow p r fun w => { w with strandsel := v.setWidth 7 }
  | 0x048 => if sup then s.modRow p r fun w => { w with mode := { w.mode with ilkset := v.getLsbD 1 } } else s
  | 0x050 =>
      if sup && decide (v.toNat / 2 ^ 12 % 2 ^ 20 ≠ 0) then
        s.modPack p fun k => { k with rows := k.rows.map fun w =>
          { w with preempt := { w.preempt with tforce := (v >>> 12).setWidth 20 } } }
      else s
  | 0x052 => if sup && (s.row p r).dbg.right then
      s.modRow p r fun w => { w with dbg := { w.dbg with catch_ := v.getLsbD 2 } } else s
  | _ => if 0x20 ≤ n ∧ n ≤ 0x28 then s.modRow p r fun w => { w with copy := w.copy.put n v } else s

/-- The earlier values of a status register that an instruction of the same run may still see (R152). -/
def State.srOlds (s : State) (p r n : Nat) : List (BitVec 64) :=
  if s.interlocked (.control p r) then []
  else (s.row p r).thread.run.owedSr.filterMap fun x => if x.1 = n then some x.2 else none

/-- The bits of a status register that a write can change (R4). -/
def srMask (n : Nat) : BitVec 64 :=
  match n with
  | 0x000 => 0x18C
  | 0x001 => 0x200
  | 0x002 => 0xFFFFFFFFFFFF
  | 0x003 => BitVec.allOnes 64
  | 0x004 => 0x1FFF
  | 0x005 => 0x1FFF
  | 0x009 => BitVec.allOnes 64
  | 0x00A => 0x1F1F07
  | 0x00B => BitVec.allOnes 64
  | 0x00E => 0xFFFFFFFFFFFE
  | 0x00F => BitVec.allOnes 64
  | 0x02A => BitVec.allOnes 64
  | 0x030 => 0x7F
  | 0x048 => 3
  | 0x050 => 0xFFFFF000
  | 0x052 => 4
  | _ => if 0x20 ≤ n ∧ n ≤ 0x28 then BitVec.allOnes 64 else 0

/-- A word with the writable fields of an earlier one (R152). -/
def srMix (n : Nat) (old now : BitVec 64) : BitVec 64 := (old &&& srMask n) ||| (now &&& ~~~srMask n)

/-- The status-register word an instruction of the control thread sees (R152). -/
def State.srSeen (s : State) (p r n : Nat) : BitVec 64 :=
  let now := s.srWord p r n
  match s.srOlds p r n with
  | [] => now
  | l => ((l.map fun old => srMix n old now).getD (s.pick (600 + n) (l.length + 1)) now)

/-- Note that a setsr of the current run replaced a word (R152); a register with no writable field ignores the setsr (R150). -/
def State.srOwe (s : State) (p r n : Nat) (old : BitVec 64) : State :=
  if s.interlocked (.control p r) || decide (n < 4096 ∧ srMask n = 0) then s
  else s.modRow p r fun w =>
    { w with thread := { w.thread with run := { w.thread.run with owedSr := w.thread.run.owedSr ++ [(n, old)] } } }

end Sys2Proof.Machine
end

