-- ==== Sys2Proof/Machine/Flags.lean ====
section
/-! DEFINITION. FPSTATUS flags, rounding modes and exception masks (R19–R27, R59, R145). -/
namespace Sys2Proof.Machine

/-- The rounding mode in force for an instruction with an S field (R20): a control thread sees RM under R152, a strand
reads its row's (R98). -/
def State.mode (s : State) (a : Agent) (rm : BitVec 4) : RMode :=
  match a with
  | .control p r => rmode rm ((s.srSeen p r 0x00A).setWidth 3)
  | .strand p r _ => rmode rm (s.row p r).fp.rm

/-- EXCSEL as it stands at issue (R27, R152). -/
def State.excsel (s : State) (a : Agent) : BitVec 5 :=
  match a with
  | .control p r => (s.srSeen p r 0x00A >>> 16).setWidth 5
  | .strand p r _ => (s.row p r).fp.excsel

/-- OR flags into the row's FPSTATUS; a strand's wait to be merged (R26, R145). DESIGN CHOICE: the thread's own later getsr sees
them in the same run already (log 128). -/
def State.raise (s : State) (a : Agent) (f : Flags) : State :=
  match a with
  | .control p r => s.modRow p r fun w => { w with fp := { w.fp with flags := w.fp.flags ||| f } }
  | .strand p r k => s.modStrand p r k fun t => { t with flags := t.flags ||| f }

/-- Whether flags feed the exception mask (R27, R59). -/
def excBit (excsel : BitVec 5) (f : Flags) : Bool := decide (excsel &&& f ≠ 0)

/-- The exception mask of a scalar instruction, written after its other destinations (R59). -/
def State.excMask (s : State) (a : Agent) (x : Exc) (excsel : BitVec 5) (f : Flags) : State :=
  if x.e then s.writeLate a (.pred x.m) (if excBit excsel f then 1 else 0) else s

/-- A scalar float result: destination, flags, exception mask (R59, R61, R145). -/
def State.floatResult (s : State) (a : Agent) (x : Exc) (d : BitVec 6) (v : Nat × Flags) : State :=
  let sel := s.excsel a
  ((s.writeLate a (.int d) (BitVec.ofNat 64 v.1)).raise a v.2).excMask a x sel v.2

end Sys2Proof.Machine
end

