-- ==== Sys2Proof/Machine/Operands.lean ====
section
/-! DEFINITION. Issue of one instruction by a thread: the checks of R67 in order, guards (R55, R56), breakpoints (R456–
R459), then the instruction's own effect on one thread, and how a lockstep group goes on (R101–R105, R137). -/
namespace Sys2Proof.Machine

/-- Where a thread goes after an instruction: on, to a FETCH target or on after QSPLIT, nowhere yet after QSPLIT (R107),
STOP, HALT, or to its leash (R101, R138–R141). -/
inductive After where
  | stay (w : Waiting)
  | go (npc : BitVec 48)
  | loose (npc : BitVec 48)
  | stop
  | halt
  | held (npc : BitVec 48)
  deriving DecidableEq, Repr

/-- One thread's outcome of an instruction: completed, a trap that leaves a state, a wait, or a wait that does not end
the run (R170). -/
inductive Res where
  | done (s : State) (n : After)
  | trap (s : State) (cause : BitVec 8) (val : BitVec 64) (elem : BitVec 13)
  | wait (s : State) (w : Waiting)
  | hold (s : State)

/-- What the checks 2–4 of R67 look at in a decoded instruction: whether its fields are legal, its kind, whether it is
supervisor-only, and the fields of an S-kind instruction that name an integer register. -/
structure Form where
  legal : Bool
  kind : Kind
  sup : Bool
  regs : List (BitVec 6)
  deriving DecidableEq, Repr

/-- An S-kind instruction over integer registers (R53, R117). -/
def Form.s (regs : List (BitVec 6)) : Form := { legal := true, kind := .s, sup := false, regs := regs }

/-- A C-kind instruction, and a T-kind one. -/
def Form.c : Form := { legal := true, kind := .c, sup := false, regs := [] }
def Form.t : Form := { legal := true, kind := .t, sup := false, regs := [] }

/-- A form with a field that may be illegal. -/
def Form.when (f : Form) (c : Prop) [Decidable c] : Form := { f with legal := f.legal && decide c }

/-- The decode-time checks 2–4 of R67 that a decoded instruction can still fail, in order: register limits, kind,
privilege. -/
def issueCheck (i : Form) (s : State) (a : Agent) : Option (BitVec 8) :=
  if !i.legal then some 0x01
  else
    match a with
    | .control p r =>
      if i.regs.any fun f => decide (32 ≤ f.toNat) then some 0x01
      else if i.kind = .t then some 0x0B
      else if i.sup && decide ((s.row p r).status.cmode = .user) then some 0x04
      else none
    | .strand .. =>
      if i.kind = .c then some 0x0B
      else if i.sup then some 0x04
      else none

/-- The lowest comparator that matches the instruction now executing (R456–R459), ALL elements. -/
def State.breakpoint (s : State) (a : Agent) : Option Nat :=
  let (p, r) := a.pr
  let w := s.row p r
  let skip := match a with
    | .control .. => w.bpSkip.contains (s.fetch.pc, true)
    | .strand _ _ k => (s.strand p r k).skip
  if skip || s.fetch.sub || !w.dbg.right then none
  else
    (List.range 8).find? fun j =>
      match (s.core (s.coreOf a)).comparators.getD j none with
      | none => false
      | some (_, c) => decide (c.addr = s.fetch.pc) && decide (c.elem = none) && filterMatches c.filter s p r

/-- The scalar guard (R55, R56). -/
def State.guardOn (s : State) (a : Agent) (g : Guard) : Bool :=
  if g.g = 0 then true else (s.pred a g.g).getLsbD 0 != g.n

/-- The unguarded pair. -/
def noGuard : Guard := { g := 0, n := false }

/-- One thread's outcome with the checks of R67 before it. -/
def checkedRes (i : Form) (g : Guard) (f : State → Agent → Res) (s : State) (a : Agent) : Res :=
  match issueCheck i s a with
  | some c => .trap s c s.fetch.raw 0
  | none =>
    match s.breakpoint a with
    | some j => .trap s 0x0E (BitVec.ofNat 64 (0x100 + j)) 0
    | none => if s.guardOn a g then f s a else .done s (.go s.next)

/-- The control thread's step through an instruction. -/
def controlStep (i : Form) (g : Guard) (f : State → Agent → Res) (s : State) (p r : Nat) : State :=
  match checkedRes i g f s (.control p r) with
  | .done s' (.go npc) => s'.retire (.control p r) npc
  | .done s' (.loose npc) => (s'.retire (.control p r) npc).endRun (.control p r) false
  | .done s' (.held npc) => s'.retire (.control p r) npc
  | .done s' (.stay w) => s'.waitIn (.control p r) w
  | .done s' .stop => ((s'.tallyLong (.control p r)).endRun (.control p r) false).endRow p r
  | .done s' .halt => ((s'.tallyLong (.control p r)).endRun (.control p r) false).endRow p r
  | .trap s' c v e =>
    if c = 0x0E then s'.debugBreak p r c s.fetch.pc v e else s'.takeTrap p r c s.fetch.pc v e
  | .wait s' w => s'.waitIn (.control p r) w
  | .hold s' => s'

/-- The value a strand's fault record holds for a cause (R111): 0 for 0x01, 0x04 and 0x0B. -/
def faultVal (cause : BitVec 8) (val : BitVec 64) : BitVec 48 :=
  if cause = 0x01 ∨ cause = 0x04 ∨ cause = 0x0B then 0 else val.setWidth 48

/-- One member's outcome: a member whose store was performed while the group waited is already done (R437). -/
def memberRes (i : Form) (g : Guard) (f : State → Agent → Res) (s : State) (a : Agent) : Res :=
  match (s.thread a).waiting with
  | some (.stored, _) => .done s (.go s.next)
  | _ => checkedRes i g f s a

/-- The members of a group in ascending order, each with its own outcome: the state after them, those that completed,
and those that must wait. -/
def groupEffects (i : Form) (g : Guard) (f : State → Agent → Res) (p r : Nat) :
    List Nat → State → State × List (Nat × After) × List (Nat × Waiting)
  | [], s => (s, [], [])
  | k :: l, s =>
    match memberRes i g f s (.strand p r k) with
    | .done s' n =>
      let (t, done, w) := groupEffects i g f p r l s'
      (t, (k, n) :: done, w)
    | .trap s' c v _ => groupEffects i g f p r l (s'.faultStrand p r k c (faultVal c v))
    | .wait s' x =>
      let (t, done, w) := groupEffects i g f p r l s'
      (t, done, (k, x) :: w)
    | .hold s' =>
      let (t, done, w) := groupEffects i g f p r l s'
      (t, done, (k, .room) :: w)

/-- Count a strand's completed instruction and move it on (R60, R63); a member that leaves its stream ends its run only
as it leaves. -/
def State.finishStrand (s : State) (p r k : Nat) (n : After) : State :=
  match n with
  | .go npc => s.retire (.strand p r k) npc
  | .loose npc => s.retire (.strand p r k) npc
  | .stay _ => s
  | .stop => s.tallyLong (.strand p r k)
  | .halt => s.tallyLong (.strand p r k)
  | .held _ => s.tallyLong (.strand p r k)

/-- A strand goes on alone (R101). -/
def State.loosen (s : State) (p r k : Nat) : State := s.modStrand p r k fun t => { t with state := .loose }

/-- Move one strand on after its completed instruction (R101, R102, R105). `split` makes it LOOSE first (DIVERGE). -/
def State.moveStrand (s : State) (p r k : Nat) (n : After) (split : Bool) : State :=
  match n with
  | .go _ => (if split then (s.leaveRun (.strand p r k) false).loosen p r k else s).arriveCheck p r k
  | .loose _ => ((s.leaveRun (.strand p r k) false).loosen p r k).arriveCheck p r k
  | .stay w => ((s.leaveRun (.strand p r k) true).keepWait (.strand p r k) w s.fetch).loosen p r k
  | .stop => s.leaveStrand p r k .idle s.fetch.pc
  | .halt => s.leaveStrand p r k .halted s.fetch.pc
  | .held npc => s.leaveStrand p r k .held npc

/-- Whether the members that go on disagree on the next PC (R137). -/
def disagree : List (Nat × After) → Bool
  | [] => false
  | (_, n) :: l => l.any fun x => decide (x.2 ≠ n)

/-- A strand stream's step through an instruction: every member performs it on its own registers, those that fault leave
the group, a disagreement splits it, and held leashes are released where R103 allows. A group one of whose members
must wait waits whole: for a queue with nothing done (R107), for version room with the other members' stores performed
(R437). -/
def groupStep (i : Form) (g : Guard) (f : State → Agent → Res) (s : State) (p r k : Nat) : State :=
  let members := s.groupOf p r k
  let (t, done, w) := groupEffects i g f p r members s
  match w with
  | (_, .room) :: _ =>
    let t := done.foldl (fun t x => t.waitIn (.strand p r x.1) .stored) t
    w.foldl (fun t x => t.waitIn (.strand p r x.1) x.2) t
  | (_, x) :: _ => members.foldl (fun s k => s.waitIn (.strand p r k) x) s
  | [] =>
    let split := decide ((s.strand p r k).state = .lockstep) && disagree done
    let t := done.foldl (fun s x => s.finishStrand p r x.1 x.2) t
    (done.foldl (fun s x => s.moveStrand p r x.1 x.2 split) t).releaseAll p r

/-- Issue an instruction by the thread whose turn it is. -/
def issue (i : Form) (g : Guard) (f : State → Agent → Res) (s : State) : Result State :=
  match s.issuer with
  | .control p r => .next (controlStep i g f s p r)
  | .strand p r k => .next (groupStep i g f s p r k)

/-- A result that later instructions of the run see at once (R61), and on to the next instruction. -/
def aluInt (s : State) (a : Agent) (d : BitVec 6) (v : BitVec 64) : Res :=
  .done (s.writeNow a (.int d) v) (.go s.next)

/-- A predicate result that later instructions of the run see at once (R61): bit 0, the other bits clear (R126). -/
def aluPred (s : State) (a : Agent) (d : BitVec 5) (b : Bool) : Res :=
  .done (s.writeNow a (.pred d) (if b then 1 else 0)) (.go s.next)

/-- A result owed until the run ends (R61). -/
def lateInt (s : State) (a : Agent) (d : BitVec 6) (v : BitVec 64) : Res :=
  .done (s.writeLate a (.int d) v) (.go s.next)

/-- Complete with no register result. -/
def proceed (s : State) : Res := .done s (.go s.next)

/-- A trap at the instruction with a value and element 0. -/
def trapAt (s : State) (cause : BitVec 8) (val : BitVec 64) : Res := .trap s cause val 0

/-- A decode-like trap whose value is the encoding (R68). -/
def trapIll (s : State) : Res := .trap s 0x01 s.fetch.raw 0

/-! ## Addresses of scalar accesses -/

/-- The effective address of R129: a base register and a signed 22-bit immediate. -/
def State.ea (s : State) (a : Agent) (r : BitVec 6) (imm : BitVec 22) : BitVec 64 := s.int a r + imm.signExtend 64

/-- Whether an address is not a multiple of a size. -/
def misaligned (va : BitVec 64) (w : Nat) : Bool := decide (va.toNat % w ≠ 0)

/-- Whether a pack's stores must go to versioned pages (R129 order 5, R439). -/
def Pack.ordered (k : Pack) : Bool := k.ospec.any fun o => !o.serial

/-- The checks of R129 before a read of generic memory, in order. -/
def State.readCheck (s : State) (a : Agent) (va : BitVec 64) (w : Nat) (snap : Option (BitVec 64)) :
    Access (Xlate × State) :=
  if misaligned va w then .error (0x05, s)
  else if !canonical va then .error (0x07, s)
  else
    match s.translateFor a va .read with
    | .error c => .error (c, s)
    | .ok (xl, s') => if s'.readPoisoned a xl snap then .error (0x0A, s') else .ok (xl, s')

/-- The checks of R129 before a write of generic memory, in order. -/
def State.writeCheck (s : State) (a : Agent) (va : BitVec 64) (w : Nat) : Access (Xlate × State) :=
  if misaligned va w then .error (0x05, s)
  else if !canonical va then .error (0x07, s)
  else
    match s.translateFor a va .write with
    | .error c => .error (c, s)
    | .ok (xl, s') =>
      if (s.pack a.pr.1).ordered && !xl.vers then .error (0x0D, s')
      else if s'.poisoned xl then .error (0x0A, s') else .ok (xl, s')

/-- The snapshot a snapshot load reads at (R98, R134, R152). -/
def State.snapFor (s : State) (a : Agent) : BitVec 64 :=
  match a with
  | .control p r => s.srSeen p r 0x00B
  | .strand p r _ => (s.row p r).snap

/-- Where a local access of a thread leads (R109, R133): the lane slice in a strand, the core view in a control thread. -/
def State.localPlace (s : State) (a : Agent) (va : BitVec 64) (w : Nat) : SpRes :=
  match a with
  | .control p r => s.spResolve p r va w
  | .strand p r k =>
    let grant := (s.row p r).width.grant.toNat
    if va.toNat < 2048 * (s.pack p).units then
      .at_ (decide (grant ≤ k)) (laneOffset (laneOf grant k) va.toNat) none
    else .fault 0x07

/-! ## Reads out of program order (R334) -/

/-- An agent reads 8 bytes of its scratchpad before their place in program order (R334, R345): not through a ring, whose generations
order what is read there (R246). -/
def State.readEarlyLocal (s : State) (a : Agent) (base : BitVec 6) (va : BitVec 64) : State :=
  match s.localPlace a (va &&& ~~~7#64) 8 with
  | .at_ foll off none =>
    let d := s.side a.pr.1 foll
    if d.bad off 8 || s.lateBars a (some base) (.inr (foll, off)) 8 then s
    else
      { s with early := s.early ++ [{ agent := a, base := some base, va := 0, sp := some foll, pa := off, bytes := memBytes d.sp off 8,
                                      after := none }] }
  | _ => s

/-- What a local load returns (R109, R133, R345): its bytes now or as read early; a load through a ring follows the ring's generation, and
what the thread reads later follows it (R246). -/
def State.loadLocal (s : State) (a : Agent) (base : BitVec 6) (foll : Bool) (off w : Nat) (ring : Option Nat) : BitVec 64 × State :=
  let now := leWord (memBytes (s.side a.pr.1 foll).sp off w)
  if ring.isSome then (now, s.forgetAll a)
  else
    match s.earlyOf a base (some foll) off w with
    | some e => if s.pick (9750 + agentSlot a) 2 = 0 then (e.cut off w, s.forgetBefore e off w) else (now, s.forgetSp a foll off w)
    | none => (now, s.forgetSp a foll off w)

/-- A thread goes past a load (R334): its register holds its old value until the load is performed, and may still be read so to the
end of the run (R61). -/
def State.leaveLoad (s : State) (a : Agent) (x : Late) : State :=
  (s.writeLate a (.int x.dest) (s.regNow a (.int x.dest))).modThread a fun t => { t with late := t.late ++ [x] }

/-- The oldest load that a thread went past is performed. -/
def State.performLate (s : State) (a : Agent) : State :=
  match (s.thread a).late with
  | [] => s
  | x :: l =>
    let (v, s) := match x.src with
      | .inl xl => let (v, s) := s.loadPlain a xl x.n; (v, s.forgetAt a xl.pa x.n)
      | .inr (foll, off) => (leWord (memBytes (s.side a.pr.1 foll).sp off x.n), s.forgetSp a foll off x.n)
    (s.putReg a (.int x.dest) (loadExt x.n x.signed v)).modThread a fun t => { t with late := l }

/-- All loads that a thread went past are performed. -/
def State.performLates (s : State) (a : Agent) : State := (s.thread a).late.foldl (fun s _ => s.performLate a) s

end Sys2Proof.Machine
end

