-- ==== Sys2Proof/Machine/Scalar.lean ====
section
/-! DEFINITION. The scalar instructions of both thread kinds: integer arithmetic, compares, predicates, loads, stores
and transfers (R119–R137, R142). -/
namespace Sys2Proof.Machine

/-! ## Integer arithmetic -/

/-- A register result of two integer registers. -/
def intBin (d a b : BitVec 6) (f : BitVec 64 → BitVec 64 → BitVec 64) (s : State) : Result State :=
  issue (Form.s [d, a, b]) noGuard (fun s t => aluInt s t d (f (s.int t a) (s.int t b))) s

/-- A register result of one integer register. -/
def intUn (d a : BitVec 6) (f : BitVec 64 → BitVec 64) (s : State) : Result State :=
  issue (Form.s [d, a]) noGuard (fun s t => aluInt s t d (f (s.int t a))) s

/-- A result that the rest of the run may miss (R61), of two integer registers. -/
def intBinLate (d a b : BitVec 6) (f : BitVec 64 → BitVec 64 → BitVec 64) (s : State) : Result State :=
  issue (Form.s [d, a, b]) noGuard (fun s t => lateInt s t d (f (s.int t a) (s.int t b))) s

/-- A register result of one integer register that the rest of the run may miss (R61). -/
def intUnLate (d a : BitVec 6) (f : BitVec 64 → BitVec 64) (s : State) : Result State :=
  issue (Form.s [d, a]) noGuard (fun s t => lateInt s t d (f (s.int t a))) s
/-- sext(wrap32(v), 32). -/
def sextW (v : BitVec 64) : BitVec 64 := (v.setWidth 32).signExtend 64

/-- A signed choice of the smaller or larger of two words. -/
def pickS (larger : Bool) (a b : BitVec 64) : BitVec 64 := if b.slt a != larger then b else a
def pickU (larger : Bool) (a b : BitVec 64) : BitVec 64 := if b.ult a != larger then b else a

/-- The quotient of div (R120): truncated, or saturated in the direction of the exact quotient. -/
def divWord (a b : BitVec 64) : BitVec 64 :=
  if b = 0 then
    (if a = 0 then 0 else if a.slt 0 then 0x8000000000000000 else 0x7FFFFFFFFFFFFFFF)
  else if a = 0x8000000000000000 ∧ b = 0xFFFFFFFFFFFFFFFF then 0x7FFFFFFFFFFFFFFF
  else BitVec.ofInt 64 (Int.tdiv a.toInt b.toInt)

/-- The quotient of divu (R120). -/
def divuWord (a b : BitVec 64) : BitVec 64 :=
  if b = 0 then (if a = 0 then 0 else 0xFFFFFFFFFFFFFFFF) else a / b

/-- Bits [127:64] of an exact product. -/
def mulhWord (a b : BitVec 64) : BitVec 64 := BitVec.ofInt 64 (a.toInt * b.toInt / 2 ^ 64)
def mulhuWord (a b : BitVec 64) : BitVec 64 := BitVec.ofNat 64 (a.toNat * b.toNat / 2 ^ 64)

/-- Leading and trailing zero bits and one bits among the lowest `n` bits of a word (R121). -/
def clzFrom (a : BitVec 64) : Nat → Nat
  | 0 => 0
  | n + 1 => if a.getLsbD n then 0 else clzFrom a n + 1
def ctzFrom (a : BitVec 64) : Nat → Nat → Nat
  | 0, _ => 0
  | n + 1, i => if a.getLsbD i then 0 else ctzFrom a n (i + 1) + 1
def popFrom (a : BitVec 64) : Nat → Nat
  | 0 => 0
  | n + 1 => popFrom a n + (if a.getLsbD n then 1 else 0)

/-- The bytes, or the bits, of a word in reverse order (R121). -/
def bswapWord (a : BitVec 64) : BitVec 64 := leWord (leBytes 8 a.toNat).reverse
def brevWord (a : BitVec 64) : BitVec 64 := a.reverse

/-- The functions of R119 that the vector side shares (R199), at 64 bits. -/
def intFn64 (f : IntFn) (a b : BitVec 64) : BitVec 64 :=
  match f with
  | .add => a + b
  | .sub => a - b
  | .mul => a * b
  | .mulh => mulhWord a b
  | .and => a &&& b
  | .or => a ||| b
  | .xor => a ^^^ b
  | .sll => a <<< (b.toNat % 64)
  | .srl => a >>> (b.toNat % 64)
  | .sra => a.sshiftRight (b.toNat % 64)
  | .min => pickS false a b
  | .max => pickS true a b
  | .minu => pickU false a b
  | .maxu => pickU true a b

/-- The comparisons of R126 at 64 bits. -/
def cmpFn64 (f : CmpFn) (a b : BitVec 64) : Bool :=
  match f with
  | .eq => a == b
  | .ne => a != b
  | .lt => a.slt b
  | .ge => !a.slt b
  | .ltu => a.ult b
  | .geu => !a.ult b

/-! ### bodies -/

def execAdd (d a b : BitVec 6) (s : State) : Result State := intBin d a b (intFn64 .add) s
def execSub (d a b : BitVec 6) (s : State) : Result State := intBin d a b (intFn64 .sub) s
def execAnd (d a b : BitVec 6) (s : State) : Result State := intBin d a b (intFn64 .and) s
def execOr (d a b : BitVec 6) (s : State) : Result State := intBin d a b (intFn64 .or) s
def execXor (d a b : BitVec 6) (s : State) : Result State := intBin d a b (intFn64 .xor) s
def execAndn (d a b : BitVec 6) (s : State) : Result State := intBin d a b (fun x y => x &&& ~~~y) s
def execSll (d a b : BitVec 6) (s : State) : Result State := intBin d a b (intFn64 .sll) s
def execSrl (d a b : BitVec 6) (s : State) : Result State := intBin d a b (intFn64 .srl) s
def execSra (d a b : BitVec 6) (s : State) : Result State := intBin d a b (intFn64 .sra) s
def execRol (d a b : BitVec 6) (s : State) : Result State := intBin d a b (fun x y => x.rotateLeft (y.toNat % 64)) s
def execMin (d a b : BitVec 6) (s : State) : Result State := intBin d a b (intFn64 .min) s
def execMax (d a b : BitVec 6) (s : State) : Result State := intBin d a b (intFn64 .max) s
def execMinu (d a b : BitVec 6) (s : State) : Result State := intBin d a b (intFn64 .minu) s
def execMaxu (d a b : BitVec 6) (s : State) : Result State := intBin d a b (intFn64 .maxu) s
def execAddw (d a b : BitVec 6) (s : State) : Result State := intBin d a b (fun x y => sextW (x + y)) s
def execSubw (d a b : BitVec 6) (s : State) : Result State := intBin d a b (fun x y => sextW (x - y)) s

/-! R120: results of multiply and divide are owed until the run ends (R61). -/

def execMul (d a b : BitVec 6) (s : State) : Result State := intBinLate d a b (fun x y => x * y) s
def execMulh (d a b : BitVec 6) (s : State) : Result State := intBinLate d a b (mulhWord) s
def execMulhu (d a b : BitVec 6) (s : State) : Result State := intBinLate d a b (mulhuWord) s
def execDiv (d a b : BitVec 6) (s : State) : Result State := intBinLate d a b (divWord) s
def execDivu (d a b : BitVec 6) (s : State) : Result State := intBinLate d a b (divuWord) s
def execRem (d a b : BitVec 6) (s : State) : Result State := intBinLate d a b (fun x y => x - y * divWord x y) s
def execRemu (d a b : BitVec 6) (s : State) : Result State := intBinLate d a b (fun x y => x - y * divuWord x y) s
def execMulw (d a b : BitVec 6) (s : State) : Result State := intBinLate d a b (fun x y => sextW (x * y)) s

/-! R121 -/

def execClz (d a : BitVec 6) (s : State) : Result State := intUn d a (fun x => BitVec.ofNat 64 (clzFrom x 64)) s
def execCtz (d a : BitVec 6) (s : State) : Result State := intUn d a (fun x => BitVec.ofNat 64 (ctzFrom x 64 0)) s
def execPopc (d a : BitVec 6) (s : State) : Result State := intUn d a (fun x => BitVec.ofNat 64 (popFrom x 64)) s
def execBswap (d a : BitVec 6) (s : State) : Result State := intUn d a (bswapWord) s
def execBrev (d a : BitVec 6) (s : State) : Result State := intUn d a (brevWord) s
def execSxb (d a : BitVec 6) (s : State) : Result State := intUn d a (fun x => (x.setWidth 8).signExtend 64) s
def execSxh (d a : BitVec 6) (s : State) : Result State := intUn d a (fun x => (x.setWidth 16).signExtend 64) s
def execSxw (d a : BitVec 6) (s : State) : Result State := intUn d a (sextW) s
def execZxw (d a : BitVec 6) (s : State) : Result State := intUn d a (fun x => (x.setWidth 32).setWidth 64) s

/-! R122–R125 -/

def execAddi (d a : BitVec 6) (imm : BitVec 22) (s : State) : Result State := intUn d a (fun x => x + imm.signExtend 64) s
def execAndi (d a : BitVec 6) (imm : BitVec 22) (s : State) : Result State := intUn d a (fun x => x &&& imm.signExtend 64) s
def execOri (d a : BitVec 6) (imm : BitVec 22) (s : State) : Result State := intUn d a (fun x => x ||| imm.signExtend 64) s
def execXori (d a : BitVec 6) (imm : BitVec 22) (s : State) : Result State := intUn d a (fun x => x ^^^ imm.signExtend 64) s
def execSlli (d a sh : BitVec 6) (s : State) : Result State := intUn d a (fun x => x <<< sh.toNat) s
def execSrli (d a sh : BitVec 6) (s : State) : Result State := intUn d a (fun x => x >>> sh.toNat) s
def execSrai (d a sh : BitVec 6) (s : State) : Result State := intUn d a (fun x => x.sshiftRight sh.toNat) s
def execRoli (d a sh : BitVec 6) (s : State) : Result State := intUn d a (fun x => x.rotateLeft sh.toNat) s

def execLi (d : BitVec 6) (imm : BitVec 38) (s : State) : Result State :=
  issue (Form.s [d]) noGuard (fun s t => aluInt s t d (imm.signExtend 64)) s

/-- `lhi` reads D (R123), and so may keep the bits of a value not yet settled (R61). -/
def execLhi (d : BitVec 6) (imm : BitVec 22) (s : State) : Result State :=
  issue (Form.s [d]) noGuard (fun s t => aluInt s t d (imm ++ (s.int t d).setWidth 42)) s

/-- `sel` is never suppressed: its guard selects (R124). -/
def execSel (gd : Guard) (d a b : BitVec 6) (s : State) : Result State :=
  issue ((Form.s [d, a, b]).when gd.wf) noGuard
    (fun s t => aluInt s t d (if s.guardOn t gd then s.int t a else s.int t b)) s

def execAdda (gd : Guard) (d a b : BitVec 6) (sh : BitVec 2) (s : State) : Result State :=
  issue ((Form.s [d, a, b]).when gd.wf) gd (fun s t => aluInt s t d (s.int t a + s.int t b <<< sh.toNat)) s

/-! R126–R128 -/

/-- A compare of two integer registers into a predicate (R126). -/
def intCmp (f : CmpFn) (pd : BitVec 5) (a b : BitVec 6) (s : State) : Result State :=
  issue (Form.s [a, b]) noGuard (fun s t => aluPred s t pd (cmpFn64 f (s.int t a) (s.int t b))) s

/-- A compare with an immediate (R127). -/
def intCmpImm (f : CmpFn) (pd : BitVec 5) (a : BitVec 6) (imm : BitVec 22) (s : State) : Result State :=
  issue (Form.s [a]) noGuard (fun s t => aluPred s t pd (cmpFn64 f (s.int t a) (imm.signExtend 64))) s

/-- Predicate logic on all 64 bits (R128). -/
def predFn (pd pa pb : BitVec 5) (f : BitVec 64 → BitVec 64 → BitVec 64) (s : State) : Result State :=
  issue (Form.s []) noGuard
    (fun s t => .done (s.writeNow t (.pred pd) (f (s.pred t pa) (s.pred t pb))) (.go s.next)) s

def execCeq (pd : BitVec 5) (a b : BitVec 6) (s : State) : Result State := intCmp .eq pd a b s
def execCne (pd : BitVec 5) (a b : BitVec 6) (s : State) : Result State := intCmp .ne pd a b s
def execClt (pd : BitVec 5) (a b : BitVec 6) (s : State) : Result State := intCmp .lt pd a b s
def execCge (pd : BitVec 5) (a b : BitVec 6) (s : State) : Result State := intCmp .ge pd a b s
def execCltu (pd : BitVec 5) (a b : BitVec 6) (s : State) : Result State := intCmp .ltu pd a b s
def execCgeu (pd : BitVec 5) (a b : BitVec 6) (s : State) : Result State := intCmp .geu pd a b s
def execCeqi (pd : BitVec 5) (a : BitVec 6) (imm : BitVec 22) (s : State) : Result State := intCmpImm .eq pd a imm s
def execCnei (pd : BitVec 5) (a : BitVec 6) (imm : BitVec 22) (s : State) : Result State := intCmpImm .ne pd a imm s
def execClti (pd : BitVec 5) (a : BitVec 6) (imm : BitVec 22) (s : State) : Result State := intCmpImm .lt pd a imm s
def execCgei (pd : BitVec 5) (a : BitVec 6) (imm : BitVec 22) (s : State) : Result State := intCmpImm .ge pd a imm s
def execCltui (pd : BitVec 5) (a : BitVec 6) (imm : BitVec 22) (s : State) : Result State := intCmpImm .ltu pd a imm s
def execCgeui (pd : BitVec 5) (a : BitVec 6) (imm : BitVec 22) (s : State) : Result State := intCmpImm .geu pd a imm s
def execPand (pd pa pb : BitVec 5) (s : State) : Result State := predFn pd pa pb (fun x y => x &&& y) s
def execPor (pd pa pb : BitVec 5) (s : State) : Result State := predFn pd pa pb (fun x y => x ||| y) s
def execPxor (pd pa pb : BitVec 5) (s : State) : Result State := predFn pd pa pb (fun x y => x ^^^ y) s
def execPandn (pd pa pb : BitVec 5) (s : State) : Result State := predFn pd pa pb (fun x y => x &&& ~~~y) s
def execPnot (pd pa : BitVec 5) (s : State) : Result State := predFn pd pa 0 (fun x _ => ~~~x) s
def execPmov (pd pa : BitVec 5) (s : State) : Result State := predFn pd pa 0 (fun x _ => x) s

/-! ## Loads and stores (R129–R134) -/

/-- One thread's generic or snapshot load (R129, R130, R134); with `leave` it goes past a load that need not be performed yet (R334). -/
def loadStep (leave : Bool) (w : Nat) (signed snap : Bool) (d a : BitVec 6) (imm : BitVec 22) (s : State) (t : Agent) : Res :=
  let va := s.ea t a imm
  let at_ := s.snapFor t
  match s.readCheck t va w (if snap then some at_ else none) with
  | .error (c, s') => trapAt s' c va
  | .ok (xl, s') =>
    if leave && !snap && decide (xl.tdev = 0) && s'.mayDefer t d a none xl.pa w then
      proceed (s'.leaveLoad t { dest := d, signed := signed, n := w, src := .inl xl })
    else
      let (v, s') := if snap then s'.loadSnap t at_ xl w else s'.loadGeneric t a xl w
      lateInt (if snap then s'.forgetAt t xl.pa w else s') t d (loadExt w signed v)

/-- A generic or snapshot load. -/
def scalarLoad (w : Nat) (signed snap : Bool) (d a : BitVec 6) (imm : BitVec 22) (s : State) : Result State :=
  issue (Form.s [d, a]) noGuard (loadStep false w signed snap d a imm) s

/-- A generic store (R129, R130). -/
def scalarStore (w : Nat) (d a : BitVec 6) (imm : BitVec 22) (s : State) : Result State :=
  issue (Form.s [d, a]) noGuard (fun s t =>
    let va := s.ea t a imm
    match s.writeCheck t va w with
    | .error (c, s') => trapAt s' c va
    | .ok (xl, s') =>
      match s'.store t xl (leBytes w (s.int t d).toNat) false with
      | some s' => proceed (s'.forgetAt t xl.pa w)
      | none => .wait s .room) s

/-- One thread's local load (R109, R133, R226); with `leave` it goes past a load that need not be performed yet (R334, R345), but not one
through a ring, which follows the ring's generation (R246). -/
def localStep (leave : Bool) (w : Nat) (d a : BitVec 6) (imm : BitVec 22) (s : State) (t : Agent) : Res :=
  let va := s.ea t a imm
  if misaligned va w then trapAt s 0x05 va
  else
    match s.localPlace t va w with
    | .fault c => trapAt s c va
    | .stall n g => .wait s (.ringStall n g va none)
    | .at_ foll off ring =>
      if (s.side t.pr.1 foll).bad off w then trapAt s 0x0A va
      else if leave && ring.isNone && s.mayDefer t d a (some foll) off w then
        proceed (s.leaveLoad t { dest := d, signed := false, n := w, src := .inr (foll, off) })
      else
        let (v, s) := s.loadLocal t a foll off w ring
        lateInt s t d v

/-- A local load. -/
def localLoad (w : Nat) (d a : BitVec 6) (imm : BitVec 22) (s : State) : Result State :=
  issue (Form.s [d, a]) noGuard (localStep false w d a imm) s

/-- A local store (R109, R133), after the thread's pending wide releases (R337, R345); on a poisoned word R226 says what is
written. -/
def localStore (w : Nat) (d a : BitVec 6) (imm : BitVec 22) (s : State) : Result State :=
  issue (Form.s [d, a]) noGuard (fun s t =>
    let va := s.ea t a imm
    if misaligned va w then trapAt s 0x05 va
    else
      match s.localPlace t va w with
      | .fault c => trapAt s c va
      | .stall n g => .wait s (.ringStall n g va none)
      | .at_ foll off _ =>
        proceed (((s.flushHeld t).forgetSp t foll off w).modSide t.pr.1 foll fun x =>
          x.store off (leBytes w (s.int t d).toNat))) s

def execLd8 (d a : BitVec 6) (imm : BitVec 22) (s : State) : Result State := scalarLoad 1 false false d a imm s
def execLd16 (d a : BitVec 6) (imm : BitVec 22) (s : State) : Result State := scalarLoad 2 false false d a imm s
def execLd32 (d a : BitVec 6) (imm : BitVec 22) (s : State) : Result State := scalarLoad 4 false false d a imm s
def execLd64 (d a : BitVec 6) (imm : BitVec 22) (s : State) : Result State := scalarLoad 8 false false d a imm s
def execLd8s (d a : BitVec 6) (imm : BitVec 22) (s : State) : Result State := scalarLoad 1 true false d a imm s
def execLd16s (d a : BitVec 6) (imm : BitVec 22) (s : State) : Result State := scalarLoad 2 true false d a imm s
def execLd32s (d a : BitVec 6) (imm : BitVec 22) (s : State) : Result State := scalarLoad 4 true false d a imm s
def execSt8 (d a : BitVec 6) (imm : BitVec 22) (s : State) : Result State := scalarStore 1 d a imm s
def execSt16 (d a : BitVec 6) (imm : BitVec 22) (s : State) : Result State := scalarStore 2 d a imm s
def execSt32 (d a : BitVec 6) (imm : BitVec 22) (s : State) : Result State := scalarStore 4 d a imm s
def execSt64 (d a : BitVec 6) (imm : BitVec 22) (s : State) : Result State := scalarStore 8 d a imm s
def execLdl8 (d a : BitVec 6) (imm : BitVec 22) (s : State) : Result State := localLoad 1 d a imm s
def execLdl16 (d a : BitVec 6) (imm : BitVec 22) (s : State) : Result State := localLoad 2 d a imm s
def execLdl32 (d a : BitVec 6) (imm : BitVec 22) (s : State) : Result State := localLoad 4 d a imm s
def execLdl64 (d a : BitVec 6) (imm : BitVec 22) (s : State) : Result State := localLoad 8 d a imm s
def execStl8 (d a : BitVec 6) (imm : BitVec 22) (s : State) : Result State := localStore 1 d a imm s
def execStl16 (d a : BitVec 6) (imm : BitVec 22) (s : State) : Result State := localStore 2 d a imm s
def execStl32 (d a : BitVec 6) (imm : BitVec 22) (s : State) : Result State := localStore 4 d a imm s
def execStl64 (d a : BitVec 6) (imm : BitVec 22) (s : State) : Result State := localStore 8 d a imm s
def execLdv8 (d a : BitVec 6) (imm : BitVec 22) (s : State) : Result State := scalarLoad 1 false true d a imm s
def execLdv16 (d a : BitVec 6) (imm : BitVec 22) (s : State) : Result State := scalarLoad 2 false true d a imm s
def execLdv32 (d a : BitVec 6) (imm : BitVec 22) (s : State) : Result State := scalarLoad 4 false true d a imm s
def execLdv64 (d a : BitVec 6) (imm : BitVec 22) (s : State) : Result State := scalarLoad 8 false true d a imm s

/-! ## Transfers (R49, R135, R136) -/

/-- A transfer to a checked target, with a link or none; `isRet` marks a call return (R77). -/
def transferTo (link : Option (BitVec 6)) (isRet : Bool) (target : BitVec 64) (s : State) (t : Agent) : Res :=
  match s.checkTarget t target (s.userMode t) with
  | .error (c, s') => trapAt s' c target
  | .ok s' =>
    let s' := match link with
      | some d => s'.writeNow t (.int d) (va64 s.next)
      | none => s'
    .done s' (.go (s.arriveAt t (target.setWidth 48) isRet))

/-- A transfer to an immediate target (R49, R76). -/
def transferImm (link : Option (BitVec 6)) (imm : BitVec 64) (s : State) (t : Agent) : Res :=
  let target := s.immTarget imm
  if s.immBad imm then trapAt s 0x03 target else transferTo link false target s t

def execBr (neg : Bool) (pa : BitVec 5) (imm : BitVec 22) (s : State) : Result State :=
  issue (Form.s []) noGuard (fun s t =>
    if (s.pred t pa).getLsbD 0 != neg then transferImm none (imm.signExtend 64) s t else proceed s) s

def execJmp (imm : BitVec 38) (s : State) : Result State :=
  issue (Form.s []) noGuard (transferImm none (imm.signExtend 64)) s

def execCall (d : BitVec 6) (imm : BitVec 38) (s : State) : Result State :=
  issue (Form.s [d]) noGuard (transferImm (some d) (imm.signExtend 64)) s

def execJmpr (a : BitVec 6) (s : State) : Result State :=
  issue (Form.s [a]) noGuard (fun s t => transferTo none false (s.int t a) s t) s

def execCallr (d a : BitVec 6) (s : State) : Result State :=
  issue (Form.s [d, a]) noGuard (fun s t => transferTo (some d) false (s.int t a) s t) s

def execRet (a : BitVec 6) (s : State) : Result State :=
  issue (Form.s [a]) noGuard (fun s t => transferTo none true (s.int t a) s t) s

/-- `nop` (R142). -/
def execNop (s : State) : Result State := issue (Form.s []) noGuard (fun s _ => proceed s) s

/-- `brk` (R142): trap 0x0E, TRAPVAL 0. -/
def execBrk (s : State) : Result State := issue (Form.s []) noGuard (fun s _ => trapAt s 0x0E 0) s

end Sys2Proof.Machine
end

