-- ==== Sys2Proof/Machine/Float.lean ====
section
/-! DEFINITION. The scalar floating-point instructions (R145–R149). -/
namespace Sys2Proof.Machine

/-- An operand of the .s or .d forms as bits (R145). -/
def fpBits (single : Bool) (w : BitVec 64) : Nat := if single then w.toNat % 2 ^ 32 else w.toNat

/-- The format of the .s or .d forms. -/
def fpOf (single : Bool) : FFormat := if single then fp32 else fp64

/-- A two-operand float instruction (R146). -/
def floatBin (single : Bool) (f : FBinFn) (gd : Guard) (ex : Exc) (rm : BitVec 4) (d a b : BitVec 6) (s : State) :
    Result State :=
  issue ((Form.s [d, a, b]).when (gd.wf ∧ ex.wf ∧ rm ≤ 5)) gd (fun s t =>
    .done (s.floatResult t ex d ((fpOf single).bin f (s.mode t rm) (fpBits single (s.int t a))
      (fpBits single (s.int t b)))) (.go s.next)) s

/-- A one-operand float instruction (R146). -/
def floatUn (single : Bool) (f : FUnFn) (gd : Guard) (ex : Exc) (rm : BitVec 4) (d a : BitVec 6) (s : State) :
    Result State :=
  issue ((Form.s [d, a]).when (gd.wf ∧ ex.wf ∧ rm ≤ 5)) gd (fun s t =>
    .done (s.floatResult t ex d ((fpOf single).un f (s.mode t rm) (fpBits single (s.int t a)))) (.go s.next)) s

/-- A fused multiply-add (R147). -/
def floatFused (single : Bool) (f : FmaFn) (gd : Guard) (ex : Exc) (rm : BitVec 4) (d a b c : BitVec 6) (s : State) :
    Result State :=
  issue ((Form.s [d, a, b, c]).when (gd.wf ∧ ex.wf ∧ rm ≤ 5)) gd (fun s t =>
    .done (s.floatResult t ex d ((fpOf single).fused f (s.mode t rm) (fpBits single (s.int t a))
      (fpBits single (s.int t b)) (fpBits single (s.int t c)))) (.go s.next)) s

/-- A float compare (R24, R148); its result is owed until the run ends (R61). -/
def floatCmp (single : Bool) (f : FCmpFn) (pd : BitVec 5) (a b : BitVec 6) (s : State) : Result State :=
  issue (Form.s [a, b]) noGuard (fun s t =>
    let r := (fpOf single).cmp f (fpBits single (s.int t a)) (fpBits single (s.int t b))
    .done ((s.writeLate t (.pred pd) (if r.1 then 1 else 0)).raise t r.2) (.go s.next)) s

/-- How many low bits a conversion reads (R149). -/
def convReads : ConvFn → Nat
  | .f32F64 | .f32I64 | .f64I64 | .i64F64 => 64
  | .f32Bf16 | .f32Fp16 => 16
  | .f32E4m3 | .f32E5m2 => 8
  | .f32Lg => 6
  | _ => 32

/-- A conversion (R149). -/
def floatConv (f : ConvFn) (gd : Guard) (ex : Exc) (rm : BitVec 4) (d a : BitVec 6) (s : State) : Result State :=
  issue ((Form.s [d, a]).when (gd.wf ∧ ex.wf ∧ rm ≤ 5)) gd (fun s t =>
    .done (s.floatResult t ex d (convert f (s.mode t rm) ((s.int t a).toNat % 2 ^ convReads f))) (.go s.next)) s

def execFaddS (gd : Guard) (ex : Exc) (rm : BitVec 4) (d a b : BitVec 6) (s : State) : Result State :=
  floatBin true .add gd ex rm d a b s
def execFsubS (gd : Guard) (ex : Exc) (rm : BitVec 4) (d a b : BitVec 6) (s : State) : Result State :=
  floatBin true .sub gd ex rm d a b s
def execFmulS (gd : Guard) (ex : Exc) (rm : BitVec 4) (d a b : BitVec 6) (s : State) : Result State :=
  floatBin true .mul gd ex rm d a b s
def execFdivS (gd : Guard) (ex : Exc) (rm : BitVec 4) (d a b : BitVec 6) (s : State) : Result State :=
  floatBin true .div gd ex rm d a b s
def execFminS (gd : Guard) (ex : Exc) (d a b : BitVec 6) (s : State) : Result State :=
  floatBin true .min gd ex 0 d a b s
def execFmaxS (gd : Guard) (ex : Exc) (d a b : BitVec 6) (s : State) : Result State :=
  floatBin true .max gd ex 0 d a b s
def execFsqrtS (gd : Guard) (ex : Exc) (rm : BitVec 4) (d a : BitVec 6) (s : State) : Result State :=
  floatUn true .sqrt gd ex rm d a s
def execFabsS (gd : Guard) (ex : Exc) (d a : BitVec 6) (s : State) : Result State :=
  floatUn true .abs gd ex 0 d a s
def execFnegS (gd : Guard) (ex : Exc) (d a : BitVec 6) (s : State) : Result State :=
  floatUn true .neg gd ex 0 d a s
def execFfmaS (gd : Guard) (ex : Exc) (rm : BitVec 4) (d a b c : BitVec 6) (s : State) : Result State :=
  floatFused true .fma gd ex rm d a b c s
def execFfmsS (gd : Guard) (ex : Exc) (rm : BitVec 4) (d a b c : BitVec 6) (s : State) : Result State :=
  floatFused true .fms gd ex rm d a b c s
def execFfnmaS (gd : Guard) (ex : Exc) (rm : BitVec 4) (d a b c : BitVec 6) (s : State) : Result State :=
  floatFused true .fnma gd ex rm d a b c s
def execFeqS (pd : BitVec 5) (a b : BitVec 6) (s : State) : Result State := floatCmp true .eq pd a b s
def execFltS (pd : BitVec 5) (a b : BitVec 6) (s : State) : Result State := floatCmp true .lt pd a b s
def execFleS (pd : BitVec 5) (a b : BitVec 6) (s : State) : Result State := floatCmp true .le pd a b s
def execFunordS (pd : BitVec 5) (a b : BitVec 6) (s : State) : Result State := floatCmp true .unord pd a b s
def execFaddD (gd : Guard) (ex : Exc) (rm : BitVec 4) (d a b : BitVec 6) (s : State) : Result State :=
  floatBin false .add gd ex rm d a b s
def execFsubD (gd : Guard) (ex : Exc) (rm : BitVec 4) (d a b : BitVec 6) (s : State) : Result State :=
  floatBin false .sub gd ex rm d a b s
def execFmulD (gd : Guard) (ex : Exc) (rm : BitVec 4) (d a b : BitVec 6) (s : State) : Result State :=
  floatBin false .mul gd ex rm d a b s
def execFdivD (gd : Guard) (ex : Exc) (rm : BitVec 4) (d a b : BitVec 6) (s : State) : Result State :=
  floatBin false .div gd ex rm d a b s
def execFminD (gd : Guard) (ex : Exc) (d a b : BitVec 6) (s : State) : Result State :=
  floatBin false .min gd ex 0 d a b s
def execFmaxD (gd : Guard) (ex : Exc) (d a b : BitVec 6) (s : State) : Result State :=
  floatBin false .max gd ex 0 d a b s
def execFsqrtD (gd : Guard) (ex : Exc) (rm : BitVec 4) (d a : BitVec 6) (s : State) : Result State :=
  floatUn false .sqrt gd ex rm d a s
def execFabsD (gd : Guard) (ex : Exc) (d a : BitVec 6) (s : State) : Result State :=
  floatUn false .abs gd ex 0 d a s
def execFnegD (gd : Guard) (ex : Exc) (d a : BitVec 6) (s : State) : Result State :=
  floatUn false .neg gd ex 0 d a s
def execFfmaD (gd : Guard) (ex : Exc) (rm : BitVec 4) (d a b c : BitVec 6) (s : State) : Result State :=
  floatFused false .fma gd ex rm d a b c s
def execFfmsD (gd : Guard) (ex : Exc) (rm : BitVec 4) (d a b c : BitVec 6) (s : State) : Result State :=
  floatFused false .fms gd ex rm d a b c s
def execFfnmaD (gd : Guard) (ex : Exc) (rm : BitVec 4) (d a b c : BitVec 6) (s : State) : Result State :=
  floatFused false .fnma gd ex rm d a b c s
def execFeqD (pd : BitVec 5) (a b : BitVec 6) (s : State) : Result State := floatCmp false .eq pd a b s
def execFltD (pd : BitVec 5) (a b : BitVec 6) (s : State) : Result State := floatCmp false .lt pd a b s
def execFleD (pd : BitVec 5) (a b : BitVec 6) (s : State) : Result State := floatCmp false .le pd a b s
def execFunordD (pd : BitVec 5) (a b : BitVec 6) (s : State) : Result State := floatCmp false .unord pd a b s
def execCvtF64F32 (gd : Guard) (ex : Exc) (rm : BitVec 4) (d a : BitVec 6) (s : State) : Result State :=
  floatConv .f64F32 gd ex rm d a s
def execCvtF32F64 (gd : Guard) (ex : Exc) (rm : BitVec 4) (d a : BitVec 6) (s : State) : Result State :=
  floatConv .f32F64 gd ex rm d a s
def execCvtF32I64 (gd : Guard) (ex : Exc) (rm : BitVec 4) (d a : BitVec 6) (s : State) : Result State :=
  floatConv .f32I64 gd ex rm d a s
def execCvtI64F32 (gd : Guard) (ex : Exc) (rm : BitVec 4) (d a : BitVec 6) (s : State) : Result State :=
  floatConv .i64F32 gd ex rm d a s
def execCvtF64I64 (gd : Guard) (ex : Exc) (rm : BitVec 4) (d a : BitVec 6) (s : State) : Result State :=
  floatConv .f64I64 gd ex rm d a s
def execCvtI64F64 (gd : Guard) (ex : Exc) (rm : BitVec 4) (d a : BitVec 6) (s : State) : Result State :=
  floatConv .i64F64 gd ex rm d a s
def execCvtBf16F32 (gd : Guard) (ex : Exc) (rm : BitVec 4) (d a : BitVec 6) (s : State) : Result State :=
  floatConv .bf16F32 gd ex rm d a s
def execCvtF32Bf16 (gd : Guard) (ex : Exc) (rm : BitVec 4) (d a : BitVec 6) (s : State) : Result State :=
  floatConv .f32Bf16 gd ex rm d a s
def execCvtFp16F32 (gd : Guard) (ex : Exc) (rm : BitVec 4) (d a : BitVec 6) (s : State) : Result State :=
  floatConv .fp16F32 gd ex rm d a s
def execCvtF32Fp16 (gd : Guard) (ex : Exc) (rm : BitVec 4) (d a : BitVec 6) (s : State) : Result State :=
  floatConv .f32Fp16 gd ex rm d a s
def execCvtE4m3F32 (gd : Guard) (ex : Exc) (rm : BitVec 4) (d a : BitVec 6) (s : State) : Result State :=
  floatConv .e4m3F32 gd ex rm d a s
def execCvtF32E4m3 (gd : Guard) (ex : Exc) (rm : BitVec 4) (d a : BitVec 6) (s : State) : Result State :=
  floatConv .f32E4m3 gd ex rm d a s
def execCvtE5m2F32 (gd : Guard) (ex : Exc) (rm : BitVec 4) (d a : BitVec 6) (s : State) : Result State :=
  floatConv .e5m2F32 gd ex rm d a s
def execCvtF32E5m2 (gd : Guard) (ex : Exc) (rm : BitVec 4) (d a : BitVec 6) (s : State) : Result State :=
  floatConv .f32E5m2 gd ex rm d a s
def execCvtLgF32 (gd : Guard) (ex : Exc) (rm : BitVec 4) (d a : BitVec 6) (s : State) : Result State :=
  floatConv .lgF32 gd ex rm d a s
def execCvtF32Lg (gd : Guard) (ex : Exc) (rm : BitVec 4) (d a : BitVec 6) (s : State) : Result State :=
  floatConv .f32Lg gd ex rm d a s

end Sys2Proof.Machine
end

