-- ==== Sys2Proof/Machine/Lanes.lean ====
section
/-! DEFINITION. The vector view of a row's strands (R162–R165) and what the lanes compute for each per-element
instruction that touches no memory (R57, R199–R208). -/
namespace Sys2Proof.Machine

/-! ## The view -/

/-- The vector width under a captured type (R162). -/
def VCtx.wv (c : VCtx) (w : Width) : Nat := if c.bs && w.braced then 2 * w.grant.toNat else w.grant.toNat

/-- The register word that holds element `e` of the group at `b` (R164): strand, register, lowest bit. -/
def elemAt (wv ew : Nat) (b : BitVec 6) (e : Nat) : Nat × BitVec 6 × Nat :=
  (e % wv, b + BitVec.ofNat 6 (e / wv / (64 / ew)), ew * (e / wv % (64 / ew)))

/-- A g register of a strand, g0 reading zero (R54). -/
def Strand.greg (t : Strand) (n : BitVec 6) : BitVec 64 := if n = 0 then 0 else t.g[n.toNat]

/-- Element `e` of a register group (R164). -/
def elemGet (l : List Strand) (wv ew : Nat) (b : BitVec 6) (e : Nat) : Nat :=
  let (k, n, lo) := elemAt wv ew b e
  ((l.getD k Strand.idle).greg n).toNat / 2 ^ lo % 2 ^ ew

/-- Replace `n` bits at a place of a number. -/
def putBits (old lo n v : Nat) : Nat := old - old / 2 ^ lo % 2 ^ n * 2 ^ lo + v % 2 ^ n * 2 ^ lo

/-- Write element `e` of a register group; v0 discards it (R54). -/
def elemPut (l : List Strand) (wv ew : Nat) (b : BitVec 6) (e v : Nat) : List Strand :=
  let (k, n, lo) := elemAt wv ew b e
  if n = 0 then l
  else l.modify k fun t => { t with g := setReg t.g n.toNat (BitVec.ofNat 64 (putBits (t.g[n.toNat]).toNat lo ew v)) }

/-- Bit `e` of a mask, m0 reading all ones (R54, R164). -/
def maskGet (l : List Strand) (wv : Nat) (m : BitVec 5) (e : Nat) : Bool :=
  if m = 0 then true else ((l.getD (e % wv) Strand.idle).p[m.toNat]).getLsbD (e / wv)

/-- Write bit `e` of a mask; m0 discards it. -/
def maskPut (l : List Strand) (wv : Nat) (m : BitVec 5) (e : Nat) (b : Bool) : List Strand :=
  if m = 0 then l
  else l.modify (e % wv) fun t =>
    { t with p := setReg t.p m.toNat (BitVec.ofNat 64 (putBits (t.p[m.toNat]).toNat (e / wv) 1 (if b then 1 else 0))) }

/-- Bit `e` of md, and its writing (R155, R193). -/
def mdGet (l : List Strand) (wv e : Nat) : Bool := ((l.getD (e % wv) Strand.idle).md).getLsbD (e / wv)
def mdPut (l : List Strand) (wv e : Nat) (b : Bool) : List Strand :=
  l.modify (e % wv) fun t => { t with md := BitVec.ofNat 64 (putBits t.md.toNat (e / wv) 1 (if b then 1 else 0)) }

/-- Write several elements, and several mask bits. -/
def putElems (l : List Strand) (wv ew : Nat) (vd : BitVec 6) (es : List (Nat × Nat)) : List Strand :=
  es.foldl (fun l x => elemPut l wv ew vd x.1 x.2) l
def putMask (l : List Strand) (wv : Nat) (m : BitVec 5) (es : List (Nat × Bool)) : List Strand :=
  es.foldl (fun l x => maskPut l wv m x.1 x.2) l

/-- Whether an element is active under a guard (R57). -/
def guardedOn (l : List Strand) (wv : Nat) (gd : Guard) (e : Nat) : Bool := gd.g = 0 || (maskGet l wv gd.g e != gd.n)

/-- The active elements (R57), ascending. -/
def activeElems (l : List Strand) (wv vl : Nat) (gd : Guard) : List Nat := (List.range vl).filter (guardedOn l wv gd)

/-! ## Elements -/

/-- An element as a signed number. -/
def signedElem (ew a : Nat) : Int := if a < 2 ^ (ew - 1) then a else (a : Int) - 2 ^ ew

/-- A number wrapped to an element. -/
def wrapElem (ew : Nat) (a : Int) : Nat := (a % (2 ^ ew : Int)).toNat

/-- The integer functions of R199 on elements. -/
def intElem (f : IntFn) (ew a b : Nat) : Nat :=
  let sa := signedElem ew a
  let sb := signedElem ew b
  match f with
  | .add => (a + b) % 2 ^ ew
  | .sub => wrapElem ew ((a : Int) - b)
  | .mul => a * b % 2 ^ ew
  | .mulh => wrapElem ew (sa * sb / 2 ^ ew)
  | .and => a &&& b
  | .or => a ||| b
  | .xor => a ^^^ b
  | .sll => a * 2 ^ (b % ew) % 2 ^ ew
  | .srl => a / 2 ^ (b % ew)
  | .sra => wrapElem ew (sa / 2 ^ (b % ew))
  | .min => if sb < sa then b else a
  | .max => if sa < sb then b else a
  | .minu => Nat.min a b
  | .maxu => Nat.max a b

/-- The comparisons of R126 on elements. -/
def cmpElem (f : CmpFn) (ew a b : Nat) : Bool :=
  match f with
  | .eq => a == b
  | .ne => a != b
  | .lt => decide (signedElem ew a < signedElem ew b)
  | .ge => decide (signedElem ew b ≤ signedElem ew a)
  | .ltu => decide (a < b)
  | .geu => decide (b ≤ a)

/-- The float format of an element width (R201). -/
def elemFormat (ew : Nat) (half : Bool) : FFormat :=
  if ew = 64 then fp64 else if ew = 32 then fp32 else if half then fp16 else bf16

/-- Operand B of an element: a group, or the low bits of a captured scalar (R199). -/
def VSrc.elem (b : VSrc) (l : List Strand) (wv ew e : Nat) : Nat :=
  match b with
  | .v r => elemGet l wv ew r e
  | .x w => w.toNat % 2 ^ ew

/-- The flags of all elements together. -/
def allFlags (r : List (Nat × Nat × Flags)) : Flags := r.foldl (fun f x => f ||| x.2.2) 0

/-- Write float results, then the exception mask (R27, R59). -/
def putFloats (l : List Strand) (c : VCtx) (wv : Nat) (vd : BitVec 6) (ex : Exc) (r : List (Nat × Nat × Flags)) :
    List Strand × Flags :=
  let l := putElems l wv c.ew vd (r.map fun x => (x.1, x.2.1))
  (if ex.e then putMask l wv ex.m (r.map fun x => (x.1, excBit c.excsel x.2.2)) else l, allFlags r)

/-! ## What the lanes compute -/

/-- The elements of a mask that are set below VL, ascending (R204, R206). -/
def setElems (l : List Strand) (wv vl : Nat) (m : BitVec 5) : List Nat := (List.range vl).filter fun e => maskGet l wv m e

/-- Bit `e` of the destination of a mask operation (R203). -/
def maskBit (f : MaskFn) (l : List Strand) (wv vl : Nat) (ma mb : BitVec 5) (e : Nat) : Bool :=
  match f with
  | .and => maskGet l wv ma e && maskGet l wv mb e
  | .or => maskGet l wv ma e || maskGet l wv mb e
  | .xor => maskGet l wv ma e != maskGet l wv mb e
  | .andn => maskGet l wv ma e && !maskGet l wv mb e
  | .not => !maskGet l wv ma e
  | .mov => maskGet l wv ma e
  | .shl => decide (e ≠ 0) && maskGet l wv ma (e - 1)
  | .shr => decide (e + 1 < vl) && maskGet l wv ma (e + 1)
  | .set => true
  | .clr => false
  | .rdd => mdGet l wv e
  | .wrd => maskGet l wv ma e

/-- What a computing instruction leaves in the strands, and the flags it raises (R199–R203, R206, R208). All sources are
read before any destination is written. Memory and matrix instructions are not computed here. -/
def VOp.compute (op : VOp) (c : VCtx) (gd : Guard) (wv : Nat) (l : List Strand) : List Strand × Flags :=
  let act := activeElems l wv c.vl gd
  let ew := c.ew
  match op with
  | .int f vd va b =>
    (putElems l wv ew vd (act.map fun e => (e, intElem f ew (elemGet l wv ew va e) (b.elem l wv ew e))), 0)
  | .carry borrow vd va b mc mm =>
    let r := act.map fun e =>
      let x := elemGet l wv ew va e
      let y := b.elem l wv ew e + (if maskGet l wv mm e then 1 else 0)
      if borrow then (e, wrapElem ew ((x : Int) - y), decide (x < y)) else (e, (x + y) % 2 ^ ew, decide (2 ^ ew ≤ x + y))
    (putMask (putElems l wv ew vd (r.map fun x => (x.1, x.2.1))) wv mc (r.map fun x => (x.1, x.2.2)), 0)
  | .fbin f half ex rm vd va vb =>
    putFloats l c wv vd ex (act.map fun e =>
      (e, (elemFormat ew half).bin f (rmode rm c.rm) (elemGet l wv ew va e) (elemGet l wv ew vb e)))
  | .fun1 f half ex rm vd va =>
    putFloats l c wv vd ex (act.map fun e => (e, (elemFormat ew half).un f (rmode rm c.rm) (elemGet l wv ew va e)))
  | .fma f half ex rm vd va vb vc =>
    putFloats l c wv vd ex (act.map fun e =>
      (e, (elemFormat ew half).fused f (rmode rm c.rm) (elemGet l wv ew va e) (elemGet l wv ew vb e)
        (elemGet l wv ew vc e)))
  | .icmp f md va b =>
    (putMask l wv md (act.map fun e => (e, cmpElem f ew (elemGet l wv ew va e) (b.elem l wv ew e))), 0)
  | .fcmp f ex md va b =>
    let r := act.map fun e => (e, (elemFormat ew false).cmp f (elemGet l wv ew va e) (b.elem l wv ew e))
    let l := putMask l wv md (r.map fun x => (x.1, x.2.1))
    (if ex.e then putMask l wv ex.m (r.map fun x => (x.1, excBit c.excsel x.2.2)) else l,
     r.foldl (fun f x => f ||| x.2.2) 0)
  | .mask f md ma mb =>
    let r := act.map fun e => (e, maskBit f l wv c.vl ma mb e)
    (if f = .wrd then r.foldl (fun l x => mdPut l wv x.1 x.2) l else putMask l wv md r, 0)
  | .slideUp vd va x =>
    (putElems l wv ew vd ((act.filter fun e => decide (x.toNat ≤ e)).map fun e =>
      (e, elemGet l wv ew va (e - x.toNat))), 0)
  | .slideDown vd va x =>
    (putElems l wv ew vd (act.map fun e =>
      (e, if e + x.toNat < c.vl then elemGet l wv ew va (e + x.toNat) else 0)), 0)
  | .perm vd va vb =>
    (putElems l wv ew vd (act.map fun e =>
      let i := elemGet l wv ew vb e
      (e, if i < c.vl then elemGet l wv ew va i else 0)), 0)
  | .bcast vd x => (putElems l wv ew vd (act.map fun e => (e, x.toNat)), 0)
  | .compress vd va mb =>
    (putElems l wv ew vd ((setElems l wv c.vl mb).mapIdx fun i e => (i, elemGet l wv ew va e)), 0)
  | .expand vd va mb =>
    (putElems l wv ew vd ((setElems l wv c.vl mb).mapIdx fun i e => (e, elemGet l wv ew va i)), 0)
  | .ins vd x idx => (if idx.toNat < c.vl then elemPut l wv ew vd idx.toNat x.toNat else l, 0)
  | .conv f ex rm vd va =>
    putFloats l c wv vd ex (act.map fun e =>
      (e, convert f (rmode rm c.rm) (elemGet l wv ew va e % 2 ^ convReads f)))
  | _ => (l, 0)

/-! ## Scalars read from the lanes (R204, R206, R207) -/

/-- mpop, mffs, mfls (R204). -/
def maskCount (l : List Strand) (wv vl : Nat) (m : BitVec 5) : BitVec 64 := BitVec.ofNat 64 (setElems l wv vl m).length
def maskFirst (l : List Strand) (wv vl : Nat) (m : BitVec 5) : BitVec 64 :=
  match (setElems l wv vl m).head? with
  | some e => BitVec.ofNat 64 e
  | none => BitVec.allOnes 64
def maskLast (l : List Strand) (wv vl : Nat) (m : BitVec 5) : BitVec 64 :=
  match (setElems l wv vl m).getLast? with
  | some e => BitVec.ofNat 64 e
  | none => BitVec.allOnes 64

/-- An integer reduction step on 64-bit words (R207). -/
def redStep (f : RedFn) (acc x : BitVec 64) : BitVec 64 :=
  match f with
  | .add => acc + x
  | .and => acc &&& x
  | .or => acc ||| x
  | .xor => acc ^^^ x
  | .max => pickS true acc x
  | .min => pickS false acc x
  | .maxu => pickU true acc x
  | .minu => pickU false acc x

/-- Whether an integer reduction zero-extends its elements (R207). -/
def RedFn.unsigned : RedFn → Bool
  | .maxu => true
  | .minu => true
  | _ => false

/-- An integer reduction (R207): over the present elements (R41). -/
def intReduce (f : RedFn) (l : List Strand) (c : VCtx) (wv : Nat) (gd : Guard) (va : BitVec 6) (init : BitVec 64) :
    BitVec 64 :=
  (activeElems l wv c.vl gd).foldl (fun acc e =>
    let x := elemGet l wv c.ew va e
    redStep f acc (if f.unsigned then BitVec.ofNat 64 x else BitVec.ofInt 64 (signedElem c.ew x))) init

/-- A float reduction (R41–R43, R207). -/
def laneReduce (f : FRedFn) (half : Bool) (l : List Strand) (c : VCtx) (wv : Nat) (gd : Guard) (va : BitVec 6)
    (init : BitVec 64) : Nat × Flags :=
  let act := activeElems l wv c.vl gd
  floatReduce (elemFormat c.ew half) f (init.toNat % 2 ^ c.ew)
    ((List.range c.vl).map fun e => if act.contains e then some (elemGet l wv c.ew va e) else none)

end Sys2Proof.Machine
end

