-- ==== Sys2Proof/Machine/Strand.lean ====
section
/-! DEFINITION. Strand control and the cross-lane queues (R101–R108, R115, R138–R144, R198), and the events that complete a
waiting queue instruction, release held strands, end an overlong run and deliver a strand fault. -/
namespace Sys2Proof.Machine

/-! ## fetch, leash, heel, stop (R138–R141) -/

/-- FETCH to a checked target. -/
def fetchTo (target : BitVec 64) (s : State) (t : Agent) : Res :=
  match s.checkTarget t target (s.userMode t) with
  | .error (c, s') => trapAt s' c target
  | .ok s' => .done s' (.loose (s.arriveAt t (target.setWidth 48) false))

def execFetch (imm : BitVec 38) (s : State) : Result State :=
  issue Form.t noGuard (fun s t =>
    let target := s.immTarget (imm.signExtend 64)
    if s.immBad (imm.signExtend 64) then trapAt s 0x03 target else fetchTo target s t) s

def execFetchr (a : BitVec 6) (s : State) : Result State :=
  issue Form.t noGuard (fun s t => fetchTo (s.int t a) s t) s

/-- Write the leash (R139): no target is checked. -/
def State.putLeash (s : State) (a : Agent) (v : BitVec 48) : State :=
  match a with
  | .control .. => s
  | .strand p r k => s.modStrand p r k fun t => { t with leash := v }

def execLeash (imm : BitVec 38) (s : State) : Result State :=
  issue Form.t noGuard (fun s t => proceed (s.putLeash t ((s.immTarget (imm.signExtend 64)).setWidth 48))) s

def execLeashr (a : BitVec 6) (s : State) : Result State :=
  issue Form.t noGuard (fun s t => proceed (s.putLeash t ((s.int t a).setWidth 48))) s

/-- The leash of a strand. -/
def State.leashOf (s : State) (a : Agent) : BitVec 48 :=
  match a with
  | .control .. => 0
  | .strand p r k => (s.strand p r k).leash

/-- `heel` (R140): STOP with no leash, else to the leash and ARRIVE. -/
def execHeel (s : State) : Result State :=
  issue Form.t noGuard (fun s t =>
    let l := s.leashOf t
    if l = 0 then .done s .stop
    else
      match s.checkTarget t (va64 l) (s.userMode t) with
      | .error (c, s') => trapAt s' c (va64 l)
      | .ok s' => .done s' (.held l)) s

def execStop (s : State) : Result State := issue Form.t noGuard (fun s _ => .done s .stop) s

/-- `halt` (R141): HALT in a strand; a control thread waits for its strands and its queue, and outside a handler for its
strands' faults to be delivered, then its row ends. -/
def execHalt (s : State) : Result State :=
  issue (Form.s []) noGuard (fun s t =>
    match t with
    | .strand .. => .done s .halt
    | .control p r =>
      let w := s.row p r
      if w.strandsActive || !w.vq.isEmpty || (w.pendingStrand.isSome && !w.status.intrap) then .wait s .room else .done (s.mergeFlags p r) .halt) s

/-! ## Queues (R106–R108, R144, R198) -/

/-- A row's chain, and one link of it. -/
def Row.chain (w : Row) (q1 : Bool) : List (List (BitVec 64)) := if q1 then w.q1 else w.q0
def Row.link (w : Row) (q1 : Bool) (j : Nat) : List (BitVec 64) := (w.chain q1).getD j []
def Row.modLink (w : Row) (q1 : Bool) (j : Nat) (f : List (BitVec 64) → List (BitVec 64)) : Row :=
  if q1 then { w with q1 := w.q1.modify j f } else { w with q0 := w.q0.modify j f }

/-- A link's capacity (R106). -/
def linkRoom : Nat := 4

/-- Whether a strand has IDEM set (R115). -/
def State.idemOf (s : State) (a : Agent) : Bool :=
  match a with
  | .control .. => false
  | .strand p r k => (s.strand p r k).idem

/-- qsend (R107, R144): a group waits whole while any member's link is full. DESIGN CHOICE: a member with IDEM, which faults
(R115), does so only once no other member's link holds the group back (log 126). -/
def qsendOn (q1 : Bool) (d : BitVec 6) (s : State) : Result State :=
  issue Form.t noGuard (fun s t =>
    match t with
    | .control .. => proceed s
    | .strand p r k =>
      if s.idemOf t then trapAt s 0x01 0
      else if linkRoom ≤ ((s.row p r).link q1 (k + 1)).length then .wait s (.qsend q1 d)
      else
        let v := s.int t d
        proceed (s.modRow p r fun w => w.modLink q1 (k + 1) fun l => l ++ [v])) s

/-- qrecv (R107, R144): with some links of a group empty and some not, QSPLIT. DESIGN CHOICE: the link of a member with IDEM,
which faults (R115), counts among the group's links, and its fault waits while the whole group waits (log 126). -/
def qrecvOn (q1 : Bool) (d : BitVec 6) (s0 : State) : Result State :=
  issue Form.t noGuard (fun s t =>
    match t with
    | .control .. => proceed s
    | .strand p r k =>
      if s.idemOf t then trapAt s 0x01 0
      else
        let members := s0.groupOf p r k
        let fed := members.filter fun j => !((s0.row p r).link q1 j).isEmpty
        match (s.row p r).link q1 k with
        | [] => if fed.isEmpty then .wait s (.qrecv q1 d) else .done s (.stay (.qrecv q1 d))
        | v :: _ =>
          let s := (s.modRow p r fun w => w.modLink q1 k fun l => l.drop 1).writeLate t (.int d) v
          .done s (if fed.length = members.length then .go s.next else .loose s.next)) s0

/-- xqpush (R198). -/
def xqpushOn (q1 : Bool) (xd : BitVec 5) (s : State) : Result State :=
  issue Form.c noGuard (fun s t =>
    let (p, r) := t.pr
    if linkRoom ≤ ((s.row p r).link q1 0).length then .wait s (.xqpush q1 xd)
    else
      let v := s.xr t xd
      proceed (s.modRow p r fun w => w.modLink q1 0 fun l => l ++ [v])) s

/-- xqpop (R174, R198): waits for the earlier queued instructions, not for the lanes. -/
def xqpopOn (q1 : Bool) (xd : BitVec 5) (s : State) : Result State :=
  issue Form.c noGuard (fun s t =>
    let (p, r) := t.pr
    let w := s.row p r
    match w.vq, w.link q1 w.strands.length with
    | [], v :: _ =>
      proceed ((s.modRow p r fun w => w.modLink q1 w.strands.length fun l => l.drop 1).setX t xd v)
    | _, _ => .wait s (.xqpop q1 xd)) s

def execQsendQ0 (d : BitVec 6) (s : State) : Result State := qsendOn false d s
def execQsendQ1 (d : BitVec 6) (s : State) : Result State := qsendOn true d s
def execQrecvQ0 (d : BitVec 6) (s : State) : Result State := qrecvOn false d s
def execQrecvQ1 (d : BitVec 6) (s : State) : Result State := qrecvOn true d s
def execXqpushQ0 (xd : BitVec 5) (s : State) : Result State := xqpushOn false xd s
def execXqpushQ1 (xd : BitVec 5) (s : State) : Result State := xqpushOn true xd s
def execXqpopQ0 (xd : BitVec 5) (s : State) : Result State := xqpopOn false xd s
def execXqpopQ1 (xd : BitVec 5) (s : State) : Result State := xqpopOn true xd s

/-! ## Events -/

/-- The thread's waiting instruction goes on: its latch is restored before its meaning runs again. -/
def State.resume (s : State) (a : Agent) (f : Fetch) : State := { s with issuer := a, fetch := f }

/-- Whether a row's threads may act at all: resident, live, not stopped, parked or halted by a debugger. -/
def State.rowRuns (s : State) (p r : Nat) : Bool :=
  let k := s.pack p
  let w := s.row p r
  decide (p < s.packs.length) && decide (r < k.rows.length) && decide (k.life = .resident) && k.started &&
  decide (w.life = .live) && !w.stopped && !w.preempt.park && !w.dbg.halted

/-- QUEUE_WAIT_COMPLETE (R107): a blocked queue operation completes once its link allows it. -/
def execQueueWaitComplete (t : Agent) (s : State) : Result State :=
  let (p, r) := t.pr
  let strandRuns := match t with
    | .control .. => true
    | .strand _ _ k =>
      !(s.row p r).status.intrap && (decide ((s.strand p r k).state = .lockstep) || decide ((s.strand p r k).state = .loose))
  if !s.rowRuns p r || !strandRuns then .next s
  else
    match (s.thread t).waiting with
    | some (.qsend q1 d, f) => qsendOn q1 d (s.resume t f)
    | some (.qrecv q1 d, f) => qrecvOn q1 d (s.resume t f)
    | some (.xqpush q1 xd, f) => xqpushOn q1 xd (s.resume t f)
    | some (.xqpop q1 xd, f) => xqpopOn q1 xd (s.resume t f)
    | _ => .next s

/-- RELEASE (R101, R103): the held strands of a leash are released if the condition holds. -/
def execRelease (p r : Nat) (leash : BitVec 48) (s : State) : Result State :=
  if s.rowRuns p r && !(s.row p r).status.intrap then .next (s.release p r leash) else .next s

/-- RUN_LIMIT (R63): a run of 24 instructions ends as though the 24th were marked, and RUNLONG is set. The limit is
enforced where an instruction completes; the event finds nothing left to do unless a run stands at the limit. -/
def execRunLimit (t : Agent) (s : State) : Result State :=
  if 24 ≤ (s.thread t).run.count then
    .next ((s.endRun t false).modRow t.pr.1 t.pr.2 fun w => { w with status := { w.status with runlong := true } })
  else .next s

/-- Whether a wait is one that an asynchronous event ends at once (R112, R278). -/
def Waiting.takesEvents : Waiting → Bool
  | .rwait => true
  | .rfetch .. => true
  | .xqpush .. => true
  | .xqpop .. => true
  | .tlwait .. => true
  | .barWait _ => true
  | .barSync _ => true
  | _ => false

/-- Where asynchronous events are taken (R112, R278): outside a handler, at a run boundary (a waiting thread stands at
one, R178). Between substitutes there is none (R80), but a substitute may wait for an event. -/
def State.atBoundary (s : State) (p r : Nat) : Bool :=
  let w := s.row p r
  s.rowRuns p r && !w.status.intrap && decide (w.thread.run.count = 0) &&
  (w.thread.patch.isNone || w.thread.waiting.any fun x => x.1.takesEvents)

/-- STRAND_FAULT_TRAP (R112, R459): the lowest pending strand's fault is delivered as trap 0x11 and its PEND cleared; a debug
break halts the row under CATCH. A machine check that waits is taken first (R278). -/
def execStrandFaultTrap (p r : Nat) (s : State) : Result State :=
  if !s.atBoundary p r || (s.row p r).mcheck.isSome then .next s
  else
    match (s.row p r).pendingStrand with
    | none => .next s
    | some k =>
      let word := BitVec.ofNat 64 (s.strand p r k).word
      let s := s.modStrand p r k fun t => { t with pend := false }
      let pc := (s.row p r).thread.pc
      if (s.strand p r k).cause = 0x0E then .next (s.debugBreak p r 0x11 pc word (BitVec.ofNat 13 k))
      else .next (s.takeTrap p r 0x11 pc word (BitVec.ofNat 13 k))

end Sys2Proof.Machine
end

