-- ==== Sys2Proof/Machine/System.lean ====
section
/-! DEFINITION. Status registers and system instructions (R113, R143, R150–R154, R281), and the machine-check event
(R278, R296, R297). -/
namespace Sys2Proof.Machine

/-! ## getsr and setsr (R150–R152) -/

/-- The number that A and B name (R150). -/
def srNumber (a b : BitVec 6) : Nat := a.toNat * 64 + b.toNat

/-- Registers that strand code may read (R151). -/
def srStrandReads (n : Nat) : Bool :=
  n = 0x00A || n = 0x008 || n = 0x00B || n = 0x00D || decide (0x010 ≤ n ∧ n ≤ 0x017) || decide (0x040 ≤ n ∧ n ≤ 0x042)

/-- Whether a number is STRANDPC, STRANDLEASH or STRANDSTATE. -/
def srOfStrand (n : Nat) : Bool := decide (0x031 ≤ n ∧ n ≤ 0x033)

/-- Strand flags that happen to be merged by now (R26): of each strand, or not. -/
def State.mergeSome (s : State) (p r : Nat) : State :=
  s.modRow p r fun w =>
    let merged := fun k => decide (s.pick (1000 + k) 2 = 0)
    { w with fp := { w.fp with flags := (w.strands.mapIdx fun k t => if merged k then t.flags else 0).foldl (· ||| ·) w.fp.flags },
             strands := w.strands.mapIdx fun k t => if merged k then { t with flags := 0 } else t }

/-- The key under which an earlier value of a register is owed: the strand registers go by strand. -/
def srKey (n k : Nat) : Nat := if srOfStrand n then n + 4096 * (k + 1) else n

/-- What a control thread's getsr returns (R113, R150, R152). -/
def State.getsrWord (s : State) (p r n : Nat) : BitVec 64 :=
  let k := (s.srSeen p r 0x030).toNat
  if srOfStrand n then
    if (s.row p r).strands.length ≤ k then 0
    else if (s.row p r).status.intrap then
      match s.srOlds p r (srKey n k) with
      | [] => BitVec.ofNat 64 (s.strandWord p r k n)
      | l => l.getD (s.pick (600 + n) (l.length + 1)) (BitVec.ofNat 64 (s.strandWord p r k n))
    else s.strandSeen p r k n
  else s.srSeen p r n

/-- getsr. A read of FPSTATUS may or may not include strand flags not yet merged, in strand code too (R26). -/
def getsrAt (d : BitVec 6) (n : Nat) (s : State) (t : Agent) : Res :=
  match t with
  | .control p r =>
    if !srAllocated n then trapIll s
    else if decide ((s.row p r).status.cmode = .user) && srAllSup n then .trap s 0x04 s.fetch.raw 0
    else if n = 0x00A then
      if !(s.row p r).vq.isEmpty then .wait s .room
      else
        let s := s.mergeSome p r
        lateInt s t d (s.getsrWord p r n)
    else lateInt s t d (s.getsrWord p r n)
  | .strand p r _ =>
    if !srAllocated n then trapIll s
    else if n = 0x00A then
      let s := s.mergeSome p r
      lateInt s t d (s.srWord p r n)
    else if srStrandReads n then lateInt s t d (s.srWord p r n)
    else .trap s 0x04 s.fetch.raw 0

/-- The write of a control thread (R4, R113, R150): STRANDSEL and the strand registers only from a handler. -/
def State.setsrWord (s : State) (p r n : Nat) (v : BitVec 64) : State :=
  let w := s.row p r
  let sup := decide (w.status.cmode ≠ .user)
  let k := (s.srSeen p r 0x030).toNat
  if srOfStrand n then
    if w.status.intrap && decide (k < w.strands.length) then
      (s.srOwe p r (srKey n k) (BitVec.ofNat 64 (s.strandWord p r k n))).editStrand p r k n v
    else s
  else if n = 0x030 && !w.status.intrap then s
  else (s.srOwe p r n (s.srWord p r n)).srPut p r n v sup (decide (w.status.cmode = .firmware))

/-- setsr. -/
def setsrAt (d : BitVec 6) (n : Nat) (s : State) (t : Agent) : Res :=
  match t with
  | .control p r =>
    let user := decide ((s.row p r).status.cmode = .user)
    let v := s.int t d
    if !srAllocated n then trapIll s
    else if user && (srAllSup n || s.srTouchesSup p r n v) then .trap s 0x04 s.fetch.raw 0
    else if n = 0x00A then
      if !(s.row p r).vq.isEmpty then .wait s .room else proceed ((s.mergeSome p r).setsrWord p r n v)
    else proceed (s.setsrWord p r n v)
  | .strand .. =>
    if !srAllocated n then trapIll s
    else if n = 0x00A then proceed s
    else .trap s 0x04 s.fetch.raw 0

/-- `getsr`; the one of register 0x029 is `cpgo` (R71, R268). -/
def execGetsr (d a b : BitVec 6) (s : State) : Result State :=
  issue ((Form.s [d]).when (¬ (a = 0 ∧ b = 41))) noGuard (getsrAt d (srNumber a b)) s

def execSetsr (d a b : BitVec 6) (s : State) : Result State :=
  issue (Form.s [d]) noGuard (setsrAt d (srNumber a b)) s

/-- `trap` (R153). -/
def execTrap (a b : BitVec 6) (s : State) : Result State :=
  issue (Form.s []) noGuard (fun s _ => trapAt s 0x0F (BitVec.ofNat 64 (srNumber a b))) s

/-- `rdcyc` (R154). -/
def execRdcyc (d : BitVec 6) (s : State) : Result State :=
  issue (Form.s [d]) noGuard (fun s t => lateInt s t d (BitVec.ofNat 64 s.cycle)) s

/-! ## tret (R143, R281) -/

/-- The mode and the return address a tret resumes with (R152, R281). -/
def State.returnMode (s : State) (p r : Nat) : CMode :=
  let n := (s.srSeen p r 0x000).toNat / 4 % 4
  if n = 1 then .supervisor else if n = 2 then .firmware else .user
def State.returnPc (s : State) (p r : Nat) : BitVec 48 := (s.srSeen p r 0x002).setWidth 48

/-- The matches still exempt after a tret to an address (R457, R458): the one there becomes so again; of the others, a return
from a nested trap keeps those the outer handler will return to. -/
def skipsAfter (l : List (BitVec 48 × Bool)) (nest : Bool) (target : BitVec 48) : List (BitVec 48 × Bool) :=
  (l.filter fun x => nest || decide (x.1 = target)).map fun x => (x.1, decide (x.1 = target))

/-- Return from a trap (R281): PMODE is restored, INTRAP and NEST cleared, the strand edits applied; after trap 0x12 the row
parks; a matched instruction returned to does not match again (R457). -/
def State.trapReturn (s : State) (p r : Nat) (mode : CMode) (target : BitVec 48) : State :=
  let s := s.modRow p r fun w =>
    { w with status := { w.status with cmode := mode, intrap := false }, trap := { w.trap with nest := false },
             bpSkip := skipsAfter w.bpSkip w.trap.nest target,
             preempt := { w.preempt with park := w.preempt.park || decide (w.trap.cause = 0x12) } }
  s.applyEdits p r

/-- The form of `tret`: supervisor-only (R143). -/
def tretForm : Form := { legal := true, kind := .s, sup := true, regs := [] }

def execTret (s : State) : Result State :=
  issue tretForm noGuard (fun s t =>
    let (p, r) := t.pr
    let mode := s.returnMode p r
    let target := s.returnPc p r
    match s.checkTarget t (va64 target) (decide (mode = .user)) with
    | .error (c, s') => trapAt s' c (va64 target)
    | .ok s' => .done (s'.trapReturn p r mode target) (.loose target)) s

/-- An encoding outside the opcode map (R67 check 2): trap 0x01 with the encoding (R68). -/
def execIllegalInstruction (raw : BitVec 64) (s : State) : Result State :=
  issue ((Form.s []).when False) noGuard (fun s _ => trapIll s) { s with fetch := { s.fetch with raw := raw } }

/-- MACHINE_CHECK (R278, R297): the waiting machine check is delivered as trap 0x10. -/
def execMachineCheck (p r : Nat) (s : State) : Result State :=
  if !s.atBoundary p r then .next s
  else
    match (s.row p r).mcheck with
    | none => .next s
    | some m =>
      let s := s.modRow p r fun w => { w with mcheck := none }
      .next (s.takeTrap p r 0x10 (s.row p r).thread.pc m.syndrome m.elem)

end Sys2Proof.Machine
end

