-- ==== Sys2Proof/Machine/Vector.lean ====
section
/-! DEFINITION. The control thread's vector side (R170–R174, R189–R208): granting a length, dispatch, rwait, the issue of
per-element instructions to the vector queue, and the instructions that read the lanes into x registers. -/
namespace Sys2Proof.Machine

/-! ## Capture at issue -/

/-- The vector type and modes as the control thread captures them (R20, R27, R152, R190). -/
def State.vctx (s : State) (p r : Nat) : VCtx :=
  let w := s.row p r
  let fp := s.srSeen p r 0x00A
  { vl := w.vl.toNat, vstart := (s.srSeen p r 0x005).toNat % 8192, ew := 8 * 2 ^ w.vtype.ew.toNat,
    grp := 2 ^ w.vtype.g.toNat, bs := w.vtype.bs, rm := fp.setWidth 3, excsel := (fp >>> 16).setWidth 5 }

/-- Whether every group base is a multiple of the group factor (R165). -/
def basesOk (c : VCtx) (regs : List (BitVec 6)) : Bool := regs.all fun b => decide (b.toNat % c.grp = 0)

/-- The vector queue's capacity (R170). -/
def vqRoom : Nat := 64

/-- Give an instruction an entry of the row's vector queue (R170). -/
def State.enqueue (s : State) (p r : Nat) (op : VOp) (c : VCtx) (gd : Guard) (rings : List Nat) (stop : Bool) : State :=
  s.modRow p r fun w =>
    { w with vq := w.vq ++ [{ op := op, ctx := c, guard := gd, seq := w.issueSeq, rings := rings, pc := s.fetch.pc,
                              stop := stop, cycle := s.cycle, earlier := none, words := [], met := none, checked := false }],
             issueSeq := w.issueSeq + 1,
             summary := { w.summary with vectors := satInc w.summary.vectors } }

/-- The type fields of a history record (R461). -/
def VCtx.histType (c : VCtx) : Nat :=
  bitAt c.bs 53 + Nat.log2 c.grp * 2 ^ 50 + Nat.log2 (c.ew / 8) * 2 ^ 48

/-- The second word of a history record (R461): SEQ, STOP, POP, VL. -/
def histCounts (seq : Nat) (stop : Bool) (pop vl : Nat) : BitVec 64 :=
  BitVec.ofNat 64 (seq % 2 ^ 32 * 2 ^ 32 + bitAt stop 31 + pop * 2 ^ 14 + vl)

/-- The physical lane of a strand (R167). -/
def laneAt (healthy : BitVec 32) (grant k : Nat) : Nat :=
  let ranks := (List.range 32).filter fun i => healthy.getLsbD i
  ranks.getD ((if k < grant then k else k - grant) % ranks.length) 0

/-- What the history and the sampling say of an instruction that retires or stops (R461, R464): its address, type fields,
STOP, POP, VL, FIRST, LAST, CYCLE at issue, and the strands of its elements below VL and of those it performed. -/
structure Retired where
  pc : BitVec 48
  typ : Nat
  stop : Bool
  pop : Nat
  vl : Nat
  first : BitVec 64
  last : BitVec 64
  cycle : Nat
  held : List Nat
  done : List Nat

/-- The header of a sample, and for each lane group of the core the elements completed there, if it holds any (R464). -/
def Retired.sample (x : Retired) (c : Core) (seq context grant : Nat) (foll : Bool) : List (BitVec 64) :=
  let there := fun (g k : Nat) => decide (decide (grant ≤ k) = foll) && decide (laneAt c.healthy grant k / 8 = g)
  [x.pc.setWidth 64, BitVec.ofNat 64 (seq % 2 ^ 32), BitVec.ofNat 64 x.cycle, BitVec.ofNat 64 context] ++
  (List.range 4).map fun g =>
    if x.held.any (there g) then BitVec.ofNat 64 (2 ^ 63 + ((x.done.filter (there g)).length) % 2 ^ 16) else 0

/-- One vector instruction in N of a core's rows with a right is due as a sample (R464). -/
def State.countSample (s : State) (core : Nat) (words : List (BitVec 64)) : State :=
  s.modCore core fun k =>
    { k with sample := k.sample.map fun m =>
        { m with count := m.count + 1,
                 due := if (m.count + 1) % m.set.period = 0 then m.due ++ [words] else m.due } }

/-- A vector instruction retires or stops: its record enters the row's ring of 256 (R461), and one in N of a core's is due
as a sample (R464), on both cores of a brace, which execute it together (R180). -/
def State.vectorDone (s : State) (p r : Nat) (x : Retired) : State :=
  let s := s.modRow p r fun w =>
    let rec_ : HistRecord :=
      { words := [BitVec.ofNat 64 (x.pc.toNat + x.typ), histCounts (w.histSeq + 1) x.stop x.pop x.vl, x.first, x.last] }
    { w with histSeq := w.histSeq + 1, history := ((rec_ :: w.history.reverse).take 256).reverse }
  let w := s.row p r
  let k := s.pack p
  let words := fun (c : Nat) (foll : Bool) => x.sample (s.core c) w.histSeq w.context w.width.grant.toNat foll
  if w.dbg.right then
    let s1 := s.countSample k.core (words k.core false)
    if k.braced then s1.countSample (k.core + 1) (words (k.core + 1) true) else s1
  else s

/-- How many elements below VL are active: all of them when unguarded (R57, R461). -/
def popCount (l : List Strand) (wv : Nat) (c : VCtx) (gd : Guard) : Nat :=
  if gd.g = 0 then c.vl else (activeElems l wv c.vl gd).length

/-- What is said of a per-element instruction (R461): `w` is the row before it executes, `acc` the elements it performed with
their addresses, where it has addresses. -/
def VCtx.retired (c : VCtx) (w : Row) (gd : Guard) (pc : BitVec 48) (cycle : Nat) (stop : Bool)
    (acc : Option (List (Nat × BitVec 64))) : Retired :=
  let wv := c.wv w.width
  let strandOf := fun (e : Nat) => e % wv
  let addrs := (acc.getD []).map Prod.snd
  { pc := pc, typ := c.histType, stop := stop, pop := popCount w.strands wv c gd, vl := c.vl,
    first := addrs.head?.getD 0, last := addrs.getLast?.getD 0, cycle := cycle,
    held := (List.range c.vl).map strandOf,
    done := (match acc with
      | some l => l.map Prod.fst
      | none => activeElems w.strands wv c.vl gd).map strandOf }

/-- What is said of an instruction that uses no VL (R461). -/
def bareRetired (pc : BitVec 48) (cycle : Nat) (first : BitVec 64) : Retired :=
  { pc := pc, typ := 0, stop := false, pop := 0, vl := 0, first := first, last := first, cycle := cycle, held := [], done := [] }

/-- An instruction that the thread waited for retires at once (R174); it counts as a vector instruction (R463). -/
def State.syncDone (s : State) (p r : Nat) (x : Retired) : State :=
  (s.vectorDone p r x).modRow p r fun w => { w with summary := { w.summary with vectors := satInc w.summary.vectors } }

/-- Issue of a per-element instruction: a free entry, the group bases, the type, then the queue (R165, R170, R194). -/
def vecIssue (i : Form) (groups : List (BitVec 6)) (bad : VCtx → Bool) (gd : Guard) (op : State → Agent → VOp)
    (s : State) : Result State :=
  issue i noGuard (fun s t =>
    let (p, r) := t.pr
    let c := s.vctx p r
    if vqRoom ≤ (s.row p r).vq.length then .hold s
    else if !basesOk c groups || bad c then trapIll s
    else proceed (s.enqueue p r (op s t) c gd [] false)) s

/-- Whether every earlier instruction of a row's queue has executed and its lanes are free (R174, R191). -/
def Row.caughtUp (w : Row) : Bool := w.unslotted.vq.isEmpty && w.lanesFree

/-- The control thread takes the vector-queue entry of an instruction that must wait for the lanes (R170, R172, R174). -/
def State.takeSlot (s : State) (p r : Nat) (c : VCtx) (gd : Guard) (cycle : Nat) : State :=
  s.modRow p r fun w =>
    { w with vq := w.vq ++ [{ op := .slot, ctx := c, guard := gd, seq := w.issueSeq, rings := [], pc := s.fetch.pc,
                              stop := false, cycle := cycle, earlier := none, words := [], met := none, checked := false }] }

/-- CYCLE at the issue of the instruction that a control thread executes now: when it took its entry, if it waited (R461, R464). -/
def State.issueCycle (s : State) (p r : Nat) : Nat :=
  (((s.row p r).vq.find? fun x => decide (x.op = .slot)).map fun x => x.cycle).getD s.cycle

/-- An instruction that reads the lanes: it takes a queue entry when one is free (R170), waits with it until the lanes have caught up
(R172, R174), and gives it back as it acts. -/
def whenCaughtUp (p r : Nat) (c : VCtx) (gd : Guard) (f : State → Res) (s : State) : Res :=
  let w := s.row p r
  if vqRoom ≤ w.vq.length && !w.slotHeld then .hold s
  else if !w.caughtUp then .wait (if w.slotHeld then s else s.takeSlot p r c gd s.cycle) .slot
  else f (s.modRow p r Row.unslotted)

/-- Issue of an instruction that waits for the lanes and reads them (R174). -/
def vecSync (i : Form) (groups : List (BitVec 6)) (bad : VCtx → Bool) (gd : Guard)
    (f : State → Agent → VCtx → Row → Res) (s : State) : Result State :=
  issue i noGuard (fun s t =>
    let (p, r) := t.pr
    let c := s.vctx p r
    let at_ := s.issueCycle p r
    if !basesOk c groups || bad c then trapIll s
    else whenCaughtUp p r c gd (fun s =>
      let w := s.row p r
      match f s t c w with
      | .done s' n => .done (s'.syncDone p r (c.retired w gd s.fetch.pc at_ false none)) n
      | o => o) s) s

/-- No type is refused; EW = 8 is (R194). -/
def anyType (_ : VCtx) : Bool := false
def noBytes (c : VCtx) : Bool := decide (c.ew = 8)

/-! ## setvl (R195) -/

/-- Whether every link of a row is empty. -/
def Row.linksEmpty (w : Row) : Bool := (w.q0.all fun l => l.isEmpty) && (w.q1.all fun l => l.isEmpty)

/-- Whether every strand is IDLE or HALTED. -/
def Row.strandsDone (w : Row) : Bool := w.strands.all fun t => decide (t.state = .idle) || decide (t.state = .halted)

/-- VLMAX under a type (R164). -/
def vlMax (w : Width) (v : VType) : Nat :=
  (if v.bs then 2 * w.grant.toNat else w.grant.toNat) * 2 ^ v.g.toNat * (64 / (8 * 2 ^ v.ew.toNat))

def execSetvl (xd xa vt : BitVec 5) (s : State) : Result State :=
  issue Form.c noGuard (fun s t =>
    let (p, r) := t.pr
    let w := s.row p r
    let v : VType := { bs := vt.getLsbD 4, g := (vt >>> 2).setWidth 2, ew := vt.setWidth 2 }
    if v.bs && !w.width.braced then trapIll s
    else if w.preempt.req && !w.status.intrap && w.strandsDone && w.linksEmpty then trapAt s 0x12 0
    else
      let vl := Nat.min (s.xr t xa).toNat (vlMax w.width v)
      proceed ((s.modRow p r fun w => { w with vl := BitVec.ofNat 14 vl, vtype := v, vstart := 0 }).setX t xd
        (BitVec.ofNat 64 vl))) s

/-! ## Dispatch and rwait (R104, R196, R197) -/

/-- The strands a dispatch binds that are IDLE (R104, R161, R196). -/
def boundIdle (w : Row) (mask : BitVec 64) : List Nat :=
  (List.range w.strands.length).filter fun k =>
    mask.getLsbD (k % w.width.grant.toNat) && decide ((w.strands.getD k Strand.idle).state = .idle)

/-- DISPATCH (R101): one group of the bound IDLE strands at the target; an .idem form records the set and the target (R116,
R196). -/
def State.dispatch (s : State) (p r : Nat) (mask : BitVec 64) (target : BitVec 48) (idem : Bool) : State :=
  let l := boundIdle (s.row p r) mask
  let s := if l.isEmpty then s
    else s.formGroup p r l fun t =>
      { t with leash := 0, idem := idem, qblk := false, skip := false, thread := Thread.start target }
  if idem then s.modRow p r fun w => { w with recorded := some { entry := target, set := l } } else s

/-- The pending scalar writes of some agents of a row leave the L1 of either core (R197, R342). -/
def State.drainAgents (s : State) (p : Nat) (f : Agent → Bool) : State :=
  let drain := fun (s : State) (c : Nat) => s.drainN c (drainUpTo (fun e => f e.agent) (s.core c).l1)
  let s := drain s (s.pack p).core
  if (s.pack p).braced then drain s ((s.pack p).core + 1) else s

/-- Whether an agent is a strand of a row. -/
def strandOf (p r : Nat) : Agent → Bool
  | .strand q j _ => decide (q = p ∧ j = r)
  | .control .. => false

/-- What a control thread has done is performed before what the strands it dispatches do (R342): on a brace beyond its L1. -/
def State.handToStrands (s : State) (a : Agent) : State :=
  let s := s.forget fun e => strandOf a.pr.1 a.pr.2 e.agent
  if (s.pack a.pr.1).braced then s.drainVisible a else s.startCommand a

/-- What a row's strands have done is performed before what its control thread does next, as its own accesses (R197, R342). -/
def State.joinStrands (s : State) (p r : Nat) : State :=
  let s := s.forgetAll (.control p r)
  let k := s.pack p
  let s := if (s.core k.core).l1.isEmpty then s
    else s.modCore k.core fun c => { c with l1 := c.l1.map fun e =>
      (if strandOf p r e.agent then { e with settled := true, shown := true } else e) }
  if k.braced then
    s.drainN (k.core + 1) (drainUpTo (fun e => strandOf p r e.agent) (s.core (k.core + 1)).l1)
  else s

/-- rfetch and its forms (R104, R196). -/
def rfetchOn (idem : Bool) (imm : Option (BitVec 38)) (xa : BitVec 5) (s : State) : Result State :=
  issue Form.c noGuard (fun s t =>
    let (p, r) := t.pr
    let w := s.row p r
    if !w.vq.isEmpty || w.strandsActive then .wait s (.rfetch idem imm xa)
    else
      let target := match imm with
        | some i => s.immTarget (i.signExtend 64)
        | none => s.xr t xa
      let bad := match imm with
        | some i => s.immBad (i.signExtend 64)
        | none => false
      if bad then trapAt s 0x03 target
      else
        match s.checkTarget t target true with
        | .error (c, s') => trapAt s' c target
        | .ok s' =>
          let s' := s'.handToStrands t
          proceed (s'.dispatch p r (s'.srSeen p r 0x009) (target.setWidth 48) idem)) s

def execRfetch (imm : BitVec 38) (s : State) : Result State := rfetchOn false (some imm) 0 s
def execRfetchIdem (imm : BitVec 38) (s : State) : Result State := rfetchOn true (some imm) 0 s
def execRfetchr (xa : BitVec 5) (s : State) : Result State := rfetchOn false none xa s
def execRfetchrIdem (xa : BitVec 5) (s : State) : Result State := rfetchOn true none xa s

/-- rwait (R197): the strands have left the lanes, the queue has executed, their flags are merged and their stores
performed. It is a safe point (R77). -/
def execRwait (s : State) : Result State :=
  issue Form.c noGuard (fun s t =>
    let (p, r) := t.pr
    let w := s.row p r
    if w.strandsActive || !w.vq.isEmpty then .wait s .rwait
    else .done ((s.mergeFlags p r).joinStrands p r) (.go (s.arriveAt t s.next true))) s

/-- RFETCH_TAKE_EFFECT (R104): a waiting rfetch takes effect once its wait is over. -/
def execRfetchTakeEffect (p r : Nat) (s : State) : Result State :=
  if !s.rowRuns p r then .next s
  else
    match (s.row p r).thread.waiting with
    | some (.rfetch idem imm xa, f) => rfetchOn idem imm xa (s.resume (.control p r) f)
    | _ => .next s

/-- RWAIT_COMPLETE (R197). -/
def execRwaitComplete (p r : Nat) (s : State) : Result State :=
  if !s.rowRuns p r then .next s
  else
    match (s.row p r).thread.waiting with
    | some (.rwait, f) => execRwait (s.resume (.control p r) f)
    | _ => .next s

/-! ## Per-element arithmetic (R199–R203) -/

/-- A C-kind form with a guard. -/
def vForm (gd : Guard) : Form := Form.c.when gd.wf

/-- An integer function on two groups, and on a group and a scalar (R199). -/
def vecInt (f : IntFn) (gd : Guard) (vd va vb : BitVec 6) (s : State) : Result State :=
  vecIssue (vForm gd) [vd, va, vb] anyType gd (fun _ _ => .int f vd va (.v vb)) s
def vecIntX (f : IntFn) (gd : Guard) (vd va : BitVec 6) (xb : BitVec 5) (s : State) : Result State :=
  vecIssue (vForm gd) [vd, va] anyType gd (fun s t => .int f vd va (.x (s.xr t xb))) s

/-- A carry or borrow form (R200). -/
def vecCarry (borrow : Bool) (gd : Guard) (vd va vb : BitVec 6) (mc mm : BitVec 5) (s : State) : Result State :=
  vecIssue (vForm gd) [vd, va, vb] anyType gd (fun _ _ => .carry borrow vd va (.v vb) mc mm) s
def vecCarryX (borrow : Bool) (gd : Guard) (vd va : BitVec 6) (xb : BitVec 5) (mc mm : BitVec 5) (s : State) :
    Result State :=
  vecIssue (vForm gd) [vd, va] anyType gd (fun s t => .carry borrow vd va (.x (s.xr t xb)) mc mm) s

/-- The float forms (R201). -/
def vecFBin (f : FBinFn) (gd : Guard) (ex : Exc) (rm : BitVec 4) (half : Bool) (vd va vb : BitVec 6) (s : State) :
    Result State :=
  vecIssue (Form.c.when (gd.wf ∧ ex.wf ∧ rm ≤ 5)) [vd, va, vb] noBytes gd
    (fun _ _ => .fbin f half ex rm vd va vb) s
def vecFUn (f : FUnFn) (gd : Guard) (ex : Exc) (rm : BitVec 4) (half : Bool) (vd va : BitVec 6) (s : State) :
    Result State :=
  vecIssue (Form.c.when (gd.wf ∧ ex.wf ∧ rm ≤ 5)) [vd, va] noBytes gd (fun _ _ => .fun1 f half ex rm vd va) s
def vecFma (f : FmaFn) (gd : Guard) (ex : Exc) (rm : BitVec 4) (half : Bool) (vd va vb vc : BitVec 6) (s : State) :
    Result State :=
  vecIssue (Form.c.when (gd.wf ∧ ex.wf ∧ rm ≤ 5)) [vd, va, vb, vc] noBytes gd
    (fun _ _ => .fma f half ex rm vd va vb vc) s

/-- Operand B of a compare: a group, or the x register its low bits name (R202). -/
def cmpSrc (xb : Bool) (b : BitVec 6) (s : State) (t : Agent) : VSrc := if xb then .x (s.int t b) else .v b

/-- Whether a compare's x operand lies outside x0–x31 (R53). -/
def cmpLegal (xb : Bool) (b : BitVec 6) : Bool := !xb || decide (b.toNat < 32)

/-- The integer and float compares (R202). -/
def vecCmp (f : CmpFn) (gd : Guard) (xb : Bool) (md : BitVec 5) (va b : BitVec 6) (s : State) : Result State :=
  vecIssue (Form.c.when (gd.wf ∧ cmpLegal xb b)) (if xb then [va] else [va, b]) anyType gd
    (fun s t => .icmp f md va (cmpSrc xb b s t)) s
def vecFCmp (f : FCmpFn) (gd : Guard) (ex : Exc) (xb : Bool) (md : BitVec 5) (va b : BitVec 6) (s : State) :
    Result State :=
  vecIssue (Form.c.when (gd.wf ∧ ex.wf ∧ cmpLegal xb b)) (if xb then [va] else [va, b]) noBytes gd
    (fun s t => .fcmp f ex md va (cmpSrc xb b s t)) s

/-- A mask operation (R203). -/
def vecMask (f : MaskFn) (gd : Guard) (md ma mb : BitVec 5) (s : State) : Result State :=
  vecIssue (vForm gd) [] anyType gd (fun _ _ => .mask f md ma mb) s

def execVadd (gd : Guard) (vd va vb : BitVec 6) (s : State) : Result State := vecInt .add gd vd va vb s
def execVsub (gd : Guard) (vd va vb : BitVec 6) (s : State) : Result State := vecInt .sub gd vd va vb s
def execVmul (gd : Guard) (vd va vb : BitVec 6) (s : State) : Result State := vecInt .mul gd vd va vb s
def execVmulh (gd : Guard) (vd va vb : BitVec 6) (s : State) : Result State := vecInt .mulh gd vd va vb s
def execVand (gd : Guard) (vd va vb : BitVec 6) (s : State) : Result State := vecInt .and gd vd va vb s
def execVor (gd : Guard) (vd va vb : BitVec 6) (s : State) : Result State := vecInt .or gd vd va vb s
def execVxor (gd : Guard) (vd va vb : BitVec 6) (s : State) : Result State := vecInt .xor gd vd va vb s
def execVsll (gd : Guard) (vd va vb : BitVec 6) (s : State) : Result State := vecInt .sll gd vd va vb s
def execVsrl (gd : Guard) (vd va vb : BitVec 6) (s : State) : Result State := vecInt .srl gd vd va vb s
def execVsra (gd : Guard) (vd va vb : BitVec 6) (s : State) : Result State := vecInt .sra gd vd va vb s
def execVmin (gd : Guard) (vd va vb : BitVec 6) (s : State) : Result State := vecInt .min gd vd va vb s
def execVmax (gd : Guard) (vd va vb : BitVec 6) (s : State) : Result State := vecInt .max gd vd va vb s
def execVminu (gd : Guard) (vd va vb : BitVec 6) (s : State) : Result State := vecInt .minu gd vd va vb s
def execVmaxu (gd : Guard) (vd va vb : BitVec 6) (s : State) : Result State := vecInt .maxu gd vd va vb s
def execVaddVx (gd : Guard) (vd va : BitVec 6) (xb : BitVec 5) (s : State) : Result State := vecIntX .add gd vd va xb s
def execVsubVx (gd : Guard) (vd va : BitVec 6) (xb : BitVec 5) (s : State) : Result State := vecIntX .sub gd vd va xb s
def execVmulVx (gd : Guard) (vd va : BitVec 6) (xb : BitVec 5) (s : State) : Result State := vecIntX .mul gd vd va xb s
def execVmulhVx (gd : Guard) (vd va : BitVec 6) (xb : BitVec 5) (s : State) : Result State := vecIntX .mulh gd vd va xb s
def execVandVx (gd : Guard) (vd va : BitVec 6) (xb : BitVec 5) (s : State) : Result State := vecIntX .and gd vd va xb s
def execVorVx (gd : Guard) (vd va : BitVec 6) (xb : BitVec 5) (s : State) : Result State := vecIntX .or gd vd va xb s
def execVxorVx (gd : Guard) (vd va : BitVec 6) (xb : BitVec 5) (s : State) : Result State := vecIntX .xor gd vd va xb s
def execVsllVx (gd : Guard) (vd va : BitVec 6) (xb : BitVec 5) (s : State) : Result State := vecIntX .sll gd vd va xb s
def execVsrlVx (gd : Guard) (vd va : BitVec 6) (xb : BitVec 5) (s : State) : Result State := vecIntX .srl gd vd va xb s
def execVsraVx (gd : Guard) (vd va : BitVec 6) (xb : BitVec 5) (s : State) : Result State := vecIntX .sra gd vd va xb s
def execVminVx (gd : Guard) (vd va : BitVec 6) (xb : BitVec 5) (s : State) : Result State := vecIntX .min gd vd va xb s
def execVmaxVx (gd : Guard) (vd va : BitVec 6) (xb : BitVec 5) (s : State) : Result State := vecIntX .max gd vd va xb s
def execVminuVx (gd : Guard) (vd va : BitVec 6) (xb : BitVec 5) (s : State) : Result State := vecIntX .minu gd vd va xb s
def execVmaxuVx (gd : Guard) (vd va : BitVec 6) (xb : BitVec 5) (s : State) : Result State := vecIntX .maxu gd vd va xb s
def execVadc (gd : Guard) (vd va vb : BitVec 6) (mc mm : BitVec 5) (s : State) : Result State :=
  vecCarry false gd vd va vb mc mm s
def execVadcVx (gd : Guard) (vd va : BitVec 6) (xb mc mm : BitVec 5) (s : State) : Result State :=
  vecCarryX false gd vd va xb mc mm s
def execVsbc (gd : Guard) (vd va vb : BitVec 6) (mc mm : BitVec 5) (s : State) : Result State :=
  vecCarry true gd vd va vb mc mm s
def execVsbcVx (gd : Guard) (vd va : BitVec 6) (xb mc mm : BitVec 5) (s : State) : Result State :=
  vecCarryX true gd vd va xb mc mm s
def execVfadd (gd : Guard) (ex : Exc) (rm : BitVec 4) (fp16 : Bool) (vd va vb : BitVec 6) (s : State) : Result State :=
  vecFBin .add gd ex rm fp16 vd va vb s
def execVfsub (gd : Guard) (ex : Exc) (rm : BitVec 4) (fp16 : Bool) (vd va vb : BitVec 6) (s : State) : Result State :=
  vecFBin .sub gd ex rm fp16 vd va vb s
def execVfmul (gd : Guard) (ex : Exc) (rm : BitVec 4) (fp16 : Bool) (vd va vb : BitVec 6) (s : State) : Result State :=
  vecFBin .mul gd ex rm fp16 vd va vb s
def execVfdiv (gd : Guard) (ex : Exc) (rm : BitVec 4) (fp16 : Bool) (vd va vb : BitVec 6) (s : State) : Result State :=
  vecFBin .div gd ex rm fp16 vd va vb s
def execVfmin (gd : Guard) (ex : Exc) (fp16 : Bool) (vd va vb : BitVec 6) (s : State) : Result State :=
  vecFBin .min gd ex 0 fp16 vd va vb s
def execVfmax (gd : Guard) (ex : Exc) (fp16 : Bool) (vd va vb : BitVec 6) (s : State) : Result State :=
  vecFBin .max gd ex 0 fp16 vd va vb s
def execVfsqrt (gd : Guard) (ex : Exc) (rm : BitVec 4) (fp16 : Bool) (vd va : BitVec 6) (s : State) : Result State :=
  vecFUn .sqrt gd ex rm fp16 vd va s
def execVfabs (gd : Guard) (ex : Exc) (fp16 : Bool) (vd va : BitVec 6) (s : State) : Result State :=
  vecFUn .abs gd ex 0 fp16 vd va s
def execVfneg (gd : Guard) (ex : Exc) (fp16 : Bool) (vd va : BitVec 6) (s : State) : Result State :=
  vecFUn .neg gd ex 0 fp16 vd va s
def execVfma (gd : Guard) (ex : Exc) (rm : BitVec 4) (fp16 : Bool) (vd va vb vc : BitVec 6) (s : State) : Result State :=
  vecFma .fma gd ex rm fp16 vd va vb vc s
def execVfms (gd : Guard) (ex : Exc) (rm : BitVec 4) (fp16 : Bool) (vd va vb vc : BitVec 6) (s : State) : Result State :=
  vecFma .fms gd ex rm fp16 vd va vb vc s
def execVfnma (gd : Guard) (ex : Exc) (rm : BitVec 4) (fp16 : Bool) (vd va vb vc : BitVec 6) (s : State) : Result State :=
  vecFma .fnma gd ex rm fp16 vd va vb vc s
def execVceq (gd : Guard) (xb : Bool) (md : BitVec 5) (va b : BitVec 6) (s : State) : Result State := vecCmp .eq gd xb md va b s
def execVcne (gd : Guard) (xb : Bool) (md : BitVec 5) (va b : BitVec 6) (s : State) : Result State := vecCmp .ne gd xb md va b s
def execVclt (gd : Guard) (xb : Bool) (md : BitVec 5) (va b : BitVec 6) (s : State) : Result State := vecCmp .lt gd xb md va b s
def execVcge (gd : Guard) (xb : Bool) (md : BitVec 5) (va b : BitVec 6) (s : State) : Result State := vecCmp .ge gd xb md va b s
def execVcltu (gd : Guard) (xb : Bool) (md : BitVec 5) (va b : BitVec 6) (s : State) : Result State := vecCmp .ltu gd xb md va b s
def execVcgeu (gd : Guard) (xb : Bool) (md : BitVec 5) (va b : BitVec 6) (s : State) : Result State := vecCmp .geu gd xb md va b s
def execVfeq (gd : Guard) (ex : Exc) (xb : Bool) (md : BitVec 5) (va b : BitVec 6) (s : State) : Result State :=
  vecFCmp .eq gd ex xb md va b s
def execVflt (gd : Guard) (ex : Exc) (xb : Bool) (md : BitVec 5) (va b : BitVec 6) (s : State) : Result State :=
  vecFCmp .lt gd ex xb md va b s
def execVfle (gd : Guard) (ex : Exc) (xb : Bool) (md : BitVec 5) (va b : BitVec 6) (s : State) : Result State :=
  vecFCmp .le gd ex xb md va b s
def execVfunord (gd : Guard) (ex : Exc) (xb : Bool) (md : BitVec 5) (va b : BitVec 6) (s : State) : Result State :=
  vecFCmp .unord gd ex xb md va b s
def execMand (gd : Guard) (md ma mb : BitVec 5) (s : State) : Result State := vecMask .and gd md ma mb s
def execMor (gd : Guard) (md ma mb : BitVec 5) (s : State) : Result State := vecMask .or gd md ma mb s
def execMxor (gd : Guard) (md ma mb : BitVec 5) (s : State) : Result State := vecMask .xor gd md ma mb s
def execMandn (gd : Guard) (md ma mb : BitVec 5) (s : State) : Result State := vecMask .andn gd md ma mb s
def execMnot (gd : Guard) (md ma : BitVec 5) (s : State) : Result State := vecMask .not gd md ma 0 s
def execMmov (gd : Guard) (md ma : BitVec 5) (s : State) : Result State := vecMask .mov gd md ma 0 s
def execMshl (gd : Guard) (md ma : BitVec 5) (s : State) : Result State := vecMask .shl gd md ma 0 s
def execMshr (gd : Guard) (md ma : BitVec 5) (s : State) : Result State := vecMask .shr gd md ma 0 s
def execMset (gd : Guard) (md : BitVec 5) (s : State) : Result State := vecMask .set gd md 0 0 s
def execMclr (gd : Guard) (md : BitVec 5) (s : State) : Result State := vecMask .clr gd md 0 0 s
def execMrdd (gd : Guard) (md : BitVec 5) (s : State) : Result State := vecMask .rdd gd md 0 0 s
def execMwrd (gd : Guard) (ma : BitVec 5) (s : State) : Result State := vecMask .wrd gd 0 ma 0 s

/-! ## Masks to scalars (R204) -/

/-- A mask-to-scalar instruction. -/
def maskToX (xd : BitVec 5) (f : List Strand → Nat → Nat → BitVec 64) (s : State) : Result State :=
  vecSync Form.c [] anyType noGuard (fun s t c w => proceed (s.setX t xd (f w.strands (c.wv w.width) c.vl))) s

def execMpop (xd ma : BitVec 5) (s : State) : Result State := maskToX xd (fun l wv vl => maskCount l wv vl ma) s
def execMffs (xd ma : BitVec 5) (s : State) : Result State := maskToX xd (fun l wv vl => maskFirst l wv vl ma) s
def execMfls (xd ma : BitVec 5) (s : State) : Result State := maskToX xd (fun l wv vl => maskLast l wv vl ma) s

/-! ## Permutes (R206) -/

def execVslideup (gd : Guard) (vd va : BitVec 6) (xb : BitVec 5) (s : State) : Result State :=
  vecIssue (vForm gd) [vd, va] (fun _ => vd = va) gd (fun s t => .slideUp vd va (s.xr t xb)) s
def execVslidedn (gd : Guard) (vd va : BitVec 6) (xb : BitVec 5) (s : State) : Result State :=
  vecIssue (vForm gd) [vd, va] (fun _ => vd = va) gd (fun s t => .slideDown vd va (s.xr t xb)) s
def execVperm (gd : Guard) (vd va vb : BitVec 6) (s : State) : Result State :=
  vecIssue (vForm gd) [vd, va, vb] (fun _ => vd = va || vd = vb) gd (fun _ _ => .perm vd va vb) s
def execVbcast (gd : Guard) (vd : BitVec 6) (xa : BitVec 5) (s : State) : Result State :=
  vecIssue (vForm gd) [vd] anyType gd (fun s t => .bcast vd (s.xr t xa)) s
def execVcompress (vd va : BitVec 6) (mb : BitVec 5) (s : State) : Result State :=
  vecIssue Form.c [vd, va] (fun _ => vd = va) noGuard (fun _ _ => .compress vd va mb) s
def execVexpand (vd va : BitVec 6) (mb : BitVec 5) (s : State) : Result State :=
  vecIssue Form.c [vd, va] (fun _ => vd = va) noGuard (fun _ _ => .expand vd va mb) s
def execVext (xd : BitVec 5) (va : BitVec 6) (xb : BitVec 5) (s : State) : Result State :=
  vecSync Form.c [va] anyType noGuard (fun s t c w =>
    let i := (s.xr t xb).toNat
    proceed (s.setX t xd
      (if i < c.vl then BitVec.ofNat 64 (elemGet w.strands (c.wv w.width) c.ew va i) else 0))) s
def execVins (vd : BitVec 6) (xa xb : BitVec 5) (s : State) : Result State :=
  vecIssue Form.c [vd] anyType noGuard (fun s t => .ins vd (s.xr t xa) (s.xr t xb)) s

/-! ## Reductions (R207) -/

/-- An integer reduction. -/
def vecRed (f : RedFn) (gd : Guard) (xd : BitVec 5) (va : BitVec 6) (xb : BitVec 5) (s : State) : Result State :=
  vecSync (vForm gd) [va] anyType gd (fun s t c w =>
    proceed (s.setX t xd (intReduce f w.strands c (c.wv w.width) gd va (s.xr t xb)))) s

/-- A float reduction: EW = 8 traps, and so does Y[0] at EW 32 and 64 (R194, R207). -/
def vecFRed (f : FRedFn) (gd : Guard) (half : Bool) (xd : BitVec 5) (va : BitVec 6) (xb : BitVec 5) (s : State) :
    Result State :=
  vecSync (vForm gd) [va] (fun c => noBytes c || (half && decide (c.ew ≠ 16))) gd (fun s t c w =>
    let v := laneReduce f half w.strands c (c.wv w.width) gd va (s.xr t xb)
    proceed ((s.setX t xd (BitVec.ofNat 64 v.1)).raise t v.2)) s

def execVredoFadd (gd : Guard) (fp16 : Bool) (xd : BitVec 5) (va : BitVec 6) (xb : BitVec 5) (s : State) : Result State :=
  vecFRed .ordered gd fp16 xd va xb s
def execVredtFadd (gd : Guard) (fp16 : Bool) (xd : BitVec 5) (va : BitVec 6) (xb : BitVec 5) (s : State) : Result State :=
  vecFRed .tree gd fp16 xd va xb s
def execVredFmax (gd : Guard) (fp16 : Bool) (xd : BitVec 5) (va : BitVec 6) (xb : BitVec 5) (s : State) : Result State :=
  vecFRed .max gd fp16 xd va xb s
def execVredFmin (gd : Guard) (fp16 : Bool) (xd : BitVec 5) (va : BitVec 6) (xb : BitVec 5) (s : State) : Result State :=
  vecFRed .min gd fp16 xd va xb s
def execVredAdd (gd : Guard) (xd : BitVec 5) (va : BitVec 6) (xb : BitVec 5) (s : State) : Result State := vecRed .add gd xd va xb s
def execVredAnd (gd : Guard) (xd : BitVec 5) (va : BitVec 6) (xb : BitVec 5) (s : State) : Result State := vecRed .and gd xd va xb s
def execVredOr (gd : Guard) (xd : BitVec 5) (va : BitVec 6) (xb : BitVec 5) (s : State) : Result State := vecRed .or gd xd va xb s
def execVredXor (gd : Guard) (xd : BitVec 5) (va : BitVec 6) (xb : BitVec 5) (s : State) : Result State := vecRed .xor gd xd va xb s
def execVredMax (gd : Guard) (xd : BitVec 5) (va : BitVec 6) (xb : BitVec 5) (s : State) : Result State := vecRed .max gd xd va xb s
def execVredMin (gd : Guard) (xd : BitVec 5) (va : BitVec 6) (xb : BitVec 5) (s : State) : Result State := vecRed .min gd xd va xb s
def execVredMaxu (gd : Guard) (xd : BitVec 5) (va : BitVec 6) (xb : BitVec 5) (s : State) : Result State := vecRed .maxu gd xd va xb s
def execVredMinu (gd : Guard) (xd : BitVec 5) (va : BitVec 6) (xb : BitVec 5) (s : State) : Result State := vecRed .minu gd xd va xb s

/-! ## Conversions (R208) -/

/-- The narrowest element a conversion fits (R208). -/
def convNeeds : ConvFn → Nat
  | .f64F32 | .f32F64 | .f32I64 | .i64F32 | .f64I64 | .i64F64 => 64
  | _ => 32

/-- A vector conversion. -/
def vecConv (f : ConvFn) (gd : Guard) (ex : Exc) (rm : BitVec 4) (vd va : BitVec 6) (s : State) : Result State :=
  vecIssue (Form.c.when (gd.wf ∧ ex.wf ∧ rm ≤ 5)) [vd, va] (fun c => decide (c.ew < convNeeds f)) gd
    (fun _ _ => .conv f ex rm vd va) s

def execVcvtF64F32 (gd : Guard) (ex : Exc) (rm : BitVec 4) (vd va : BitVec 6) (s : State) : Result State :=
  vecConv .f64F32 gd ex rm vd va s
def execVcvtF32F64 (gd : Guard) (ex : Exc) (rm : BitVec 4) (vd va : BitVec 6) (s : State) : Result State :=
  vecConv .f32F64 gd ex rm vd va s
def execVcvtF32I64 (gd : Guard) (ex : Exc) (rm : BitVec 4) (vd va : BitVec 6) (s : State) : Result State :=
  vecConv .f32I64 gd ex rm vd va s
def execVcvtI64F32 (gd : Guard) (ex : Exc) (rm : BitVec 4) (vd va : BitVec 6) (s : State) : Result State :=
  vecConv .i64F32 gd ex rm vd va s
def execVcvtF64I64 (gd : Guard) (ex : Exc) (rm : BitVec 4) (vd va : BitVec 6) (s : State) : Result State :=
  vecConv .f64I64 gd ex rm vd va s
def execVcvtI64F64 (gd : Guard) (ex : Exc) (rm : BitVec 4) (vd va : BitVec 6) (s : State) : Result State :=
  vecConv .i64F64 gd ex rm vd va s
def execVcvtBf16F32 (gd : Guard) (ex : Exc) (rm : BitVec 4) (vd va : BitVec 6) (s : State) : Result State :=
  vecConv .bf16F32 gd ex rm vd va s
def execVcvtF32Bf16 (gd : Guard) (ex : Exc) (rm : BitVec 4) (vd va : BitVec 6) (s : State) : Result State :=
  vecConv .f32Bf16 gd ex rm vd va s
def execVcvtFp16F32 (gd : Guard) (ex : Exc) (rm : BitVec 4) (vd va : BitVec 6) (s : State) : Result State :=
  vecConv .fp16F32 gd ex rm vd va s
def execVcvtF32Fp16 (gd : Guard) (ex : Exc) (rm : BitVec 4) (vd va : BitVec 6) (s : State) : Result State :=
  vecConv .f32Fp16 gd ex rm vd va s
def execVcvtE4m3F32 (gd : Guard) (ex : Exc) (rm : BitVec 4) (vd va : BitVec 6) (s : State) : Result State :=
  vecConv .e4m3F32 gd ex rm vd va s
def execVcvtF32E4m3 (gd : Guard) (ex : Exc) (rm : BitVec 4) (vd va : BitVec 6) (s : State) : Result State :=
  vecConv .f32E4m3 gd ex rm vd va s
def execVcvtE5m2F32 (gd : Guard) (ex : Exc) (rm : BitVec 4) (vd va : BitVec 6) (s : State) : Result State :=
  vecConv .e5m2F32 gd ex rm vd va s
def execVcvtF32E5m2 (gd : Guard) (ex : Exc) (rm : BitVec 4) (vd va : BitVec 6) (s : State) : Result State :=
  vecConv .f32E5m2 gd ex rm vd va s
def execVcvtLgF32 (gd : Guard) (ex : Exc) (rm : BitVec 4) (vd va : BitVec 6) (s : State) : Result State :=
  vecConv .lgF32 gd ex rm vd va s
def execVcvtF32Lg (gd : Guard) (ex : Exc) (rm : BitVec 4) (vd va : BitVec 6) (s : State) : Result State :=
  vecConv .f32Lg gd ex rm vd va s

end Sys2Proof.Machine
end

