-- ==== Sys2Proof/Machine/VecMem.lean ====
section
/-! DEFINITION. Vector loads and stores of memory and scratchpad (R171–R173, R192, R193, R209–R217), vdrain (R220) and
strip-ahead (R175). -/
namespace Sys2Proof.Machine

/-! ## Checks of one element (R211) -/

/-- The checks of R129's orders 1–5 on one element of a control thread's vector access. -/
def State.elemCheck (s : State) (a : Agent) (va : BitVec 64) (w : Nat) (k : AccessKind) :
    Access (Xlate × State) :=
  if misaligned va w then .error (0x05, s)
  else if !canonical va then .error (0x07, s)
  else
    match s.translateFor a va k with
    | .error c => .error (c, s)
    | .ok (xl, s') =>
      if decide (k ≠ .read) && (s.pack a.pr.1).ordered && !xl.vers then .error (0x0D, s') else .ok (xl, s')

/-- The same for element `e` of a vector instruction: where its translation was made before the other elements', it stands, under the
entries of that moment (R405). -/
def State.elemCheckAt (s : State) (a : Agent) (e : Nat) (va : BitVec 64) (w : Nat) (k : AccessKind) : Access (Xlate × State) :=
  match (s.thread a).begun.find? fun b => decide (b.e = e ∧ b.kind = k ∧ b.va = va) with
  | none => s.elemCheck a va w k
  | some b =>
    if misaligned va w then .error (0x05, s)
    else if !canonical va then .error (0x07, s)
    else
      match b.res with
      | .inr c => .error (c, s)
      | .inl xl => if decide (k ≠ .read) && (s.pack a.pr.1).ordered && !xl.vers then .error (0x0D, s) else .ok (xl, s)

/-- What the checks of an in-order form find: all passed, the first failing element, or a ring stall. -/
inductive Checked (α : Type) where
  | pass (acc : List α) (s : State)
  | fail (acc : List α) (s : State) (e : Nat) (cause : BitVec 8) (va : BitVec 64)
  | stall (n need : Nat) (e : Nat) (va : BitVec 64)

/-- Check elements in ascending order up to the first that fails. -/
def checkElems (a : Agent) (addr : Nat → BitVec 64) (w : Nat) (k : AccessKind) :
    List Nat → State → List ElemAcc → Checked ElemAcc
  | [], s, acc => .pass acc.reverse s
  | e :: l, s, acc =>
    match s.elemCheckAt a e (addr e) w k with
    | .error (c, s') => .fail acc.reverse s' e c (addr e)
    | .ok (xl, s') => checkElems a addr w k l s' ({ e := e, va := addr e, xl := xl, landed := none, bad := false } :: acc)

/-- Check the elements of a scratchpad form in ascending order (R214). -/
def checkSp (p r : Nat) (addr : Nat → BitVec 64) (w : Nat) (s : State) : List Nat → List SpAcc → Checked SpAcc
  | [], acc => .pass acc.reverse s
  | e :: l, acc =>
    if misaligned (addr e) w then .fail acc.reverse s e 0x05 (addr e)
    else
      match s.spResolve p r (addr e) w with
      | .fault c => .fail acc.reverse s e c (addr e)
      | .stall n g => .stall n g e (addr e)
      | .at_ foll off _ => checkSp p r addr w s l ({ e := e, follower := foll, off := off, landed := none, bad := false } :: acc)

/-- The passing elements of an indexed form, and the lowest failing one (R211). -/
def checkIndexed (a : Agent) (addr : Nat → BitVec 64) (w : Nat) (k : AccessKind) :
    List Nat → State → List ElemAcc × State × Option (Nat × BitVec 8)
  | [], s => ([], s, none)
  | e :: l, s =>
    match s.elemCheckAt a e (addr e) w k with
    | .error (c, s1) =>
      let (acc, s', _) := checkIndexed a addr w k l s1
      (acc, s', some (e, c))
    | .ok (xl, s1) =>
      let (acc, s', f) := checkIndexed a addr w k l s1
      ({ e := e, va := addr e, xl := xl, landed := none, bad := false } :: acc, s', f)

/-! ## Reading and writing elements -/

/-- Whether a page's lines can carry a reader count (R414). -/
def Xlate.countable (x : Xlate) : Bool := decide (x.tdev = 0) && !x.vers && !x.repl && !x.nc

/-- The datum of an element as the home gives it at this moment (R132, R171, R213, R421). -/
def State.elemData (s : State) (a : Agent) (k : VRead) (x : ElemAcc) (w : Nat) : BitVec 64 :=
  if x.xl.tdev ≠ 0 then Config.freeWord s.nonce (3000 + x.e) &&& BitVec.ofNat 64 (2 ^ (8 * w) - 1)
  else
    let line := x.xl.pa / 64
    let cut := fun (b : List (BitVec 8)) => leWord ((b.drop (x.xl.pa % 64)).take w)
    match k with
    | .snapshot snap =>
      if x.xl.vers && decide (snap ≠ 0) then
        cut (s.versionAt (agentSlot a) line snap.toNat (s.snapOpen (s.pack a.pr.1).part snap.toNat)).bytes
      else cut (s.lineBytes line)
    | .plain =>
      match x.xl.vers, s.txOf a with
      | true, some (start, t) => cut (s.txLine start t line)
      | _, _ => cut (s.lineBytes line)

/-- The local lines that some elements touch, each once (R415). -/
def readLines (acc : List ElemAcc) : List Nat :=
  ((acc.filter fun x => decide (x.xl.tdev = 0)).map fun x => x.xl.pa / 64).eraseDups

/-- The settled scalar writes of an agent's core to some elements leave its L1 before the elements are accessed (R334,
R340, R343). -/
def State.settleItems (s : State) (a : Agent) (w : Nat) (l : List Xlate) : State :=
  (l.filter fun x => decide (x.tdev = 0)).foldl (fun (s : State) x => s.settleAt (s.coreOf a) x.pa w) s

/-- Read elements: the data, then one counted read of each distinct line that the instruction has not read already, and the
requests that leave over a fabric window. `all` are the instruction's elements. -/
def State.readElems (s : State) (a : Agent) (k : VRead) (w : Nat) (all acc : List ElemAcc) : List ElemAcc × State :=
  let snap := match k with
    | .snapshot x => some x
    | .plain => none
  let s := s.settleItems a w (acc.map fun x => x.xl)
  let got := acc.map fun x => { x with landed := some (s.elemData a k x w), bad := s.readPoisoned a x.xl snap }
  let seen := readLines (all.filter fun x => x.landed.isSome)
  let s := ((readLines acc).filter fun l => !seen.contains l).foldl (fun s l => s.countRead l) s
  (got, (acc.filter fun x => decide (x.xl.tdev ≠ 0)).foldl (fun (s : State) x => s.sendRead (s.pack a.pr.1).part x.xl w) s)

/-- The places an element's store goes: every copy of a replicated page for vstmc (R216, R417), else its own. -/
def storePlaces (k : VWrite) (die : Nat) (xl : Xlate) : List Xlate :=
  if k = .multicast && xl.repl then
    (List.range 4).map fun c => { xl with pa := xl.pa - nearestCopy die * 4096 + c * 4096 }
  else [xl]

/-- The elements' stores outside versioned pages and inside a transaction, in ascending element order; none is made to a
poisoned line (R211). -/
def State.writeItems (s : State) (a : Agent) : List (Xlate × List (BitVec 8)) → State
  | [] => s
  | (xl, b) :: l =>
    let s := if xl.tdev ≠ 0 then s.sendWrite (.row a.pr.1 a.pr.2) xl b
      else if xl.vers then
        (match s.txOf a with
         | some (_, t) => if s.poisoned xl then s else s.tentWrite a t xl.pa b
         | none => s)
      else s.writeMem xl.pa b
    s.writeItems a l

/-- The single-line commits of a vector store, one per line it writes (R437): the lines that found no room are left. -/
def State.commitItems (s : State) (items : List (Xlate × List (BitVec 8))) : List Nat → State × List Nat
  | [] => (s, [])
  | line :: l =>
    let mine := items.filter fun x => decide (x.1.pa / 64 = line)
    match s.commitWith line fun b => mine.foldl (fun b x => patchBytes b (x.1.pa % 64) x.2) b with
    | none =>
      let (s', left) := s.commitItems items l
      (s', line :: left)
    | some s1 => s1.commitItems items l

/-- The machine check of a vector access, naming its lowest element that met poison (R173, R211, R297). DESIGN CHOICE: FOLL is that of the
core of the element's strand, for a scratchpad word met through a partner access too (log 138). -/
def State.elemCheckRaise (s : State) (p r src : Nat) (bad : List (Nat × Nat)) (grant : Nat) (wv : Nat) : State :=
  match bad.head? with
  | none => s
  | some (e, addr) => s.machineCheck p r (syndrome src (decide (grant ≤ e % wv)) 0 addr) e

/-! ## Landing (R171) -/

/-- The address space of one side of the allocation, beside the fabric windows and local memory. -/
def spSpace (follower : Bool) : Nat := if follower then 1001 else 1000

/-- The bytes that an accumulator image and a converted tile occupy (R227). -/
def imageBytes : Nat := 16384
def zcvtBytes (tgt : BitVec 4) : Nat := 4096 * zcvtSize tgt.toNat

/-- The byte ranges a queued store of a core on a die will write: space, address, size; every copy for vstmc (R216). -/
def VEntry.stores (die : Nat) (x : VEntry) : List (Nat × Nat × Nat) :=
  let w := x.ctx.ew / 8
  match x.op with
  | .store k _ acc => acc.flatMap fun y => (storePlaces k die y.xl).map fun xl => (xl.tdev, xl.pa, w)
  | .storeX _ acc _ => acc.map fun y => (y.xl.tdev, y.xl.pa, w)
  | .storeSp _ acc => acc.map fun y => (spSpace y.follower, y.off, w)
  | .storeLane _ acc _ => acc.map fun y => (spSpace y.follower, y.off, w)
  | .zst _ b => b.map fun y => (spSpace y.follower, y.off, imageBytes)
  | .zcvt _ b _ tgt => b.map fun y => (spSpace y.follower, y.off, zcvtBytes tgt)
  | _ => []

/-- The byte ranges of a queued load's elements that have not landed (R171). -/
def VEntry.loads (x : VEntry) : List (Nat × Nat × Nat) :=
  let w := x.ctx.ew / 8
  let mem := fun (l : List ElemAcc) => (l.filter fun y => y.landed.isNone).map fun y => (y.xl.tdev, y.xl.pa, w)
  let sp := fun (l : List SpAcc) => (l.filter fun y => y.landed.isNone).map fun y => (spSpace y.follower, y.off, w)
  match x.op with
  | .load _ _ acc => mem acc
  | .loadX _ _ acc _ => mem acc
  | .loadSp _ acc => sp acc
  | .loadLane _ acc _ => sp acc
  | _ => []

/-- The byte ranges that a later load of the row waits for (R171, R334): what older entries have still to write or to read. -/
def VEntry.ahead (die : Nat) (x : VEntry) : List (Nat × Nat × Nat) := x.stores die ++ x.loads
def State.aheadOf (s : State) (p r : Nat) : List (Nat × Nat × Nat) :=
  (s.row p r).vq.flatMap (VEntry.ahead (dieOf (s.pack p).core))

/-- Whether an element may be read now: no older queued access of the row overlaps it (R171, R334), and the free choice falls so, for a
whole line at a time where the line is counted. -/
def State.landsNow (s : State) (slot w : Nat) (older : List (Nat × Nat × Nat)) (x : ElemAcc) : Bool :=
  x.landed.isNone &&
  !(older.any fun y => decide (y.1 = x.xl.tdev) && overlaps y.2.1 y.2.2 x.xl.pa w) &&
  decide (s.pick (if (tget s.counted (x.xl.pa / 64)).isSome then slot + x.xl.pa / 64 else slot + x.e) 2 = 0)

/-- Some elements of a load reach the row's load buffers. -/
def State.landSome (s : State) (a : Agent) (k : VRead) (w slot : Nat) (older : List (Nat × Nat × Nat))
    (acc : List ElemAcc) : List ElemAcc × State :=
  let now := fun x => s.landsNow slot w older x
  let (got, s') := s.readElems a k w acc (acc.filter now)
  (acc.map fun x => (got.find? fun y => decide (y.e = x.e)).getD x, s')

/-- A scratchpad element read at this moment (R171, R226). -/
def State.readSp (s : State) (p w : Nat) (x : SpAcc) : SpAcc :=
  let d := s.side p x.follower
  { x with landed := some (leWord (memBytes d.sp x.off w)), bad := d.bad x.off w }

/-- The performed elements of a stopped load are read before the trap (R211, R283): all but those that wait for an older
access of the row (R171, R334). -/
def State.landStopped (s : State) (a : Agent) (k : VRead) (w : Nat) (older : List (Nat × Nat × Nat))
    (acc : List ElemAcc) : List ElemAcc × State :=
  let now := fun (x : ElemAcc) => !(older.any fun y => decide (y.1 = x.xl.tdev) && overlaps y.2.1 y.2.2 x.xl.pa w)
  let (got, s') := s.readElems a k w acc (acc.filter now)
  (acc.map fun x => (got.find? fun y => decide (y.e = x.e)).getD x, s')

/-- The performed elements of a stopped scratchpad load are read before the trap. -/
def State.landStoppedSp (s : State) (p w : Nat) (older : List (Nat × Nat × Nat)) (acc : List SpAcc) : List SpAcc :=
  acc.map fun x =>
    if older.any fun y => decide (y.1 = spSpace x.follower) && overlaps y.2.1 y.2.2 x.off w then x else s.readSp p w x

/-- Some elements of a scratchpad load are read. -/
def State.landSp (s : State) (p w slot : Nat) (older : List (Nat × Nat × Nat)) (acc : List SpAcc) : List SpAcc :=
  acc.map fun x =>
    if x.landed.isNone && !(older.any fun y => decide (y.1 = spSpace x.follower) && overlaps y.2.1 y.2.2 x.off w) &&
        decide (s.pick (slot + x.e) 2 = 0) then s.readSp p w x else x

/-- Row `i` of a scratchpad tile is read at this moment (R249). -/
def State.readTileRow (s : State) (p : Nat) (t : SpTile) (i : Nat) : SpTile :=
  let d := s.side p t.place.follower
  let off := t.place.off + i * t.size
  let bad := (List.range (t.size / 8)).find? fun j => d.bad (off + 8 * j) 8
  { t with rows := t.rows.set i (some (memBytes d.sp off t.size)),
           bad := match t.bad, bad with
             | some b, some j => some (Nat.min b (off + 8 * j))
             | some b, none => some b
             | none, some j => some (off + 8 * j)
             | none, none => none }

/-- The rows of a scratchpad tile not yet read. -/
def SpTile.unread (t : SpTile) : List Nat := (List.range t.rows.length).filter fun i => (t.rows.getD i none).isNone

/-- Read the rows of a tile that a choice names. -/
def State.readTile (s : State) (p : Nat) (f : Nat → Bool) (t : SpTile) : SpTile :=
  (t.unread.filter f).foldl (fun t i => s.readTileRow p t i) t

/-- Elements of the queued loads reach the load buffers, entry by entry; a matrix operand is not ordered after earlier
stores (R249). -/
def State.landQueue (s : State) (p r : Nat) : List VEntry → List (Nat × Nat × Nat) → State × List VEntry
  | [], _ => (s, [])
  | x :: l, older =>
    let w := x.ctx.ew / 8
    let slot := 100000 * (x.seq + 1)
    let row := fun (i : Nat) => decide (s.pick (slot + i) 2 = 0)
    let (s, x) := match x.op with
      | .load k vd acc =>
        let (acc, s) := s.landSome (.control p r) k w slot older acc
        (s, { x with op := .load k vd acc })
      | .loadX k vd acc stopped =>
        let (acc, s) := s.landSome (.control p r) k w slot older acc
        (s, { x with op := .loadX k vd acc stopped })
      | .loadSp vd acc => (s, { x with op := .loadSp vd (s.landSp p w slot older acc) })
      | .loadLane vd acc stopped => (s, { x with op := .loadLane vd (s.landSp p w slot older acc) stopped })
      | .mma zd va b ta tb keep brace clear =>
        (s, { x with op := .mma zd va (b.map (s.readTile p row)) ta tb keep brace clear })
      | .zld zd b => (s, { x with op := .zld zd (b.map (s.readTile p row)) })
      | _ => (s, x)
    let (s, l) := s.landQueue p r l (older ++ x.ahead (dieOf (s.pack p).core))
    (s, x :: l)

/-! ## Issue of the in-order forms (R172, R192) -/

/-- Whether a queued instruction writes a mask (R57). -/
def VOp.writesMask (op : VOp) (m : BitVec 5) : Bool :=
  match op with
  | .carry _ _ _ _ mc _ => mc = m
  | .fbin _ _ ex _ _ _ _ => ex.e && ex.m = m
  | .fun1 _ _ ex _ _ _ => ex.e && ex.m = m
  | .fma _ _ ex _ _ _ _ _ => ex.e && ex.m = m
  | .icmp _ md _ _ => md = m
  | .fcmp _ ex md _ _ => md = m || (ex.e && ex.m = m)
  | .mask f md _ _ => f ≠ .wrd && md = m
  | .conv _ ex _ _ _ => ex.e && ex.m = m
  | _ => false

/-- Whether a guard's mask is settled at issue (R57). -/
def Row.guardSettled (w : Row) (gd : Guard) : Bool := gd.g = 0 || !(w.vq.any fun x => x.op.writesMask gd.g)

/-- Set VSTART (R192). -/
def State.setVstart (s : State) (p r e : Nat) : State := s.modRow p r fun w => { w with vstart := BitVec.ofNat 13 e }

/-- The element stop of an in-order form (R456, R457): the lowest element of an armed comparator at its address, with the
comparator's index. -/
def State.elemStop (s : State) (a : Agent) (vstart vl : Nat) : Option (Nat × Nat) :=
  let (p, r) := a.pr
  let w := s.row p r
  if w.bpSkip.contains (s.fetch.pc, true) || s.fetch.sub || !w.dbg.right then none
  else
    (List.range vl).findSome? fun e =>
      if e < vstart then none
      else ((List.range 8).find? fun j =>
        match (s.core (s.pack p).core).comparators.getD j none with
        | none => false
        | some (_, c) => decide (c.addr = s.fetch.pc) && decide (c.elem = some e) && filterMatches c.filter s p r).map fun j => (e, j)

/-- The elements an in-order form performs before its element stop, if one is set. -/
def beforeStop (stop : Option (Nat × Nat)) (l : List Nat) : List Nat :=
  match stop with
  | none => l
  | some (e, _) => l.filter fun i => decide (i < e)

/-- How an in-order form goes on after its elements passed: on, or trap 0x0E at the element stop (R457). -/
def afterElems (p r : Nat) (stop : Option (Nat × Nat)) (s : State) : Res :=
  match stop with
  | none => proceed (s.setVstart p r 0)
  | some (e, j) => .trap (s.setVstart p r e) 0x0E (BitVec.ofNat 64 (0x100 + j)) (BitVec.ofNat 13 e)

/-- Issue an in-order memory form (R172, R192, R209–R212): `firstFault` trims VL instead of trapping above VSTART. -/
def memInOrder (i : Form) (gd : Guard) (vd : BitVec 6) (k : AccessKind) (firstFault : Bool) (bad : VCtx → Bool)
    (addr : State → Agent → VCtx → Nat → BitVec 64) (op : State → Agent → List ElemAcc → VOp) (s : State) :
    Result State :=
  issue i noGuard (fun s t =>
    let (p, r) := t.pr
    let c := s.vctx p r
    let w := s.row p r
    if vqRoom ≤ w.vq.length then .hold s
    else if !basesOk c [vd] || bad c then trapIll s
    else if !w.guardSettled gd then .wait s .room
    else
      let stop := s.elemStop t c.vstart c.vl
      let elems := beforeStop stop ((activeElems w.strands (c.wv w.width) c.vl gd).filter fun e => decide (c.vstart ≤ e))
      let place := fun (s : State) (acc : List ElemAcc) (stopped : Bool) =>
        match op s t acc with
        | .load v d acc =>
          let older := s.aheadOf p r
          let (acc, s) := if stopped then s.landStopped t v (c.ew / 8) older acc
            else s.landSome t v (c.ew / 8) (2000000) older acc
          s.enqueue p r (.load v d acc) c gd [] stopped
        | o => s.enqueue p r o c gd [] stopped
      match checkElems t (addr s t c) (c.ew / 8) k elems s [] with
      | .pass acc s' => afterElems p r stop (place s' acc stop.isSome)
      | .stall n g e va => .wait s (.ringStall n g va (some e))
      | .fail acc s' e cause va =>
        if firstFault && decide (c.vstart < e) then
          proceed (((place s' acc false).setVstart p r 0).modRow p r fun w => { w with vl := BitVec.ofNat 14 e })
        else .trap ((place s' acc true).setVstart p r e) cause va (BitVec.ofNat 13 e)) s

/-- The rings whose stages an address names (R244, R245). -/
def ringOf (a : BitVec 64) : List Nat :=
  if 2 ^ 31 ≤ a.toNat ∧ a.toNat < 2 ^ 32 then [a.toNat / 2 ^ 28 % 8] else []

/-- Issue an in-order scratchpad form (R214). -/
def spInOrder (i : Form) (gd : Guard) (vd : BitVec 6) (addr : State → Agent → VCtx → Nat → BitVec 64)
    (op : List SpAcc → VOp) (s : State) : Result State :=
  issue i noGuard (fun s t =>
    let (p, r) := t.pr
    let c := s.vctx p r
    let w := s.row p r
    if vqRoom ≤ w.vq.length then .hold s
    else if !basesOk c [vd] then trapIll s
    else if !w.guardSettled gd then .wait s .room
    else
      let stop := s.elemStop t c.vstart c.vl
      let elems := beforeStop stop ((activeElems w.strands (c.wv w.width) c.vl gd).filter fun e => decide (c.vstart ≤ e))
      let rings := (elems.flatMap fun e => ringOf (addr s t c e)).eraseDups
      let landed := fun (s : State) (acc : List SpAcc) => s.landStoppedSp p (c.ew / 8) (s.aheadOf p r) acc
      match checkSp p r (addr s t c) (c.ew / 8) s elems [] with
      | .pass acc s' => afterElems p r stop (s'.enqueue p r (op (if stop.isSome then landed s' acc else acc)) c gd rings stop.isSome)
      | .stall n g e va => .wait s (.ringStall n g va (some e))
      | .fail acc s' e cause va =>
        .trap ((s'.enqueue p r (op (landed s' acc)) c gd rings true).setVstart p r e) cause va (BitVec.ofNat 13 e)) s

/-- Unit-stride and strided addresses (R209). -/
def unitAddr (xa : BitVec 5) (imm : BitVec 22) (s : State) (t : Agent) (c : VCtx) (e : Nat) : BitVec 64 :=
  s.xr t xa + imm.signExtend 64 + BitVec.ofNat 64 (e * (c.ew / 8))
def strideAddr (xa xb : BitVec 5) (s : State) (t : Agent) (_ : VCtx) (e : Nat) : BitVec 64 :=
  s.xr t xa + BitVec.ofNat 64 e * s.xr t xb

def execVld (vd : BitVec 6) (xa : BitVec 5) (imm : BitVec 22) (s : State) : Result State :=
  memInOrder Form.c noGuard vd .read false anyType (unitAddr xa imm) (fun _ _ acc => .load .plain vd acc) s
def execVldff (vd : BitVec 6) (xa : BitVec 5) (imm : BitVec 22) (s : State) : Result State :=
  memInOrder Form.c noGuard vd .read true anyType (unitAddr xa imm) (fun _ _ acc => .load .plain vd acc) s
def execVldv (vd : BitVec 6) (xa : BitVec 5) (imm : BitVec 22) (s : State) : Result State :=
  memInOrder Form.c noGuard vd .read false anyType (unitAddr xa imm)
    (fun s t acc => .load (.snapshot (s.snapFor t)) vd acc) s
def execVldsp (vd : BitVec 6) (xa : BitVec 5) (imm : BitVec 22) (s : State) : Result State :=
  spInOrder Form.c noGuard vd (unitAddr xa imm) (fun acc => .loadSp vd acc) s
def execVlds (gd : Guard) (vd : BitVec 6) (xa xb : BitVec 5) (s : State) : Result State :=
  memInOrder (vForm gd) gd vd .read false anyType (strideAddr xa xb) (fun _ _ acc => .load .plain vd acc) s
def execVst (gd : Guard) (vd : BitVec 6) (xa : BitVec 5) (s : State) : Result State :=
  memInOrder (vForm gd) gd vd .write false anyType (unitAddr xa 0) (fun _ _ acc => .store .plain vd acc) s
def execVsts (gd : Guard) (vd : BitVec 6) (xa xb : BitVec 5) (s : State) : Result State :=
  memInOrder (vForm gd) gd vd .write false anyType (strideAddr xa xb) (fun _ _ acc => .store .plain vd acc) s
def execVstmc (gd : Guard) (vd : BitVec 6) (xa : BitVec 5) (s : State) : Result State :=
  memInOrder (vForm gd) gd vd .write false anyType (unitAddr xa 0) (fun _ _ acc => .store .multicast vd acc) s
def execVstsp (gd : Guard) (vd : BitVec 6) (xa : BitVec 5) (s : State) : Result State :=
  spInOrder (vForm gd) gd vd (unitAddr xa 0) (fun acc => .storeSp vd acc) s

/-- vstrc (R217): a count outside 1 … 255 raises trap 0x01 before any element is checked. -/
def execVstrc (gd : Guard) (vd : BitVec 6) (xa xb : BitVec 5) (s : State) : Result State :=
  let count := fun (s : State) => (s.xr s.issuer xb).toNat
  memInOrder (vForm gd) gd vd .write false (fun _ => decide (count s = 0 ∨ 255 < count s)) (unitAddr xa 0)
    (fun s _ acc => .store (.readerCount (BitVec.ofNat 8 (count s))) vd acc) s

/-! ## Issue of the indexed forms (R172, R193) -/

/-- The active elements that md has not marked (R193). -/
def unmarked (w : Row) (c : VCtx) (gd : Guard) : List Nat :=
  (activeElems w.strands (c.wv w.width) c.vl gd).filter fun e => !mdGet w.strands (c.wv w.width) e

/-- The address of an indexed element (R209). -/
def indexAddr (xa : BitVec 5) (vb : BitVec 6) (s : State) (t : Agent) (c : VCtx) (w : Row) (e : Nat) : BitVec 64 :=
  s.xr t xa + BitVec.ofNat 64 (elemGet w.strands (c.wv w.width) c.ew vb e)

/-- Issue an indexed memory form: the thread waits until the offsets are in the lanes' registers, every active element is
checked, and those that pass are performed (R172, R211). -/
def memIndexed (gd : Guard) (vd : BitVec 6) (xa : BitVec 5) (vb : BitVec 6) (k : AccessKind)
    (op : State → Agent → List ElemAcc → Bool → VOp) (s : State) : Result State :=
  issue (vForm gd) noGuard (fun s t =>
    let (p, r) := t.pr
    let c := s.vctx p r
    let w := s.row p r
    if !basesOk c [vd, vb] then trapIll s
    else whenCaughtUp p r c gd (fun s =>
      let addr := indexAddr xa vb s t c w
      match checkIndexed t addr (c.ew / 8) k (unmarked w c gd) s with
      | (acc, s', none) => proceed (s'.enqueue p r (op s t acc false) c gd [] false)
      | (acc, s', some (e, cause)) =>
        let (op', s') := match op s t acc true with
          | .loadX v d acc stopped =>
            let (acc, s') := s'.landStopped t v (c.ew / 8) [] acc
            (VOp.loadX v d acc stopped, s')
          | o => (o, s')
        .trap (s'.enqueue p r op' c gd [] true) cause (addr e) (BitVec.ofNat 13 e)) s) s

/-- A lane-slice element (R109, R215): its place, or the cause it fails with. -/
def laneElem (k : Pack) (grant wv w : Nat) (l : BitVec 64) (e : Nat) : Except (BitVec 8) SpAcc :=
  if misaligned l w then .error 0x05
  else if 2048 * k.units ≤ l.toNat then .error 0x07
  else .ok { e := e, follower := decide (grant ≤ e % wv), off := laneOffset (laneOf grant (e % wv)) l.toNat,
              landed := none, bad := false }

/-- The passing lane-slice elements and the lowest failing one. -/
def checkLanes (f : Nat → Except (BitVec 8) SpAcc) : List Nat → List SpAcc × Option (Nat × BitVec 8)
  | [] => ([], none)
  | e :: l =>
    let (acc, bad) := checkLanes f l
    match f e with
    | .ok x => (x :: acc, bad)
    | .error c => (acc, some (e, c))

/-- Issue an indexed lane-slice form (R215). -/
def laneIndexed (gd : Guard) (vd : BitVec 6) (xa : BitVec 5) (vb : BitVec 6) (op : List SpAcc → Bool → VOp)
    (s : State) : Result State :=
  issue (vForm gd) noGuard (fun s t =>
    let (p, r) := t.pr
    let c := s.vctx p r
    let w := s.row p r
    if !basesOk c [vd, vb] then trapIll s
    else whenCaughtUp p r c gd (fun s =>
      let addr := indexAddr xa vb s t c w
      match checkLanes (fun e => laneElem (s.pack p) w.width.grant.toNat (c.wv w.width) (c.ew / 8) (addr e) e)
          (unmarked w c gd) with
      | (acc, none) => proceed (s.enqueue p r (op acc false) c gd [] false)
      | (acc, some (e, cause)) =>
        .trap (s.enqueue p r (op (s.landStoppedSp p (c.ew / 8) [] acc) true) c gd [] true) cause (addr e) (BitVec.ofNat 13 e)) s) s

def execVldx (gd : Guard) (vd : BitVec 6) (xa : BitVec 5) (vb : BitVec 6) (s : State) : Result State :=
  memIndexed gd vd xa vb .read (fun _ _ acc stopped => .loadX .plain vd acc stopped) s
def execVldxv (gd : Guard) (vd : BitVec 6) (xa : BitVec 5) (vb : BitVec 6) (s : State) : Result State :=
  memIndexed gd vd xa vb .read (fun s t acc stopped => .loadX (.snapshot (s.snapFor t)) vd acc stopped) s
def execVstx (gd : Guard) (vd : BitVec 6) (xa : BitVec 5) (vb : BitVec 6) (s : State) : Result State :=
  memIndexed gd vd xa vb .write (fun _ _ acc stopped => .storeX vd acc stopped) s
def execVldl (gd : Guard) (vd : BitVec 6) (xa : BitVec 5) (vb : BitVec 6) (s : State) : Result State :=
  laneIndexed gd vd xa vb (fun acc stopped => .loadLane vd acc stopped) s
def execVstl (gd : Guard) (vd : BitVec 6) (xa : BitVec 5) (vb : BitVec 6) (s : State) : Result State :=
  laneIndexed gd vd xa vb (fun acc stopped => .storeLane vd acc stopped) s

/-! ## Execution at the head of the queue -/

/-- Replace a row's strands. -/
def State.setStrands (s : State) (p r : Nat) (l : List Strand) : State := s.modRow p r fun w => { w with strands := l }

/-- Mark the elements an indexed form performed, or clear md when it completes (R193). -/
def markElems (l : List Strand) (wv : Nat) (es : List Nat) (stopped : Bool) : List Strand :=
  if stopped then es.foldl (fun l e => mdPut l wv e true) l
  else l.mapIdx fun k t => if k < wv then { t with md := 0 } else t

/-- A memory load executes: elements not yet landed are read now, all are written, one machine check names the lowest
poisoned one (R171, R173, R210, R211), unless a part of the load that was cut off has raised it (R287, R297). -/
def State.runLoad (s : State) (p r : Nat) (c : VCtx) (k : VRead) (vd : BitVec 6) (acc : List ElemAcc) (checked : Bool) : State :=
  let w := s.row p r
  let wv := c.wv w.width
  let (got, s) := s.readElems (.control p r) k (c.ew / 8) acc (acc.filter fun x => x.landed.isNone)
  let all := acc.map fun x => (got.find? fun y => decide (y.e = x.e)).getD x
  let s := s.setStrands p r
    (putElems w.strands wv c.ew vd (all.map fun x => (x.e, (x.landed.getD 0).toNat)))
  if checked then s
  else s.elemCheckRaise p r 6 ((all.filter fun x => x.bad).map fun x => (x.e, x.xl.pa)) w.width.grant.toNat wv

/-- A memory store executes (R210, R211, R216, R217, R437), after the thread's pending wide releases (R337): what is left of it
waits for version room. DESIGN CHOICE: where a copy of a vstmc element other than the nearest is poisoned, the machine check
names the nearest copy's address (log 129). -/
def State.runStore (s : State) (p r : Nat) (c : VCtx) (k : VWrite) (vd : BitVec 6) (acc : List ElemAcc) :
    State × List ElemAcc :=
  let a := Agent.control p r
  let w := s.row p r
  let wv := c.wv w.width
  let die := dieOf (s.pack p).core
  let items := acc.flatMap fun x =>
    (storePlaces k die x.xl).map fun xl => (xl, leBytes (c.ew / 8) (elemGet w.strands wv c.ew vd x.e))
  let s := (s.flushHeld a).settleItems a (c.ew / 8) (items.map fun x => x.1)
  let bad := (acc.filter fun x => (storePlaces k die x.xl).any fun xl => s.poisoned xl).map fun x => (x.e, x.xl.pa)
  let commits := items.filter fun x => x.1.vers && decide (x.1.tdev = 0) && (s.txOf a).isNone
  let s1 := s.writeItems a (items.filter fun x => !(x.1.vers && decide (x.1.tdev = 0) && (s.txOf a).isNone))
  let (s2, left) := s1.commitItems commits ((commits.map fun x => x.1.pa / 64).eraseDups)
  let s3 := match k with
    | .readerCount n => (readLines (acc.filter fun x => x.xl.countable)).foldl (fun (s : State) l =>
        if s.linePoisoned l then s else s.setCount l n.toNat) s2
    | _ => s2
  let rest := acc.filter fun x => x.xl.vers && decide (x.xl.tdev = 0) && left.contains (x.xl.pa / 64)
  (s3.elemCheckRaise p r 8 bad w.width.grant.toNat wv, rest)

/-- A scratchpad load executes: poisoned words are read as they are and checked once (R211, R226). -/
def State.runLoadSp (s : State) (p r : Nat) (c : VCtx) (vd : BitVec 6) (acc : List SpAcc) (checked : Bool) : State :=
  let w := s.row p r
  let wv := c.wv w.width
  let n := c.ew / 8
  let k := s.pack p
  let acc := acc.map fun x => if x.landed.isNone then s.readSp p n x else x
  let es := acc.map fun x => (x.e, (x.landed.getD 0).toNat)
  let bad := (acc.filter fun x => x.bad).map fun x =>
    (x.e, x.off + k.base.toNat + (if x.follower then 0x300000 else 0))
  let s := s.setStrands p r (putElems w.strands wv c.ew vd es)
  if checked then s else s.elemCheckRaise p r 3 bad w.width.grant.toNat wv

/-- A scratchpad store executes (R226), after the thread's pending wide releases (R337, R345). -/
def State.runStoreSp (s : State) (p r : Nat) (c : VCtx) (vd : BitVec 6) (acc : List SpAcc) : State :=
  let w := s.row p r
  let wv := c.wv w.width
  acc.foldl (fun s x =>
    s.modSide p x.follower fun d => d.store x.off (leBytes (c.ew / 8) (elemGet w.strands wv c.ew vd x.e)))
    (s.flushHeld (.control p r))

/-! ## vdrain (R220) -/

/-- Whether a queued instruction is a load that has not read all its memory, or a store not yet written. -/
def VOp.loadsPending : VOp → Bool
  | .load _ _ acc => acc.any fun x => x.landed.isNone
  | .loadX _ _ acc _ => acc.any fun x => x.landed.isNone
  | .loadSp _ acc => acc.any fun x => x.landed.isNone
  | .loadLane _ acc _ => acc.any fun x => x.landed.isNone
  | .mma _ _ b _ _ _ _ _ => b.any fun t => !t.unread.isEmpty
  | .zld _ b => b.any fun t => !t.unread.isEmpty
  | _ => false
def VOp.storesPending : VOp → Bool
  | .store .. => true
  | .storeX .. => true
  | .storeSp .. => true
  | .storeLane .. => true
  | .zst .. => true
  | .zcvt .. => true
  | _ => false

/-- A vdrain: the thread's earlier scalar accesses too are performed before what it issues next. -/
def vdrainOn (f : VOp → Bool) (s : State) : Result State :=
  issue Form.c noGuard (fun s t =>
    if (s.row t.pr.1 t.pr.2).vq.any fun x => f x.op then .wait s .room
    else proceed ((s.drainAgents t.pr.1 fun a => decide (a = t)).forgetAll t)) s

def execVdrainLd (s : State) : Result State := vdrainOn VOp.loadsPending s
def execVdrainSt (s : State) : Result State := vdrainOn VOp.storesPending s
def execVdrain (s : State) : Result State := vdrainOn (fun o => o.loadsPending || o.storesPending) s

/-- STRIP_AHEAD_HINT (R175): a hint moves no data and changes nothing a program sees. -/
def execStripAheadHint (_p _r : Nat) (s : State) : Result State := .next s

end Sys2Proof.Machine
end

