-- ==== Sys2Proof/Machine/Sync.lean ====
section
/-! DEFINITION. Atomic updates, ordered accesses, fences and barriers (R348–R366), vector atomics (R218, R219) and what a
release does to a core's pending scalar writes (R337–R339). -/
namespace Sys2Proof.Machine

/-! ## Releases -/

/-- Whether a scope instance of an agent holds agents of more than one core (R336): cluster, device and system always,
the row and the pack on a brace. -/
def State.wideScope (s : State) (a : Agent) (sc : Nat) : Bool :=
  decide (3 ≤ sc) || ((s.pack a.pr.1).braced && decide (sc ≤ 1))

/-- The writes a release covers become visible in its scope instance (R337): beyond every L1 when the instance spans
cores; within a core to its agents (R333), once the thread's pending wide releases are visible. -/
def State.releaseWrites (s : State) (a : Agent) (sc : Nat) : State :=
  if s.wideScope a sc then s.drainVisible a else (s.flushHeld a).settleFor a

/-- A marker that holds the thread's later writes behind those a release covers (R337, R339). -/
def State.releaseMarker (s : State) (a : Agent) (sc : Nat) : State :=
  if s.wideScope a sc then
    s.modCore (s.coreOf a) fun k => { k with l1 := k.l1 ++ [{ agent := a, pa := 0, bytes := [], held := true, settled := true, shown := true }] }
  else s.settleFor a

/-! ## Acquires -/

/-- A read that acquires at pack scope or wider at an address has acquired the ring edits released there (R276, R338); a read of a
counted line synchronises with nothing (R416). -/
def State.acquireTimeline (s : State) (p r sc : Nat) (xl : Xlate) : State :=
  if sc = 0 ∨ xl.tdev ≠ 0 ∨ (tget s.counted (xl.pa / 64)).isSome then s
  else s.modPack p fun k => { k with ringEdits := k.ringEdits.map fun e =>
    if (e.posted.contains xl.pa) then { e with known := (setIns e.known r) } else e }

/-! ## Atomic updates (R350–R355) -/

/-- A signed reading of the low `w` bytes. -/
def signedW (w : Nat) (v : BitVec 64) : Int := signedElem (8 * w) (v.toNat % 2 ^ (8 * w))

/-- The new value of an update, none where nothing is written, and its flags (R351, R352). Operands are the low `w` bytes. -/
def amoNew (f : AmoFn) (w : Nat) (old b c : BitVec 64) : Option (BitVec 64) × Flags :=
  let lo := fun (v : BitVec 64) => BitVec.ofNat 64 (v.toNat % 2 ^ (8 * w))
  let o := lo old
  let b := lo b
  match f with
  | .add => (some (lo (o + b)), 0)
  | .and => (some (o &&& b), 0)
  | .or => (some (o ||| b), 0)
  | .xor => (some (o ^^^ b), 0)
  | .max => (some (if signedW w o < signedW w b then b else o), 0)
  | .min => (some (if signedW w b < signedW w o then b else o), 0)
  | .maxu => (some (if o.toNat < b.toNat then b else o), 0)
  | .minu => (some (if b.toNat < o.toNat then b else o), 0)
  | .swap => (some b, 0)
  | .cas => (if o = lo c then some b else none, 0)
  | .fadd =>
    let f := if w = 4 then fp32 else fp64
    let r := f.bin .add .rne o.toNat b.toNat
    (some (BitVec.ofNat 64 r.1), r.2)

/-- A counted line whose count an atomic's own read brings to zero keeps the write and becomes ordinary (R416). -/
def State.countAtomic (s : State) (line : Nat) (writes : Bool) : State :=
  match tget s.counted line with
  | none => s
  | some c => if c.count ≤ 1 && writes then { s with counted := tdel s.counted line } else s.countRead line

/-- What an atomic update at the home gives (R350, R351, R355): poison on the read half, a wait for version room, or the
old value, the flags and the state. -/
inductive AmoRes where
  | poisoned
  | room
  | done (old : BitVec 64) (fl : Flags) (s : State)

/-- One indivisible update at the line's home. The head is read, and a write to a versioned line commits at once (R355);
with `raw` the write is made in place, for a vector atomic that commits its lines together (R323) and counts one read of each
(R415). -/
def State.atomicAt (s : State) (part slot : Nat) (xl : Xlate) (f : AmoFn) (w : Nat) (b c : BitVec 64) (raw : Bool) :
    AmoRes :=
  if xl.tdev ≠ 0 then
    let old := Config.freeWord s.nonce (4000 + slot) &&& BitVec.ofNat 64 (2 ^ (8 * w) - 1)
    .done old (amoNew f w old b c).2
      (s.send part (.atomic (.other part) xl.tdev xl.pa f (decide (w = 4)) b c))
  else if s.poisoned xl then .poisoned
  else
    let old := leWord (memBytes s.mem xl.pa w)
    let (new, fl) := amoNew f w old b c
    match new with
    | none => .done old fl (s.countAtomic (xl.pa / 64) false)
    | some v =>
      let bytes := leBytes w v.toNat
      if raw then .done old fl (s.writeMem xl.pa bytes)
      else if xl.vers then
        match (s.countAtomic (xl.pa / 64) true).commitLine xl.pa bytes with
        | some s' => .done old fl s'
        | none => .room
      else .done old fl ((s.countAtomic (xl.pa / 64) true).writeMem xl.pa bytes)

/-- The checks of R350 up to the read half. -/
def State.amoCheck (s : State) (a : Agent) (va : BitVec 64) (w : Nat) : Access (Xlate × State) :=
  s.elemCheck a va w .readWrite

/-- A scalar atomic (R349–R355): its release half orders nothing where a cas fails (R353). An acquire at pack scope or wider has
acquired the ring edits released at its location (R276). -/
def amoOn (f : AmoFn) (gd : Guard) (xd xa xb xc : BitVec 5) (ord : BitVec 2) (sc : BitVec 3) (w32 : Bool) (s : State) :
    Result State :=
  issue (Form.c.when (gd.wf ∧ sc ≤ 5)) gd (fun s t =>
    let w := if w32 then 4 else 8
    let va := s.xr t xa
    match s.amoCheck t va w with
    | .error (c, s1) => trapAt s1 c va
    | .ok (xl, s1) =>
      if s1.poisoned xl then trapAt s1 0x0A va else
      let s1 := s1.drainFor t xl.pa w
      let writes := (amoNew f w (leWord (memBytes s1.mem xl.pa w)) (s.xr t xb) (s.xr t xc)).1.isSome
      let s1 := if ord.getLsbD 1 && (writes || decide (xl.tdev ≠ 0)) then s1.releaseWrites t sc.toNat else s1
      let s1 := if ord.getLsbD 0 then s1.acquireTimeline t.pr.1 t.pr.2 sc.toNat xl else s1
      match s1.atomicAt (s.pack t.pr.1).part 0 xl f w (s.xr t xb) (s.xr t xc) false with
      | .poisoned => trapAt s1 0x0A va
      | .room => .wait s .room
      | .done old fl s2 =>
        let s2 := if ord.getLsbD 0 then s2.forgetAll t else s2.forgetAt t xl.pa w
        proceed ((s2.raise t fl).setX t xd old)) s

def execAmoAdd (gd : Guard) (xd xa xb : BitVec 5) (ord : BitVec 2) (sc : BitVec 3) (w32 : Bool) (s : State) :
    Result State := amoOn .add gd xd xa xb 0 ord sc w32 s
def execAmoAnd (gd : Guard) (xd xa xb : BitVec 5) (ord : BitVec 2) (sc : BitVec 3) (w32 : Bool) (s : State) :
    Result State := amoOn .and gd xd xa xb 0 ord sc w32 s
def execAmoOr (gd : Guard) (xd xa xb : BitVec 5) (ord : BitVec 2) (sc : BitVec 3) (w32 : Bool) (s : State) :
    Result State := amoOn .or gd xd xa xb 0 ord sc w32 s
def execAmoXor (gd : Guard) (xd xa xb : BitVec 5) (ord : BitVec 2) (sc : BitVec 3) (w32 : Bool) (s : State) :
    Result State := amoOn .xor gd xd xa xb 0 ord sc w32 s
def execAmoMax (gd : Guard) (xd xa xb : BitVec 5) (ord : BitVec 2) (sc : BitVec 3) (w32 : Bool) (s : State) :
    Result State := amoOn .max gd xd xa xb 0 ord sc w32 s
def execAmoMin (gd : Guard) (xd xa xb : BitVec 5) (ord : BitVec 2) (sc : BitVec 3) (w32 : Bool) (s : State) :
    Result State := amoOn .min gd xd xa xb 0 ord sc w32 s
def execAmoMaxu (gd : Guard) (xd xa xb : BitVec 5) (ord : BitVec 2) (sc : BitVec 3) (w32 : Bool) (s : State) :
    Result State := amoOn .maxu gd xd xa xb 0 ord sc w32 s
def execAmoMinu (gd : Guard) (xd xa xb : BitVec 5) (ord : BitVec 2) (sc : BitVec 3) (w32 : Bool) (s : State) :
    Result State := amoOn .minu gd xd xa xb 0 ord sc w32 s
def execAmoSwap (gd : Guard) (xd xa xb : BitVec 5) (ord : BitVec 2) (sc : BitVec 3) (w32 : Bool) (s : State) :
    Result State := amoOn .swap gd xd xa xb 0 ord sc w32 s
def execAmoCas (gd : Guard) (xd xa xb xc : BitVec 5) (ord : BitVec 2) (sc : BitVec 3) (w32 : Bool) (s : State) :
    Result State := amoOn .cas gd xd xa xb xc ord sc w32 s
def execAmoFadd (gd : Guard) (xd xa xb : BitVec 5) (ord : BitVec 2) (sc : BitVec 3) (w32 : Bool) (s : State) :
    Result State := amoOn .fadd gd xd xa xb 0 ord sc w32 s

/-! ## Ordered accesses (R356, R357) -/

/-- lda and lda32. Later accesses of the thread follow it: no early read of the thread's stands (R338). -/
def ldaOn (w : Nat) (gd : Guard) (xd xa : BitVec 5) (sc : BitVec 4) (s : State) : Result State :=
  issue (Form.c.when (gd.wf ∧ sc ≤ 5)) gd (fun s t =>
    let va := s.xr t xa
    match s.readCheck t va w none with
    | .error (c, s1) => trapAt s1 c va
    | .ok (xl, s') =>
      let (v, s') := (s'.acquireTimeline t.pr.1 t.pr.2 sc.toNat xl).loadPlain t xl w
      proceed ((s'.forgetAll t).setX t xd v)) s

/-- strl and strl32: the write is held until those it covers are visible in its scope instance. -/
def strlOn (w : Nat) (gd : Guard) (xd xa : BitVec 5) (sc : BitVec 4) (s : State) : Result State :=
  issue (Form.c.when (gd.wf ∧ sc ≤ 5)) gd (fun s t =>
    let va := s.xr t xa
    match s.writeCheck t va w with
    | .error (c, s1) => trapAt s1 c va
    | .ok (xl, s') =>
      let s' := if decide (xl.tdev ≠ 0) then s'.releaseWrites t sc.toNat else s'.settleFor t
      match s'.store t xl (leBytes w (s.xr t xd).toNat) (s.wideScope t sc.toNat) with
      | some s' => proceed (s'.forgetAt t xl.pa w)
      | none => .wait s .room) s

def execLda (gd : Guard) (xd xa : BitVec 5) (sc : BitVec 4) (s : State) : Result State := ldaOn 8 gd xd xa sc s
def execLda32 (gd : Guard) (xd xa : BitVec 5) (sc : BitVec 4) (s : State) : Result State := ldaOn 4 gd xd xa sc s
def execStrl (gd : Guard) (xd xa : BitVec 5) (sc : BitVec 4) (s : State) : Result State := strlOn 8 gd xd xa sc s
def execStrl32 (gd : Guard) (xd xa : BitVec 5) (sc : BitVec 4) (s : State) : Result State := strlOn 4 gd xd xa sc s

/-! ## Fences (R339, R358, R359) -/

/-- The full fence: earlier writes are visible in its scope instance before later reads. -/
def execFence (sc : BitVec 6) (s : State) : Result State :=
  issue (Form.c.when (sc ≤ 5)) noGuard (fun s t => proceed ((s.releaseWrites t sc.toNat).forgetAll t)) s

/-- fence.acq orders earlier reads, which the thread has performed already, before what follows. -/
def execFenceAcq (sc : BitVec 6) (s : State) : Result State :=
  issue (Form.c.when (sc ≤ 5)) noGuard (fun s t => proceed (s.forgetAll t)) s

/-- fence.rel: later writes of the thread are held behind the earlier ones. -/
def execFenceRel (sc : BitVec 6) (s : State) : Result State :=
  issue (Form.c.when (sc ≤ 5)) noGuard (fun s t => proceed (s.releaseMarker t sc.toNat)) s

/-! ## Barriers (R360–R366) -/

/-- Whether a barrier number is legal for a pack (R363). -/
def State.barrierOk (s : State) (p n : Nat) : Bool :=
  decide (n < 16) && (decide (n < 8) || decide (s.litterOf p ≠ none))

/-- The scope of a barrier (R364, R365). -/
def barrierScope (n : Nat) : Nat := if n < 8 then 1 else 4

/-- Whether a row's last arrival at a barrier is of a phase not yet complete. -/
def State.outstanding (s : State) (p r n : Nat) : Bool := decide (s.cpOf p n < (s.row p r).ap.getD n 0)

/-- An arrival is issued (R364): AP rises, later writes are held, and the arrival is counted by an event of its own. -/
def State.arriveBar (s : State) (p r n : Nat) : State :=
  let phase := (s.row p r).ap.getD n 0 + 1
  let s := s.releaseMarker (.control p r) (barrierScope n)
  let s := s.modPack p fun k => { k with ringEdits := k.ringEdits.map fun e =>
    if e.by_ = r then { e with bars := (n + 16 * phase.toNat) :: e.bars } else e }
  s.modRow p r fun w =>
    { w with ap := w.ap.set n phase, barArr := w.barArr ++ [{ n := n, gen := phase.toNat, seq := w.issueSeq }] }

/-- A wait returns (R365): the row acquires what the arrivals up to the observed phase released. -/
def State.acquireBar (s : State) (p r n : Nat) : State :=
  let c := (s.cpOf p n).toNat
  s.modPack p fun k => { k with ringEdits := k.ringEdits.map fun e =>
    if (e.bars.any fun b => decide (b % 16 = n ∧ b / 16 ≤ c)) then { e with known := setIns e.known r } else e }

def execBarArrive (n : BitVec 6) (s : State) : Result State :=
  issue Form.c noGuard (fun s t =>
    let (p, r) := t.pr
    if !s.barrierOk p n.toNat then trapIll s
    else if s.outstanding p r n.toNat then .wait s .room
    else proceed (((s.acquireBar p r n.toNat).forgetAll t).arriveBar p r n.toNat)) s

def execBarWait (n : BitVec 6) (s : State) : Result State :=
  issue Form.c noGuard (fun s t =>
    let (p, r) := t.pr
    if !s.barrierOk p n.toNat then trapIll s
    else if s.outstanding p r n.toNat then .wait s (.barWait n)
    else proceed ((s.acquireBar p r n.toNat).forgetAll t)) s

/-- Whether the row's entry in the placement record names this bar.sync (R362, R365). -/
def State.syncArrived (s : State) (p r n : Nat) : Bool :=
  match (s.row p r).barSync with
  | some b => decide (b.n = n ∧ b.pc = s.fetch.pc)
  | none => false

/-- bar.sync (R365): the arrival once, then the wait. -/
def execBarSync (n : BitVec 6) (s : State) : Result State :=
  issue Form.c noGuard (fun s t =>
    let (p, r) := t.pr
    if !s.barrierOk p n.toNat then trapIll s
    else if !s.syncArrived p r n.toNat then
      if s.outstanding p r n.toNat then .wait s .room
      else
        let s := (s.acquireBar p r n.toNat).arriveBar p r n.toNat
        .wait (s.modRow p r fun w =>
          { w with barSync := some { n := n.toNat, pc := s.fetch.pc, gen := (w.ap.getD n.toNat 0).toNat } }) (.barSync n)
    else if s.outstanding p r n.toNat then .wait s (.barSync n)
    else proceed (((s.acquireBar p r n.toNat).forgetAll t).modRow p r fun w => { w with barSync := none })) s

/-- BAR_ARRIVAL_COUNT (R361, R364): the row's oldest arrival is counted once the writes it covers are visible in the
barrier's scope instance, and the phases complete that can. -/
def execBarArrivalCount (p r : Nat) (s : State) : Result State :=
  match (s.row p r).barArr with
  | [] => .next s
  | x :: l =>
    let s := s.releaseWrites (.control p r) (barrierScope x.n)
    .next ((s.modRow p r fun w => { w with barArr := l }).checkBarriers p)

/-- BAR_WAIT_RETURN (R365): a waiting bar.wait or bar.sync returns once its phase is complete. -/
def execBarWaitReturn (p r : Nat) (s : State) : Result State :=
  if !s.rowRuns p r then .next s
  else
    match (s.row p r).thread.waiting with
    | some (.barWait n, f) => execBarWait n (s.resume (.control p r) f)
    | some (.barSync n, f) => execBarSync n (s.resume (.control p r) f)
    | _ => .next s

/-! ## Vector atomics (R218, R219) -/

/-- Apply the updates of a vector atomic in ascending element order: the old values, the flags, the state, and the
element whose read half met poison (R319, R322). -/
def applyAmos (f : AmoFn) (w part : Nat) :
    List (Nat × Xlate × BitVec 64) → State → List (Nat × Nat) × Flags × State × Option Nat
  | [], s => ([], 0, s, none)
  | (e, xl, c) :: l, s =>
    match s.atomicAt part (e + 1) xl f w c 0 true with
    | .done old fl s1 =>
      let (olds, fl', s2, bad) := applyAmos f w part l s1
      ((e, old.toNat) :: olds, fl ||| fl', s2, bad)
    | _ => ([], 0, s, some e)

/-- The versioned lines an instruction changed are committed together at one timestamp: their bytes before it become
their newest old versions (R323, R424). -/
def State.commitTogether (before s : State) (lines : List Nat) : State :=
  match lines with
  | [] => s
  | _ :: _ =>
    let c := s.cc + 1
    let s := lines.foldl (fun (s : State) l =>
        let v := before.vline l
        let old : OldVersion := { ts := v.ts, bytes := before.lineBytes l, poisoned := false }
        { s with lines := tset s.lines l { ts := c, chain := old :: v.chain } }) s
    { s with cc := c }

/-- The versioned lines among some updates. -/
def versLines (items : List (Nat × Xlate × BitVec 64)) : List Nat :=
  ((items.filter fun x => x.2.1.vers && decide (x.2.1.tdev = 0)).map fun x => x.2.1.pa / 64).eraseDups

/-- Issue and perform a vector atomic (R172, R193, R211, R219): no element is applied if any fails a check. -/
def vamoOn (f : AmoFn) (gd : Guard) (old : Bool) (vd : BitVec 6) (xa : BitVec 5) (vb vc : BitVec 6) (s : State) :
    Result State :=
  issue (Form.c.when (gd.wf ∧ (old = false → vd = 0))) noGuard (fun s t =>
    let (p, r) := t.pr
    let c := s.vctx p r
    let w := s.row p r
    let wv := c.wv w.width
    let at_ := s.issueCycle p r
    if !basesOk c [vd, vb, vc] || decide (c.ew < 32) then trapIll s
    else whenCaughtUp p r c gd (fun s =>
      let addr := indexAddr xa vb s t c w
      match checkIndexed t addr (c.ew / 8) .readWrite (unmarked w c gd) s with
      | (_, s1, some (e, cause)) =>
        .trap (s1.syncDone p r (c.retired w gd s.fetch.pc at_ true (some []))) cause (addr e) (BitVec.ofNat 13 e)
      | (acc, s1, none) =>
        let items := acc.map fun x => (x.e, x.xl, BitVec.ofNat 64 (elemGet w.strands wv c.ew vc x.e))
        let lines := versLines items
        let s1 := (s1.flushHeld t).settleItems t (c.ew / 8) (acc.map fun x => x.xl)
        let s1 := lines.foldl (fun (s : State) l => s.reclaim l) s1
        if !lines.isEmpty && !((lines.all fun l => s1.hasRoom l) && s1.storeRoom lines.length) then .wait (s.takeSlot p r c gd at_) .slot
        else
          let (olds, fl, s2, bad) := applyAmos f (c.ew / 8) (s.pack p).part items s1
          let s2 := s1.commitTogether s2 (versLines (items.take olds.length))
          let s2 := (readLines (acc.take olds.length)).foldl (fun (s : State) l => s.countAtomic l true) s2
          let l := if old then putElems w.strands wv c.ew vd olds else w.strands
          let l := markElems l wv (olds.map fun x => x.1) bad.isSome
          let done := (acc.take olds.length).map fun x => (x.e, x.va)
          let s3 := ((s2.setStrands p r l).raise t fl).syncDone p r
            (c.retired w gd s.fetch.pc at_ bad.isSome (some done))
          match bad with
          | some e => .trap s3 0x0A (addr e) (BitVec.ofNat 13 e)
          | none => proceed s3) s) s

def execVamoAdd (gd : Guard) (old : Bool) (vd : BitVec 6) (xa : BitVec 5) (vb vc : BitVec 6) (s : State) :
    Result State := vamoOn .add gd old vd xa vb vc s
def execVamoAnd (gd : Guard) (old : Bool) (vd : BitVec 6) (xa : BitVec 5) (vb vc : BitVec 6) (s : State) :
    Result State := vamoOn .and gd old vd xa vb vc s
def execVamoOr (gd : Guard) (old : Bool) (vd : BitVec 6) (xa : BitVec 5) (vb vc : BitVec 6) (s : State) :
    Result State := vamoOn .or gd old vd xa vb vc s
def execVamoXor (gd : Guard) (old : Bool) (vd : BitVec 6) (xa : BitVec 5) (vb vc : BitVec 6) (s : State) :
    Result State := vamoOn .xor gd old vd xa vb vc s
def execVamoMax (gd : Guard) (old : Bool) (vd : BitVec 6) (xa : BitVec 5) (vb vc : BitVec 6) (s : State) :
    Result State := vamoOn .max gd old vd xa vb vc s
def execVamoMin (gd : Guard) (old : Bool) (vd : BitVec 6) (xa : BitVec 5) (vb vc : BitVec 6) (s : State) :
    Result State := vamoOn .min gd old vd xa vb vc s
def execVamoSwap (gd : Guard) (old : Bool) (vd : BitVec 6) (xa : BitVec 5) (vb vc : BitVec 6) (s : State) :
    Result State := vamoOn .swap gd old vd xa vb vc s
def execVamoFadd (gd : Guard) (old : Bool) (vd : BitVec 6) (xa : BitVec 5) (vb vc : BitVec 6) (s : State) :
    Result State := vamoOn .fadd gd old vd xa vb vc s

/-- WRITE_BECOMES_VISIBLE (R182, R333): a pending scalar write leaves its core's L1, if nothing holds it back. -/
def execWriteBecomesVisible (core idx : Nat) (s : State) : Result State :=
  let l := (s.core core).l1
  .next (if l1MayLeave l idx then s.leave core idx else s)

end Sys2Proof.Machine
end

