-- ==== Sys2Proof/Machine/Matrix.lean ====
section
/-! DEFINITION. The matrix array and the accumulator store (R228, R229, R248–R267): issue of mma, mmaff and the
accumulator transfers, the keep latch, and what each does to tiles and registers when it executes. -/
namespace Sys2Proof.Machine

/-! ## Tiles -/

/-- A word of a tile: 0 where none was written (R229). -/
def Side.accGet (d : Side) (z i j : Nat) : BitVec 32 := (tget d.acc (4096 * z + 64 * i + j)).getD 0

/-- Write a word of a tile; a whole word written is sound (R229). -/
def Side.accPut (d : Side) (z i j : Nat) (v : BitVec 32) : Side :=
  let n := 4096 * z + 64 * i + j
  { d with acc := if v = 0 then tdel d.acc n else tset d.acc n v, accPoison := setDel d.accPoison n }

/-- Write several words of a tile. -/
def Side.accPuts (d : Side) (z : Nat) (l : List (Nat × Nat × BitVec 32)) : Side :=
  l.foldl (fun d x => d.accPut z x.1 x.2.1 x.2.2) d

/-- Set or clear a tile's SAT flag (R229). -/
def Side.satPut (d : Side) (z : Nat) (b : Bool) : Side :=
  { d with sat := if b then d.sat ||| BitVec.ofNat 16 (2 ^ z) else d.sat &&& ~~~BitVec.ofNat 16 (2 ^ z) }

/-- Rows and columns of a tile. -/
def grid (rows : Nat) : List (Nat × Nat) := (List.range rows).flatMap fun i => (List.range 64).map fun j => (i, j)

/-- A choice of tile words: side, row, column. -/
abbrev WordSet := Bool → Nat → Nat → Bool

/-- The number of a tile word of a side. -/
def wordKey (f : Bool) (i j : Nat) : Nat := (if f then 4096 else 0) + 64 * i + j

/-- The words an instruction has still to apply or read (R250). -/
def wordsLeft (done : Table (BitVec 32)) : WordSet := fun f i j => (tget done (wordKey f i j)).isNone

/-- Whether some of the words that a test picks of a tile are poisoned (R251). -/
def Side.accBad (d : Side) (z : Nat) (on : Nat → Nat → Bool) : Bool :=
  d.accPoison.any fun n => decide (n / 4096 = z) && on (n % 4096 / 64) (n % 64)

/-- Bytes written from an offset that is a multiple of 8, in whole words (R226). -/
def Side.storeWords (d : Side) (off : Nat) (b : List (BitVec 8)) : Side :=
  { d with sp := memPut d.sp off b,
           spPoison := d.spPoison.filter fun w => decide (8 * w < off ∨ off + b.length ≤ 8 * w) }

/-- The machine check of one of these instructions, which completes with the data as read (R251, R297): a poisoned source
word of scratchpad, else a poisoned accumulator word. -/
def State.matrixCheck (s : State) (p r z : Nat) (src : Option (Bool × Nat)) (acc : Option Bool) : State :=
  match src, acc with
  | some (foll, addr), _ => s.machineCheck p r (syndrome 3 foll 0 addr) 0
  | none, some foll => s.machineCheck p r (syndrome 4 foll z 0) 0
  | none, none => s

/-! ## Operands (R248, R258, R266) -/

/-- What the checks of R248 find: places, a trap with its value, or a ring stall. -/
inductive MatOperand where
  | at_ (l : List SpPlace) (ring : Option Nat)
  | trap (cause : BitVec 8) (val : BitVec 64)
  | stall (n need : Nat)

/-- The tile's check. -/
def State.tileBad (s : State) (p : Nat) (z : BitVec 4) : Bool := decide ((s.pack p).tiles ≤ z.toNat)

/-- The checks of R248 on a tile and an address of `w` bytes; with `both` the address is used in each core's own
scratchpad and may not take the partner form. -/
def State.matOperand (s : State) (p r : Nat) (z : BitVec 4) (addr : BitVec 64) (w : Nat) (both : Bool) : MatOperand :=
  if s.tileBad p z then .trap 0x07 (z.setWidth 64)
  else if misaligned addr 64 then .trap 0x05 addr
  else
    match s.spResolve p r addr w with
    | .fault c => .trap c addr
    | .stall n g => .stall n g
    | .at_ foll off ring =>
      if both then
        if foll then .trap 0x07 addr
        else .at_ [{ follower := false, off := off }, { follower := true, off := off }] ring
      else .at_ [{ follower := foll, off := off }] ring

/-- Issue of an instruction over a tile and a scratchpad operand, a release at core scope (R344): `pre` gives the trap of the
checks listed first. -/
def matrixIssue (i : Form) (pre : State → Agent → Option (BitVec 8 × BitVec 64)) (z : BitVec 4) (xa : BitVec 5)
    (w : Nat) (both : State → Agent → Bool) (op : List SpPlace → VOp) (s : State) : Result State :=
  issue i noGuard (fun s t =>
    let (p, r) := t.pr
    if vqRoom ≤ (s.row p r).vq.length then .hold s
    else
      match pre s t with
      | some (c, v) => trapAt s c v
      | none =>
        match s.matOperand p r z (s.xr t xa) w (both s t) with
        | .trap c v => trapAt s c v
        | .stall n g => .wait s (.ringStall n g (s.xr t xa) none)
        | .at_ l ring => proceed ((s.startCommand t).enqueue p r (op l) (s.vctx p r) noGuard ring.toList false)) s

/-- Issue of an accumulator transfer with no scratchpad operand. -/
def tileIssue (i : Form) (bad : Bool) (z : BitVec 4) (op : VOp) (s : State) : Result State :=
  issue i noGuard (fun s t =>
    let (p, r) := t.pr
    if vqRoom ≤ (s.row p r).vq.length then .hold s
    else if bad then trapIll s
    else if s.tileBad p z then trapAt s 0x07 (z.setWidth 64)
    else proceed (s.enqueue p r op (s.vctx p r) noGuard [] false)) s

/-- Whether an accumulator transfer acts on both cores (R266). -/
def State.bothTiles (s : State) (t : Agent) : Bool :=
  let w := s.row t.pr.1 t.pr.2
  w.vtype.bs && w.width.braced

/-- A tile about to be read (R249): 64 rows of `size` bytes. -/
def SpPlace.tile (size : Nat) (x : SpPlace) : SpTile :=
  { place := x, size := size, rows := List.replicate 64 none, bad := none }

/-! ## mma (R252–R258) -/

/-- The matrix types by code (R252). -/
def matType (c : BitVec 3) : MatType :=
  if c = 0 then .bf16 else if c = 1 then .fp16 else if c = 2 then .e4m3 else if c = 3 then .e5m2
  else if c = 4 then .i8 else .log6

/-- Bytes of an element (R254). -/
def MatType.bytes : MatType → Nat
  | .bf16 => 2
  | .fp16 => 2
  | _ => 1

/-- Whether a type is an 8-bit float. -/
def MatType.float8 (t : MatType) : Bool := decide (t = .e4m3) || decide (t = .e5m2)

/-- The pairs this stepping implements (R253). -/
def pairOk (a b : MatType) : Bool := (a.float8 && b.float8) || (decide (a = b) && !a.float8)

/-- The Y field of an mma or mmaff (R252). -/
def mmaY (ta tb : BitVec 3) (keep brace clear : Bool) : Nat :=
  ta.toNat + 8 * tb.toNat + bitAt keep 6 + bitAt brace 7 + bitAt clear 8

/-- The A field, type and brace of the latch as the queue will leave it (R257). -/
def State.latchKey (s : State) (p r : Nat) : Option (BitVec 6 × MatType × Bool) :=
  (s.row p r).vq.foldl (fun l x =>
    match x.op with
    | .mma _ va _ ta _ keep brace _ => if keep then some (va, ta, brace) else none
    | _ => l) ((s.pack p).latch.map fun l => (l.va, l.ta, l.brace))

/-- The checks 1–6 of R253, in order. -/
def mmaPre (va : BitVec 6) (ta tb : BitVec 3) (keep brace clear : Bool) (s : State) (t : Agent) :
    Option (BitVec 8 × BitVec 64) :=
  let (p, r) := t.pr
  let w := (s.row p r).width
  let a := matType ta
  let key := s.latchKey p r
  if r ≠ 0 || w.req ≠ 64 || (brace && !w.braced) || decide (64 < va.toNat + 8 * a.bytes) ||
      (key.isSome && decide (key ≠ some (va, a, brace))) then some (0x01, s.fetch.raw)
  else if !pairOk a (matType tb) then some (0x09, BitVec.ofNat 64 (mmaY ta tb keep brace clear))
  else none

def execMma (zd : BitVec 4) (va : BitVec 6) (xb : BitVec 5) (ta tb : BitVec 3) (keep brace clear : Bool) (s : State) :
    Result State :=
  let size := 64 * (matType tb).bytes
  matrixIssue (Form.c.when (ta ≤ 5 ∧ tb ≤ 5)) (mmaPre va ta tb keep brace clear) zd xb (64 * size)
    (fun _ _ => brace)
    (fun l => .mma zd va (l.map (SpPlace.tile size)) (matType ta) (matType tb) keep brace clear) s

/-- The A operand in the registers of strands 0 … G − 1 (R254): rows of words. -/
def readA (l : List Strand) (grant : Nat) (va : BitVec 6) (ta : MatType) : List (List (BitVec 64)) :=
  (l.take grant).map fun t => (List.range (8 * ta.bytes)).map fun m => t.greg (va + BitVec.ofNat 6 m)

/-- a[i][k] of a row of words (R254), and b[k][j] of a row of bytes; a log6 element is its byte's low six bits. -/
def aElem (row : List (BitVec 64)) (t : MatType) (k : Nat) : Nat :=
  let p := 8 / t.bytes
  let v := (row.getD (k / p) 0).toNat / 2 ^ (8 * t.bytes * (k % p)) % 2 ^ (8 * t.bytes)
  if t = .log6 then v % 64 else v
def bElem (row : List (BitVec 8)) (t : MatType) (j : Nat) : Nat :=
  let v := leNat ((row.drop (t.bytes * j)).take t.bytes)
  if t = .log6 then v % 64 else v

/-- The update of the words of one tile that `on` picks (R255): rows of A, rows of B by k, over the present `ks`; `first` says
that none has been updated before. -/
def Side.mma (d : Side) (z grant : Nat) (a : List (List (BitVec 64))) (b : Nat → List (BitVec 8)) (ta tb : MatType)
    (ks : List Nat) (clear first : Bool) (on : Nat → Nat → Bool) : Side :=
  let d := if clear && first then d.satPut z false else d
  let new := ((grid grant).filter fun x => on x.1 x.2).map fun x =>
    let row := a.getD x.1 []
    let acc := if clear then 0 else d.accGet z x.1 x.2
    (x.1, x.2, accUpdate ta tb acc (ks.map fun k => (k, aElem row ta k, bElem (b k) tb x.2)))
  let d := d.accPuts z (new.map fun x => (x.1, x.2.1, x.2.2.1))
  if new.any fun x => x.2.2.2 then d.satPut z true else d

/-- The A rows that an mma uses, latched or read (R257). -/
def State.useA (s : State) (p r : Nat) (va : BitVec 6) (ta : MatType) : List (List (BitVec 64)) :=
  match (s.pack p).latch with
  | some l => l.rows
  | none => let w := s.row p r
            readA w.strands w.width.grant.toNat va ta

/-- The latch after an mma (R257). -/
def State.setLatch (s : State) (p : Nat) (keep : Bool) (va : BitVec 6) (ta : MatType) (brace : Bool)
    (rows : List (List (BitVec 64))) : State :=
  s.modPack p fun k => { k with latch := if keep then some { va := va, ta := ta, brace := brace, rows := rows } else none }

/-- The core-view address of a poisoned word of an operand. -/
def State.spAddress (s : State) (p : Nat) (t : SpTile) (off : Nat) : Nat :=
  off + (s.pack p).base.toNat + (if t.place.follower then 0x300000 else 0)

/-- The lowest poisoned source word among operands. -/
def State.tilesBad (s : State) (p : Nat) (l : List SpTile) : Option (Bool × Nat) :=
  (l.find? fun t => t.bad.isSome).map fun t => (t.place.follower, s.spAddress p t (t.bad.getD 0))

/-- The first of the sides with a poisoned word among those picked of its tile. -/
def State.accsBad (s : State) (p z n : Nat) (on : WordSet) : Option Bool :=
  (([false, true].take n).find? fun f => (s.side p f).accBad z (on f))

/-- The row of a tile that has been read. -/
def SpTile.row (t : SpTile) (i : Nat) : List (BitVec 8) := (t.rows.getD i none).getD []

/-- The words an mma reads and writes: rows below the grant. -/
def mmaReads (grant : Nat) (clear : Bool) (on : WordSet) : WordSet := fun f i j => !clear && decide (i < grant) && on f i j

/-- Some words of an mma (R255–R258): each core updates its own tile with the B at its place. -/
def State.mmaWords (s : State) (p r : Nat) (zd : BitVec 4) (va : BitVec 6) (b : List SpTile) (ta tb : MatType)
    (clear first : Bool) (on : WordSet) : State :=
  let grant := (s.row p r).width.grant.toNat
  let a := s.useA p r va ta
  let upd := fun (s : State) (f : Bool) (t : SpTile) =>
    s.modSide p f fun d => d.mma zd.toNat grant a t.row ta tb (List.range 64) clear first (on f)
  match b with
  | [x] => upd s false x
  | [x, y] => upd (upd s false x) true y
  | _ => s

/-- An mma executes (R255–R258): the words left are updated; `met` is poison met before. -/
def State.runMma (s : State) (p r : Nat) (zd : BitVec 4) (va : BitVec 6) (b : List SpTile) (ta tb : MatType)
    (keep brace clear : Bool) (done : Table (BitVec 32)) (met : Option Bool) : State :=
  let on := wordsLeft done
  let b := b.map (s.readTile p fun _ => true)
  let bad := met.or (s.accsBad p zd.toNat b.length (mmaReads (s.row p r).width.grant.toNat clear on))
  let s' := s.mmaWords p r zd va b ta tb clear done.isEmpty on
  (s'.setLatch p keep va ta brace (s.useA p r va ta)).matrixCheck p r zd.toNat (s.tilesBad p b) bad

/-! ## mmaff (R260–R262) -/

/-- The 64-byte pieces of row k of a B tile in memory. -/
def rowPieces (va : BitVec 64) (size k : Nat) : List (BitVec 64) :=
  (List.range (size / 64)).map fun i => va + BitVec.ofNat 64 (k * size + 64 * i)

/-- Check the pieces of one row (R261): translations, or the lowest failing address with its cause. -/
def checkPieces (t : Agent) :
    List (BitVec 64) → State → List Xlate → Except (BitVec 8 × BitVec 64 × State) (List Xlate × State)
  | [], s, acc => .ok (acc.reverse, s)
  | va :: l, s, acc =>
    match s.elemCheckAt t (va.toNat / 64) va 1 .read with
    | .error (c, s') => .error (c, va, s')
    | .ok (xl, s') => if s'.readPoisoned t xl none then .error (0x0A, va, s') else checkPieces t l s' (xl :: acc)

/-- Check rows in ascending order: the rows granted with their pieces, and the failure that stopped them. -/
def checkRows (t : Agent) (va : BitVec 64) (size : Nat) :
    List Nat → State → List (Nat × List Xlate) × State × Option (BitVec 8 × BitVec 64)
  | [], s => ([], s, none)
  | k :: l, s =>
    match checkPieces t (rowPieces va size k) s [] with
    | .error (c, v, s1) => ([], s1, some (c, v))
    | .ok (x, s1) =>
      let (rows, s2, f) := checkRows t va size l s1
      ((k, x) :: rows, s2, f)

/-- The 8-byte elements of the pieces of row k. -/
def pieceElems (size k : Nat) (l : List Xlate) : List ElemAcc :=
  (l.mapIdx fun i xl => (List.range 8).map fun j =>
    ({ e := k * (size / 8) + 8 * i + j, va := 0, xl := { xl with pa := xl.pa + 8 * j }, landed := none, bad := false } : ElemAcc)).flatten

/-- The row of bytes that landed elements hold. -/
def rowOf (size k : Nat) (l : List ElemAcc) : List (BitVec 8) :=
  (l.filter fun x => decide (x.e / (size / 8) = k)).flatMap fun x => leBytes 8 (x.landed.getD 0).toNat

/-- Whether a request breaks its limits (R260). -/
def requestBad (x : BitVec 64) : Bool :=
  let k0 := x.toNat / 256 % 256
  let n := x.toNat % 256
  decide (x.toNat / 65536 ≠ 0 ∨ 63 < k0 ∨ n = 0 ∨ 64 < n ∨ 64 < k0 + n)

/-- mmaff: its reads follow the thread's earlier scalar writes (R249), which stay in the L1 for other agents. -/
def execMmaff (zd : BitVec 4) (va : BitVec 6) (xb xc : BitVec 5) (ta tb : BitVec 3) (keep clear : Bool) (s : State) :
    Result State :=
  issue (Form.c.when (ta ≤ 5 ∧ tb ≤ 5)) noGuard (fun s t =>
    let (p, r) := t.pr
    let s := s.startCommand t
    let addr := s.xr t xb
    let req := s.xr t xc
    let size := 64 * (matType tb).bytes
    let at_ := s.issueCycle p r
    whenCaughtUp p r (s.vctx p r) noGuard (fun s =>
      match mmaPre va ta tb keep false clear s t with
      | some (c, v) => trapAt s c v
      | none =>
        if requestBad req then trapIll s
        else if s.tileBad p zd then trapAt s 0x07 (zd.setWidth 64)
        else if misaligned addr 64 then trapAt s 0x05 addr
        else
          let k0 := req.toNat / 256 % 256
          let (rows, s1, f) := checkRows t addr size ((List.range (req.toNat % 256)).map fun i => k0 + i) s
          match rows, f with
          | [], some (c, v) => trapAt s1 c v
          | _, _ =>
            let elems := rows.flatMap fun x => pieceElems size x.1 x.2
            let (got, _) := (s1.drainAgents p fun a => decide (a = t)).readElems t .plain 8 elems elems
            let (_, s2) := s1.readElems t .plain 8 elems elems
            let z := zd.toNat
            let grant := (s.row p r).width.grant.toNat
            let a := s.useA p r va (matType ta)
            let bad := s.accsBad p z 1 (mmaReads grant clear fun _ _ _ => true)
            let s3 := s2.modSide p false fun d =>
              d.mma z grant a (fun k => rowOf size k got) (matType ta) (matType tb) (rows.map fun x => x.1) clear true fun _ _ => true
            let s4 := (s3.setLatch p keep va (matType ta) false a).matrixCheck p r z none bad
            let s5 := s4.syncDone p r (bareRetired s.fetch.pc at_ addr)
            proceed (s5.setX t xc ((req &&& ~~~0xFF#64) ||| BitVec.ofNat 64 rows.length))) s) s

/-! ## Accumulator transfers (R263–R267) -/

def execZclr (zd : BitVec 4) (s : State) : Result State := tileIssue Form.c false zd (.zclr zd) s

def execZld (zd : BitVec 4) (xa : BitVec 5) (s : State) : Result State :=
  matrixIssue Form.c (fun _ _ => none) zd xa imageBytes State.bothTiles
    (fun l => .zld zd (l.map (SpPlace.tile 256))) s

def execZst (zd : BitVec 4) (xa : BitVec 5) (s : State) : Result State :=
  matrixIssue Form.c (fun _ _ => none) zd xa imageBytes State.bothTiles (fun l => .zst zd l) s

def execZrd (vd : BitVec 6) (za q : BitVec 4) (s : State) : Result State :=
  tileIssue Form.c (decide (4 < q.toNat) || decide (56 < vd.toNat)) za (.zrd vd za q) s

def execZwr (zd : BitVec 4) (va : BitVec 6) (q : BitVec 4) (s : State) : Result State :=
  tileIssue Form.c (decide (4 < q.toNat) || decide (56 < va.toNat)) zd (.zwr zd va q) s

def execZcvt (zd : BitVec 4) (xa : BitVec 5) (src : BitVec 5) (tgt : BitVec 4) (s : State) : Result State :=
  matrixIssue Form.c
    (fun s _ => if 2 < src.toNat ∨ 6 < tgt.toNat then some (0x01, s.fetch.raw) else none)
    zd xa (zcvtBytes tgt) State.bothTiles (fun l => .zcvt zd l src tgt) s

/-- The sides a transfer acts on (R266). -/
def VCtx.sides (c : VCtx) (w : Width) : List Bool := if c.bs && w.braced then [false, true] else [false]

/-- Write a g register of a strand; g0 discards it (R54). -/
def putStrand (l : List Strand) (k : Nat) (n : BitVec 6) (v : BitVec 64) : List Strand :=
  if n = 0 then l else l.modify k fun t => { t with g := setReg t.g n.toNat v }

/-- Some words of a zclr; the SAT flags with the first. -/
def State.runZclr (s : State) (p r : Nat) (c : VCtx) (zd : BitVec 4) (first : Bool) (on : WordSet) : State :=
  (c.sides (s.row p r).width).foldl (fun s f => s.modSide p f fun d =>
    let d := d.accPuts zd.toNat (((grid 64).filter fun x => on f x.1 x.2).map fun x => (x.1, x.2, 0))
    if first then d.satPut zd.toNat false else d) s

/-- Some words of a zld whose source has been read. -/
def State.zldWords (s : State) (p : Nat) (zd : BitVec 4) (b : List SpTile) (on : WordSet) : State :=
  let put := fun (s : State) (f : Bool) (t : SpTile) =>
    s.modSide p f fun d => d.accPuts zd.toNat (((grid 64).filter fun x => on f x.1 x.2).map fun x =>
      (x.1, x.2, BitVec.ofNat 32 (leNat (((t.row x.1).drop (4 * x.2)).take 4))))
  match b with
  | [x] => put s false x
  | [x, y] => put (put s false x) true y
  | _ => s

/-- zld executes: the words left are written. -/
def State.runZld (s : State) (p r : Nat) (zd : BitVec 4) (b : List SpTile) (done : Table (BitVec 32)) : State :=
  let b := b.map (s.readTile p fun _ => true)
  (s.zldWords p zd b (wordsLeft done)).matrixCheck p r zd.toNat (s.tilesBad p b) none

/-- A tile word as an instruction reads it: as it has read it already, or now. -/
def Side.accSeen (d : Side) (f : Bool) (z i j : Nat) (done : Table (BitVec 32)) : BitVec 32 :=
  (tget done (wordKey f i j)).getD (d.accGet z i j)

/-- The bytes of a tile, each word through a function. -/
def Side.tileBytes (d : Side) (f : Bool) (z : Nat) (done : Table (BitVec 32)) (g : BitVec 32 → List (BitVec 8)) :
    List (BitVec 8) :=
  (grid 64).flatMap fun x => g (d.accSeen f z x.1 x.2 done)

/-- zst and zcvt execute: each core's tile goes to its place. -/
def State.runTileOut (s : State) (p r : Nat) (zd : BitVec 4) (b : List SpPlace) (done : Table (BitVec 32))
    (met : Option Bool) (f : BitVec 32 → List (BitVec 8)) : State :=
  let bad := met.or (s.accsBad p zd.toNat b.length (wordsLeft done))
  let put := fun (s : State) (tile : Bool) (x : SpPlace) =>
    let bytes := (s.side p tile).tileBytes tile zd.toNat done f
    s.modSide p x.follower fun d => d.storeWords x.off bytes
  let s' := match b with
    | [x] => put s false x
    | [x, y] => put (put s false x) true y
    | _ => s
  s'.matrixCheck p r zd.toNat none bad

/-- The strand that pairs with row i of a side's tile (R265, R266). -/
def pairStrand (grant : Nat) (f : Bool) (i : Nat) : Nat := if f then grant + i else i

/-- The column pair of quarter q held by register m of eight (R265). -/
def quarterCol (q : BitVec 4) (m : Nat) : Nat := 16 * q.toNat + 2 * m

/-- The words a zrd reads (R265): the quarter's columns of the rows below the grant; none for SAT. -/
def zrdReads (grant : Nat) (q : BitVec 4) (on : WordSet) : WordSet :=
  fun f i j => decide (q.toNat < 4 ∧ i < grant ∧ j / 16 = q.toNat) && on f i j

/-- zrd executes. -/
def State.runZrd (s : State) (p r : Nat) (c : VCtx) (vd : BitVec 6) (za q : BitVec 4) (done : Table (BitVec 32))
    (met : Option Bool) : State :=
  let w := s.row p r
  let grant := w.width.grant.toNat
  let z := za.toNat
  let sides := c.sides w.width
  let l := sides.foldl (fun l f =>
    let d := s.side p f
    (List.range grant).foldl (fun l i =>
      let k := pairStrand grant f i
      if q = 4 then putStrand l k vd (if d.sat.getLsbD z then 1 else 0)
      else (List.range 8).foldl (fun l m =>
        let col := quarterCol q m
        putStrand l k (vd + BitVec.ofNat 6 m) (d.accSeen f z i (col + 1) done ++ d.accSeen f z i col done)) l) l) w.strands
  let bad := met.or (s.accsBad p z sides.length (zrdReads grant q (wordsLeft done)))
  (s.setStrands p r l).matrixCheck p r z none bad

/-- Some words of a zwr. -/
def State.runZwr (s : State) (p r : Nat) (c : VCtx) (zd : BitVec 4) (va : BitVec 6) (q : BitVec 4) (on : WordSet) :
    State :=
  let w := s.row p r
  let grant := w.width.grant.toNat
  let z := zd.toNat
  (c.sides w.width).foldl (fun s f => s.modSide p f fun d =>
    let reg := fun i n => (w.strands.getD (pairStrand grant f i) Strand.idle).greg n
    if q = 4 then d.satPut z ((reg 0 va).getLsbD 0)
    else d.accPuts z (((List.range grant).flatMap fun i => (List.range 8).flatMap fun m =>
      let v := reg i (va + BitVec.ofNat 6 m)
      [(i, quarterCol q m, v.setWidth 32), (i, quarterCol q m + 1, (v >>> 32).setWidth 32)]).filter fun x =>
        on f x.1 x.2.1)) s

/-! ## Words applied one by one (R250) -/

/-- Note tile words as applied or read: those picked of `n` sides, with what was read. -/
def State.noteWords (s : State) (p z n : Nat) (on : WordSet) (done : Table (BitVec 32)) : Table (BitVec 32) :=
  ([false, true].take n).foldl (fun t f => (grid 64).foldl (fun t x =>
    if on f x.1 x.2 then tset t (wordKey f x.1 x.2) ((s.side p f).accGet z x.1 x.2) else t) t) done

/-- A matrix or accumulator instruction applies, or reads, some of its tile words now, and the others later: the order against an
unordered instruction of another row is chosen word by word (R250). -/
def State.someWords (s : State) (p r : Nat) (x : VEntry) : State × VEntry :=
  let on : WordSet := fun f i j => wordsLeft x.words f i j && decide (s.pick (300000 + wordKey f i j) 2 = 0)
  let grant := (s.row p r).width.grant.toNat
  let sides := (x.ctx.sides (s.row p r).width).length
  let note := fun (z n : Nat) (reads : WordSet) =>
    { x with words := s.noteWords p z n on x.words, met := x.met.or (s.accsBad p z n reads) }
  match x.op with
  | .mma zd va b ta tb keep brace clear =>
    let b := b.map (s.readTile p fun _ => true)
    (s.mmaWords p r zd va b ta tb clear x.words.isEmpty on,
     { note zd.toNat b.length (mmaReads grant clear on) with op := .mma zd va b ta tb keep brace clear })
  | .zclr zd => (s.runZclr p r x.ctx zd x.words.isEmpty on, note zd.toNat sides fun _ _ _ => false)
  | .zld zd b =>
    let b := b.map (s.readTile p fun _ => true)
    (s.zldWords p zd b on, { note zd.toNat b.length (fun _ _ _ => false) with op := .zld zd b })
  | .zst zd b => (s, note zd.toNat b.length on)
  | .zcvt zd b _ _ => (s, note zd.toNat b.length on)
  | .zrd _ za q => (s, note za.toNat sides (zrdReads grant q on))
  | .zwr zd va q => (s.runZwr p r x.ctx zd va q on, note zd.toNat sides fun _ _ _ => false)
  | _ => (s, x)

end Sys2Proof.Machine
end

