-- ==== Sys2Proof/Machine/Ring.lean ====
section
/-! DEFINITION. Timelines (R241, R242, R269–R271) and proofing rings (R243–R247, R272–R276). -/
namespace Sys2Proof.Machine

/-! ## tlwait (R269, R270) -/

/-- The timeline's value as the thread observes it: the head version on a versioned page, TXSTART and SNAP apart. What it
observes is ordered before what the thread does later (R340). -/
def State.timelineValue (s : State) (t : Agent) (xl : Xlate) : BitVec 64 × State :=
  if xl.tdev ≠ 0 then s.remoteRead (s.pack t.pr.1).part xl 8 1
  else
    let (b, s) := s.view t xl 8
    (leWord b, s.settleRead (s.coreOf t) xl.pa 8)

/-- Whether the engine context of a core lies outside an agent's instance of a scope (R8, R270). -/
def State.engineOutside (s : State) (a : Agent) (sc core : Nat) : Bool :=
  decide (sc ≤ 1) || (decide (sc = 2) && decide (core ≠ s.coreOf a)) || (decide (sc = 3) && decide (core / 4 ≠ s.coreOf a / 4))

/-- A timeline wait has returned (R242, R338): later accesses follow it. What a copy wrote since an agent read some bytes early is not
acquired where the scope leaves out the copy's engine, so that read may still serve a later load of them (R270, R340). -/
def State.forgetWait (s : State) (a : Agent) (sc : Nat) : State :=
  s.forget fun e =>
    decide (e.agent = a) && !(match e.after with
      | none => false
      | some (core, b) => s.engineOutside a sc core &&
          decide (b = (match e.sp with
            | none => memBytes s.mem e.pa e.bytes.length
            | some foll => memBytes (s.side a.pr.1 foll).sp e.pa e.bytes.length)))

/-- A timeline wait's read of a line (R415): over a fabric window it is no read of local memory. -/
def State.countWait (s : State) (xl : Xlate) : State := if xl.tdev ≠ 0 then s else s.countRead (xl.pa / 64)

def execTlwait (gd : Guard) (xa xb : BitVec 5) (sc : BitVec 4) (s : State) : Result State :=
  issue (Form.c.when (gd.wf ∧ sc ≤ 5)) gd (fun s t =>
    let va := s.xr t xa
    if misaligned va 8 then trapAt s 0x05 va
    else if !canonical va then trapAt s 0x07 va
    else
      match s.translateFor t va .read with
      | .error c => trapAt s c va
      | .ok (xl, s1) =>
        if s1.poisoned xl then trapAt s1 0x0A va
        else
          let (v, s2) := s1.timelineValue t xl
          if (s.xr t xb).toNat ≤ v.toNat then
            proceed (((s2.acquireTimeline t.pr.1 t.pr.2 sc.toNat xl).forgetWait t sc.toNat).countWait xl)
          else .wait s2 (.tlwait gd xa xb sc)) s

/-- TLWAIT_RETURN (R242): a waiting tlwait observes its timeline again. -/
def execTlwaitReturn (p r : Nat) (s : State) : Result State :=
  if !s.rowRuns p r then .next s
  else
    match (s.row p r).thread.waiting with
    | some (.tlwait gd xa xb sc, f) => execTlwait gd xa xb sc (s.resume (.control p r) f)
    | _ => .next s

/-! ## tlpost (R271) -/

/-- The post buffer's capacity. -/
def postRoom : Nat := 16

def execTlpost (gd : Guard) (xa xb : BitVec 5) (sc : BitVec 4) (s : State) : Result State :=
  issue (Form.c.when (gd.wf ∧ sc ≤ 5)) gd (fun s t =>
    let (p, r) := t.pr
    let va := s.xr t xa
    match s.elemCheck t va 8 .readWrite with
    | .error (c, s1) => trapAt s1 c va
    | .ok (xl, s1) =>
      if s1.poisoned xl then trapAt s1 0x0A va
      else if postRoom ≤ (s.row p r).posts.length then .wait s .room
      else
        let add := s.xr t xb
        proceed ((s1.releaseMarker t sc.toNat).modRow p r fun w =>
          { w with posts := w.posts ++ [{ va := va, xl := xl, add := add, scope := sc.toNat, seq := w.issueSeq }],
                   issueSeq := w.issueSeq + 1 })) s

/-- Apply one atomic addition to a timeline at its captured frame; none while version room is wanting (R234, R241, R271). The
Bool says whether the line was poisoned, and so not changed. DESIGN CHOICE: a frame in a granule that is not the partition's (R395) is
not changed either (log 147). DESIGN CHOICE: on a counted line the addition counts one read, and where that read is the last its write
is kept, as for a scalar atomic (R415, R416; log 146). -/
def State.addTimeline (s : State) (by_ : Sender) (xl : Xlate) (inc : BitVec 64) : Option (State × Bool) :=
  if xl.tdev ≠ 0 then
    some (s.send (s.partOfSender by_) (.atomic by_ xl.tdev xl.pa .add false inc 0), false)
  else if s.poisoned xl || !s.owned (s.partOfSender by_) xl.pa then some (s, true)
  else
    let bytes := leBytes 8 (leWord (memBytes s.mem xl.pa 8) + inc).toNat
    if xl.vers then (s.commitLine xl.pa bytes).map fun s => (s, false)
    else some ((s.countAtomic (xl.pa / 64) true).writeMem xl.pa bytes, false)

/-- TLPOST_APPLY (R271): the row's oldest post, once every queued instruction issued before it has executed, is added with
release of what the row issued before it; a post outlives its pack. -/
def execTlpostApply (p r : Nat) (s : State) : Result State :=
  if (s.pack p).life = .saved then .next s
  else
    match (s.row p r).posts with
    | [] => .next s
    | x :: l =>
      if (s.row p r).vq.any fun e => decide (e.seq < x.seq) then .next s
      else
        let a := Agent.control p r
        let s1 := ((s.drainFor a x.xl.pa 8).flushHeld a).releaseWrites a x.scope
        let counted := (tget s1.counted (x.xl.pa / 64)).isSome
        match s1.addTimeline (.row p r) x.xl x.add with
        | none => .next s
        | some (s2, bad) =>
          let s3 := s2.modRow p r fun w => { w with posts := l }
          let s4 := if bad then s3.machineCheck p r (syndrome 8 false 0 x.xl.pa) 0 else s3
          .next (if x.scope = 0 ∨ counted then s4
            else s4.modPack p fun k => { k with ringEdits := k.ringEdits.map fun e =>
              if e.by_ = r ∧ e.seq < x.seq then { e with posted := (setIns e.posted x.xl.pa) } else e })

/-! ## Rings (R243–R247, R272–R276) -/

/-- The check of a ring number against the pack's ring count (R272). -/
def State.ringNumberBad (s : State) (p : Nat) (n : BitVec 3) : Bool := decide ((s.pack p).ringCount ≤ n.toNat)

/-- Note an edit of a ring that other rows may not have seen (R276). -/
def State.noteEdit (s : State) (p r n : Nat) (old : Option Ring) : State :=
  let seq := (s.row p r).issueSeq
  let e : RingEdit := { n := n, old := old, by_ := r, seq := seq, known := [], posted := [], bars := [] }
  (s.modPack p fun k => { k with ringEdits := e :: k.ringEdits }).modRow p r fun w => { w with issueSeq := w.issueSeq + 1 }

/-- Why a definition of a ring fails (R273): cause and value. -/
def ringdefBad (k : Pack) (raw base size party : BitVec 64) (stages : Nat) : Option (BitVec 8 × BitVec 64) :=
  let b := base.toNat
  let lo := k.base.toNat
  let last := b + stages * size.toNat - 1
  if party = 0 ∨ 4096 < party.toNat then some (0x01, raw)
  else if size = 0 ∨ size.toNat % 64 ≠ 0 ∨ 0x1000000 < size.toNat then some (0x01, raw)
  else if b % 64 ≠ 0 then some (0x05, base)
  else if b < lo ∨ lo + k.spBytes ≤ b ∨ 2 ^ 31 ≤ b then some (0x07, base)
  else if lo + k.spBytes ≤ last then some (0x07, BitVec.ofNat 64 last)
  else none

def execRingdef (n : BitVec 3) (xa xb xc stages : BitVec 5) (s : State) : Result State :=
  issue (Form.c.when (2 ≤ stages ∧ stages ≤ 16)) noGuard (fun s t =>
    let (p, r) := t.pr
    if s.ringNumberBad p n then trapAt s 0x07 (n.setWidth 64)
    else if (s.ringSeen p r n.toNat).isSome then trapIll s
    else
      let base := s.xr t xa
      let size := s.xr t xb
      let party := s.xr t xc
      match ringdefBad (s.pack p) s.fetch.raw base size party stages.toNat with
      | some (c, v) => trapAt s c v
      | none =>
        let ring : Ring := { base := base.toNat - (s.pack p).base.toNat, s := stages.toNat, size := size.toNat,
                             parties := party.toNat, cg := 0, counts := List.replicate stages.toNat 0 }
        let s1 := s.noteEdit p r n.toNat ((s.pack p).rings.getD n.toNat none)
        proceed (s1.modPack p fun k =>
          { k with rings := k.rings.set n.toNat (some ring),
                   rows := k.rows.map fun w => { w with gens := w.gens.set n.toNat 0 } })) s

/-- Advance the row's generation (R245, R274): an undefined ring traps, an advance past CG + S stalls. -/
def ringAdvance (n : BitVec 3) (s : State) (t : Agent) (f : State → Nat → Res) : Res :=
  let (p, r) := t.pr
  if s.ringNumberBad p n then trapAt s 0x07 (n.setWidth 64)
  else
    match s.ringSeen p r n.toNat with
    | none => trapAt s 0x0C (n.setWidth 64)
    | some g =>
      let a := (s.row p r).gens.getD n.toNat 0 + 1
      if g.cg + g.s < a then .wait s (.ringStall n.toNat (a - g.s) (n.setWidth 64) none)
      else f ((s.forgetAll t).modRow p r fun w => { w with gens := w.gens.set n.toNat a }) a

def execRingarr (n : BitVec 3) (s : State) : Result State :=
  issue Form.c noGuard (fun s t => ringAdvance n s t fun s a =>
    proceed (s.modRow t.pr.1 t.pr.2 fun w =>
      { w with ringArr := w.ringArr ++ [{ n := n.toNat, gen := a, seq := w.issueSeq }] })) s

def execRinggen (xd : BitVec 5) (n : BitVec 3) (s : State) : Result State :=
  issue Form.c noGuard (fun s t => ringAdvance n s t fun s a => proceed (s.setX t xd (BitVec.ofNat 64 a))) s

/-- Whether a queued instruction resolved an address in a ring. -/
def VEntry.inRing (x : VEntry) (n : Nat) : Bool := x.rings.contains n

/-- COPYERR takes a failure if it holds none (R237). -/
def State.copyFailed (s : State) (p r : Nat) (tid : BitVec 32) (cause : BitVec 8) : State :=
  s.modRow p r fun w =>
    if w.copyErr.valid then w else { w with copyErr := { tid := tid, valid := true, cause := cause } }

/-- The ring a copy-side address names, if it is ring-relative (R223). -/
def copyRing (a : BitVec 64) : Option Nat := (ringOf a).head?

/-- Whether a side of a transfer is a scratchpad address of the issuing pack (R231). -/
def srcIsSp (dir : BitVec 3) : Bool := decide (dir = 1 ∨ dir = 3 ∨ dir = 5)
def dstIsSp (dir : BitVec 3) : Bool := decide (dir = 0 ∨ 3 ≤ dir)

/-- The rings a transfer captured generations of (R234): number and generation. -/
def Transfer.rings (t : Transfer) : List (Nat × Nat) :=
  (if srcIsSp t.regs.dir then ((copyRing t.regs.src).map fun n => (n, t.genSrc)).toList else []) ++
  (if dstIsSp t.regs.dir then ((copyRing t.regs.dst).map fun n => (n, t.genDst)).toList else []) ++
  (if t.regs.arr then [(t.regs.aring.toNat, t.genArr)] else [])

/-- Fail the transfers held on a ring of a pack that becomes undefined (R275). -/
def State.failHeld (s : State) (p n cg : Nat) : State :=
  let hit := fun (t : Transfer) =>
    decide (t.pack = p ∧ t.life = .held) && t.rings.any fun x => decide (x.1 = n ∧ cg < x.2)
  let s1 := s.copies.foldl (fun (s : State) t => if hit t then s.copyFailed t.pack t.row t.tid 0x0C else s) s
  { s1 with copies := s1.copies.map fun t =>
      if hit t then { t with life := .started, cause := some 0x0C, regs := { t.regs with arr := false } } else t }

/-- The instructions of a pack's rows that are stalled on a ring that becomes undefined trap 0x0C (R275). -/
def State.trapStalled (s : State) (p n : Nat) : State :=
  (List.range (s.pack p).rows.length).foldl (fun (s : State) r =>
    match (s.row p r).thread.waiting with
    | some (.ringStall m _ val elem, f) =>
      if m = n then
        let s := s.modThread (.control p r) fun t => { t with waiting := none, patch := none }
        let s := match elem with
          | some e => s.setVstart p r e
          | none => s
        s.takeTrap p r 0x0C f.pc val (BitVec.ofNat 13 (elem.getD 0))
      else s
    | _ => s) s

/-- ringfree (R275): the thread waits until its earlier instructions that resolved the ring have performed their accesses. -/
def execRingfree (n : BitVec 3) (s : State) : Result State :=
  issue Form.c noGuard (fun s t =>
    let (p, r) := t.pr
    if s.ringNumberBad p n then trapAt s 0x07 (n.setWidth 64)
    else
      match s.ringSeen p r n.toNat with
      | none => trapAt s 0x0C (n.setWidth 64)
      | some g =>
        if (s.row p r).vq.any fun x => x.inRing n.toNat then .wait s .room
        else
          let s1 := s.noteEdit p r n.toNat ((s.pack p).rings.getD n.toNat none)
          let s2 := s1.modPack p fun k =>
            { k with rings := k.rings.set n.toNat none,
                     rows := k.rows.map fun w => { w with ringArr := w.ringArr.filter fun x => decide (x.n ≠ n.toNat) } }
          proceed ((s2.failHeld p n.toNat g.cg).trapStalled p n.toNat)) s

/-- Complete the generations that have all their arrivals, in order (R245). -/
def Ring.complete (g : Ring) : Nat → Ring
  | 0 => g
  | k + 1 =>
    if g.parties ≤ g.counts.getD 0 0 then
      Ring.complete { g with cg := g.cg + 1, counts := g.counts.drop 1 ++ [0] } k
    else g

/-- Count one arrival for a generation (R245): beyond P it is discarded. -/
def Ring.arrive (g : Ring) (gen : Nat) : Ring :=
  if g.cg < gen ∧ gen ≤ g.cg + g.s ∧ g.counts.getD (gen - g.cg - 1) 0 < g.parties then
    Ring.complete { g with counts := g.counts.modify (gen - g.cg - 1) fun c => c + 1 } g.s
  else g

/-- An arrival at a pack's ring. -/
def State.arriveRing (s : State) (p n gen : Nat) : State :=
  s.modPack p fun k => { k with rings := k.rings.modify n fun g => g.map fun g => g.arrive gen }

/-- RING_ARRIVAL_COUNT (R245, R274): the row's first arrival whose ring no earlier queued instruction still uses. -/
def execRingArrivalCount (p r : Nat) (s : State) : Result State :=
  if (s.pack p).life ≠ .resident then .next s
  else
    let w := s.row p r
    let ready := fun (x : Arrival) => !(w.vq.any fun e => decide (e.seq < x.seq) && e.inRing x.n)
    match w.ringArr.findIdx? ready with
    | none => .next s
    | some i =>
      match w.ringArr[i]? with
      | none => .next s
      | some x =>
        .next (((s.flushHeld (.control p r)).modRow p r fun w =>
          { w with ringArr := w.ringArr.eraseIdx i }).arriveRing p x.n x.gen)

/-- RING_STALL_END (R244, R245): a thread stalled on a ring may issue again once CG has caught up, or the ring is gone. -/
def execRingStallEnd (p r : Nat) (s : State) : Result State :=
  if !s.rowRuns p r then .next s
  else
    match (s.row p r).thread.waiting with
    | some (.ringStall n need _ _, _) =>
      match (s.pack p).rings.getD n none with
      | none => .next (s.modThread (.control p r) fun t => { t with waiting := none })
      | some g =>
        if need ≤ g.cg then .next (s.modThread (.control p r) fun t => { t with waiting := none }) else .next s
    | _ => .next s

end Sys2Proof.Machine
end

