-- ==== Sys2Proof/Machine/Image.lean ====
section
/-! DEFINITION. Device accesses to a context's virtual memory (R290, R377, R395, R401): pages are translated one by one and
no U bit is asked. -/
namespace Sys2Proof.Machine

/-- Cut bytes at the line boundaries of an address: addresses and pieces. -/
def pageCuts (va : BitVec 64) (b : List (BitVec 8)) : Nat → List (BitVec 64 × List (BitVec 8))
  | 0 => []
  | n + 1 =>
    if b.isEmpty then []
    else
      let room := 64 - va.toNat % 64
      (va, b.take room) :: pageCuts (va + BitVec.ofNat 64 room) (b.drop room) n

/-- Write bytes at a virtual address of a context: a line that cannot be translated or is poisoned is left; none where a line
must wait for version room (R437). -/
def State.imgPut (s : State) (ctx core : Nat) (va : BitVec 64) (b : List (BitVec 8)) : Option State :=
  (pageCuts va b (b.length / 64 + 2)).foldl (fun (acc : Option State) x =>
    match acc with
    | none => none
    | some s =>
      match s.translate ctx (dieOf core) x.1 .write false with
      | .error _ => some s
      | .ok (xl, s') => s'.engineWrite (.other (s.context ctx).part) xl x.2) (some s)

/-- The same, a line that finds no version room being left. -/
def State.imgWrite (s : State) (ctx core : Nat) (va : BitVec 64) (b : List (BitVec 8)) : State :=
  (pageCuts va b (b.length / 64 + 2)).foldl (fun (s : State) x => (s.imgPut ctx core x.1 x.2).getD s) s

/-- The pieces of `n` bytes at a virtual address, cut at pages: address and length. -/
def pagePieces (va : BitVec 64) (n : Nat) : Nat → List (BitVec 64 × Nat)
  | 0 => []
  | f + 1 =>
    if n = 0 then []
    else
      let m := Nat.min n (4096 - va.toNat % 4096)
      (va, m) :: pagePieces (va + BitVec.ofNat 64 m) (n - m) f

/-- Read `n` bytes at a virtual address of a context, the walks setting A (R402); none where some page cannot be read or a line
is poisoned. -/
def State.imgReads (s : State) (ctx core : Nat) (va : BitVec 64) (n : Nat) : Option (List (BitVec 8)) × State :=
  (pagePieces va n (n / 4096 + 2)).foldl (fun (acc : Option (List (BitVec 8)) × State) x =>
    match acc.1, acc.2.translate ctx (dieOf core) x.1 .read false with
    | some b, .ok (xl, s') =>
      if xl.tdev ≠ 0 ∨ ((List.range (x.2 / 64 + 2)).any fun i => decide (64 * i < xl.pa % 64 + x.2) && s'.linePoisoned (xl.pa / 64 + i)) then (none, s')
      else (some (b ++ memBytes s'.mem xl.pa x.2), s')
    | _, _ => (none, acc.2)) (some [], s)
def State.imgRead (s : State) (ctx core : Nat) (va : BitVec 64) (n : Nat) : Option (List (BitVec 8)) :=
  (s.imgReads ctx core va n).1

/-- A word of a context's memory. -/
def State.imgWord (s : State) (ctx core : Nat) (va : BitVec 64) : Option (BitVec 64) × State :=
  let (b, s) := s.imgReads ctx core va 8
  (b.map leWord, s)

/-! ## Layout of a kennel image (R290, R292) -/

/-- A size rounded up to 4 KiB. -/
def pad4k (n : Nat) : Nat := (n + 4095) / 4096 * 4096

/-- Offsets of the rows, rings, latch, held, tiles, scratchpad and strands sections, and the end of the fixed ones: rows,
held transfers, cores, tiles, units. -/
def imgRows : Nat := 4096
def imgRings (r : Nat) : Nat := 4096 + 4096 * r
def imgLatch (r : Nat) : Nat := imgRings r + 4096
def imgHeld (r : Nat) : Nat := imgLatch r + 12288
def imgTiles (r h : Nat) : Nat := imgHeld r + pad4k (128 * h)
def imgSp (r h c t : Nat) : Nat := imgTiles r h + 16384 * (c * t)
def imgStrands (r h c t n : Nat) : Nat := imgSp r h c t + 65536 * (c * n)

/-- The bytes of one row's strand part (R294): full slots or discarded ones, both chains, and the queue records. -/
def strandPartSize (strands : Nat) (discard : Bool) (qcount : Nat) : Nat :=
  pad4k (strands * (if discard then 128 else 1024) + 2 * ((strands + 1) * 64) + 256 * qcount)

/-! ## Ring records (R247, R292) -/

/-- A ring record. -/
def ringRecord : Option Ring → List (BitVec 8)
  | none => List.replicate 128 0
  | some g =>
    let head := [1 + g.s * 256, g.base, g.size, g.parties, g.cg].flatMap fun v => leBytes 8 v
    let counts := (List.range 16).flatMap fun i => leBytes 2 (g.counts.getD i 0)
    head ++ counts ++ List.replicate 56 0

/-- Word at an offset of an image. -/
def imgAt (b : List (BitVec 8)) (off : Nat) : BitVec 64 := leWord ((b.drop off).take 8)

/-- A ring from its record. -/
def ringOfRecord (b : List (BitVec 8)) : Option Ring :=
  let w := imgAt b 0
  if w.getLsbD 0 then
    let st := w.toNat / 2 ^ 8 % 32
    some { base := (imgAt b 8).toNat, s := st, size := (imgAt b 16).toNat, parties := (imgAt b 24).toNat,
           cg := (imgAt b 32).toNat, counts := (List.range st).map fun i => leNat ((b.drop (40 + 2 * i)).take 2) }
  else none

end Sys2Proof.Machine
end

