-- ==== Sys2Proof/Machine/Copy.lean ====
section
/-! DEFINITION. The copy engine (R230–R240, R268): cpgo, the elements of a transfer, its start and its completion. -/
namespace Sys2Proof.Machine

/-! ## cpgo (R233, R234, R268) -/

/-- The copy registers as the control thread captures them (R152, R268). -/
def State.copySeen (s : State) (p r : Nat) : CopyRegs :=
  (List.range 9).foldl (fun c i => c.put (0x20 + i) (s.srSeen p r (0x20 + i))) (s.row p r).copy

/-- Order 1 of R233. -/
def copyBad (c : CopyRegs) (ringCount litter : Nat) : Bool :=
  decide (c.rows = 0 ∨ c.cols = 0) || decide (6 ≤ c.dir) ||
  (decide (c.mfmt ≠ 0) && decide (c.dir = 2 ∨ c.dir = 3 ∨ c.dir = 5)) ||
  (decide (c.mfmt = 2) && decide (c.rows.toNat % 4 ≠ 0 ∨ c.cols.toNat % 4 ≠ 0)) ||
  (decide (c.mfmt = 3) && decide (c.esize ≠ 0)) ||
  (decide (c.rc ≠ 0) && decide (c.dir ≠ 1 ∧ c.dir ≠ 2)) ||
  (c.arr && decide (ringCount ≤ c.aring.toNat)) ||
  (decide (c.dir = 4 ∨ c.dir = 5) && decide (litter < 2))

/-- Orders 2 and 3 of R233 on TL and GATE. -/
def State.timelineCheck (s : State) (t : Agent) (va : BitVec 64) : Except (BitVec 8) (Option Xlate × State) :=
  if va = 0 then .ok (none, s)
  else if !canonical va then .error 0x07
  else
    match s.translateFor t va .readWrite with
    | .error c => .error c
    | .ok (xl, s') => .ok (some xl, s')

/-- The generation of the ring that an address names, 0 where it names none. -/
def Row.genOf (w : Row) (isSp : Bool) (a : BitVec 64) : Nat :=
  match isSp, copyRing a with
  | true, some n => w.gens.getD n 0
  | _, _ => 0

/-- The transfers of a core in flight (R234). -/
def State.inFlight (s : State) (core : Nat) : Nat :=
  (s.copies.filter fun t => decide (t.core = core) && decide (t.life ≠ .done) && decide (t.life ≠ .saved)).length

/-- The identifier after a TID; 0 is skipped (R234). -/
def tidAfter (t : BitVec 32) : BitVec 32 := if t + 1 = 0 then 1 else t + 1

/-- cpgo in a control thread. -/
def cpgoAt (d : BitVec 6) (s : State) (t : Agent) : Res :=
  match t with
  | .strand .. => .trap s 0x04 s.fetch.raw 0
  | .control p r =>
    let s := s.startCommand t
    let c := s.copySeen p r
    let k := s.pack p
    let w := s.row p r
    if copyBad c k.ringCount (recLitter (s.record p)) then trapIll s
    else if decide (c.tl ≠ 0) && misaligned c.tl 8 then trapAt s 0x05 c.tl
    else if decide (c.gate ≠ 0) && misaligned c.gate 8 then trapAt s 0x05 c.gate
    else
      match s.timelineCheck t c.tl with
      | .error e => trapAt s e c.tl
      | .ok (tl, s1) =>
        match s1.timelineCheck t c.gate with
        | .error e => trapAt s1 e c.gate
        | .ok (gate, s2) =>
          if c.arr && (s.ringSeen p r c.aring.toNat).isNone then trapAt s2 0x0C (c.aring.setWidth 64)
          else if 2048 ≤ s.inFlight k.core then .wait s .room
          else
            let tr : Transfer :=
              { pack := p, row := r, core := k.core, tid := w.nextTid, regs := c,
                genSrc := w.genOf (srcIsSp c.dir) c.src, genDst := w.genOf (dstIsSp c.dir) c.dst,
                genArr := if c.arr then w.gens.getD c.aring.toNat 0 else 0, tl := tl, gate := gate,
                user := s.userMode t, life := .held, left := [], cause := none, base := k.base, stageSrc := none,
                stageDst := none, sides := none, reads := [] }
            let s3 := { s2 with copies := s2.copies ++ [tr] }
            lateInt (s3.modRow p r fun w => { w with nextTid := tidAfter w.nextTid }) t d (w.nextTid.setWidth 64)

def execCpgo (d : BitVec 6) (s : State) : Result State := issue (Form.s [d]) noGuard (cpgoAt d) s

/-! ## Where an element lies (R231, R232, R244) -/

/-- Bytes of an element. -/
def CopyRegs.size (c : CopyRegs) : Nat := 2 ^ c.esize.toNat

/-- Whether a transfer packs log6 codes: it performs groups of four codes rather than elements (R232). -/
def CopyRegs.packs (c : CopyRegs) : Bool := decide (c.mfmt = 3 ∧ c.dir = 1)

/-- The pieces of a row of the shape: elements, or groups. -/
def CopyRegs.perRow (c : CopyRegs) : Nat := if c.packs then (c.cols.toNat + 3) / 4 else c.cols.toNat

/-- The memory address of element (r, c) of a side (R232). -/
def memElem (mfmt : Nat) (size stride : Nat) (a : BitVec 64) (r c : Nat) : BitVec 64 :=
  a + BitVec.ofNat 64 (match mfmt with
    | 0 => r * stride + c * size
    | 1 => c * stride + r * size
    | 2 => r / 4 * stride + c / 4 * (16 * size) + (4 * (r % 4) + c % 4) * size
    | _ => r * stride + 3 * (c / 4))

/-- The stage that a ring-relative address resolves to with a generation (R244): its offset in the allocation and its size;
none where the selector names no stage, or the address no ring. -/
def State.copyStage (s : State) (p : Nat) (a : BitVec 64) (gen : Nat) : Option (Nat × Nat) :=
  match copyRing a with
  | none => none
  | some n =>
    match (s.pack p).rings.getD n none with
    | none => none
    | some g =>
      let sel := a.toNat / 2 ^ 24 % 16
      if g.s ≤ sel then none else some (g.base + (gen + sel) % g.s * g.size, g.size)

/-- The place of element (r, c) on a scratchpad side (R223, R232, R244), ring-relative in the stage resolved at the start. -/
def State.copySp (s : State) (t : Transfer) (a : BitVec 64) (stage : Option (Nat × Nat)) (stride r c : Nat) :
    Except (BitVec 8) (Bool × Nat) :=
  let k := s.pack t.pack
  let size := t.regs.size
  let rel := r * stride + c * size
  if (copyRing a).isSome then
    let o := a.toNat % 2 ^ 24 + rel
    if o % size ≠ 0 then .error 0x05
    else
      match stage with
      | none => .error 0x0C
      | some (at_, n) => if n < o + size then .error 0x0C else .ok (false, at_ + o)
  else
    let x := (a + BitVec.ofNat 64 rel).toNat
    let base := t.base.toNat
    if x % size ≠ 0 then .error 0x05
    else if base ≤ x ∧ x + size ≤ base + k.spBytes then .ok (false, x - base)
    else if k.braced ∧ base + 0x300000 ≤ x ∧ x + size ≤ base + 0x300000 + k.spBytes then
      .ok (true, x - 0x300000 - base)
    else .error 0x07

/-- A memory element translated and checked (R237, R401, R404). -/
def State.copyXlate (s : State) (t : Transfer) (va : BitVec 64) (k : AccessKind) : Except (BitVec 8) (Xlate × State) :=
  if !canonical va then .error 0x07
  else s.translateAt t.core (s.pack t.pack).ctx va k t.user

/-! ## Reading and writing one element -/

/-- Read `n` bytes of memory: the head version, and the core's earlier scalar writes (R237, R344). -/
def State.copyLoad (s : State) (t : Transfer) (va : BitVec 64) (n slot : Nat) :
    Access (List (BitVec 8) × Option Nat × State) :=
  match s.copyXlate t va .read with
  | .error c => .error (c, s)
  | .ok (xl, s1) =>
    if xl.tdev ≠ 0 then
      let (v, s2) := s1.remoteRead (s1.pack t.pack).part xl n slot
      .ok (leBytes n v.toNat, none, s2)
    else if s1.poisoned xl then .error (0x0A, s1)
    else
      let s1 := s1.settleAt t.core xl.pa n
      let b := if xl.nc || xl.vers then memBytes s1.mem xl.pa n else s1.seenBytes (.control t.pack t.row) xl.pa n
      .ok (b, some (xl.pa / 64), s1)

/-- Read several single bytes of memory, for a packed group (R232). -/
def State.copyLoads (t : Transfer) (slot : Nat) :
    List (BitVec 64) → State → Access (List (BitVec 8) × List Nat × State)
  | [], s => .ok ([], [], s)
  | va :: l, s =>
    match s.copyLoad t va 1 slot with
    | .error c => .error c
    | .ok (b, line, s1) =>
      match State.copyLoads t (slot + 1) l s1 with
      | .error c => .error c
      | .ok (b2, lines, s2) => .ok (b ++ b2, line.toList ++ lines, s2)

/-- How one piece of a transfer ends: performed, failed with a cause, or waiting for version room (R437). -/
inductive Piece where
  | done (s : State) (lines : List Nat)
  | fail (cause : BitVec 8) (s : State)
  | room

/-- A copy writes bytes that agents have read early: what it leaves there is noted, where it alone has changed them since (R270). -/
def State.noteCopy (s : State) (core : Nat) (hit : Early → Bool) (before after : Early → List (BitVec 8)) : State :=
  if !(s.early.any hit) then s
  else
    { s with early := s.early.map fun e =>
        if !hit e then e
        else
          let alone := match e.after with
            | none => decide (before e = e.bytes)
            | some (c, b) => decide (c = core) && decide (before e = b)
          { e with after := if alone then some (core, after e) else none } }

/-- The early reads of some bytes of memory, and of a side of a pack's scratchpad, that a copy of a core has just written. -/
def State.noteMem (s before : State) (core pa n : Nat) : State :=
  s.noteCopy core (fun e => e.sp.isNone && overlaps e.pa e.bytes.length pa n)
    (fun e => memBytes before.mem e.pa e.bytes.length) fun e => memBytes s.mem e.pa e.bytes.length
def State.noteSp (s before : State) (core q : Nat) (foll : Bool) (off n : Nat) : State :=
  s.noteCopy core (fun e => decide (e.agent.pr.1 = q ∧ e.sp = some foll) && overlaps e.pa e.bytes.length off n)
    (fun e => memBytes (before.side q foll).sp e.pa e.bytes.length) fun e => memBytes (s.side q foll).sp e.pa e.bytes.length

/-- A copy writes bytes of a side of a pack's scratchpad. -/
def State.copySpPut (s : State) (core q : Nat) (foll : Bool) (off : Nat) (b : List (BitVec 8)) : State :=
  (s.modSide q foll fun d => d.store off b).noteSp s core q foll off b.length

/-- Write bytes of one memory element (R237, R414): a poisoned line is not written and recorded. -/
def State.copyStore (s : State) (t : Transfer) (va : BitVec 64) (b : List (BitVec 8)) : Piece :=
  match s.copyXlate t va .write with
  | .error c => .fail c s
  | .ok (xl, s1) =>
    if (s.pack t.pack).ordered && !xl.vers then .fail 0x0D s1
    else if s1.poisoned xl then .done (s1.copyFailed t.pack t.row t.tid 0x0A) []
    else
      let line := xl.pa / 64
      let s1 := s1.settleAt t.core xl.pa b.length
      match s1.engineWrite (.copy t.pack t.row t.tid) xl b with
      | none => .room
      | some s2 =>
        let s2 := s2.noteMem s1 t.core xl.pa b.length
        .done (if t.regs.rc ≠ 0 && xl.countable then s2.setCount line t.regs.rc.toNat else s2) []

/-- Write single bytes of memory in turn. -/
def State.copyStores (t : Transfer) : List (BitVec 64 × BitVec 8) → State → Piece
  | [], s => .done s []
  | x :: l, s =>
    match s.copyStore t x.1 [x.2] with
    | .done s1 _ => State.copyStores t l s1
    | o => o

/-- Whether a pack's multicasts have their connection, on which alone they travel (R372); one to the pack alone needs none. -/
def State.multicastUp (s : State) (p : Nat) : Bool :=
  match s.litterOf p with
  | none => true
  | some (l, m) =>
    decide ((s.litterPacks p).length ≤ 1) ||
    s.conns.any fun c => decide (c.owner = .litter l m (s.pack p).index.toNat) && !c.slots.isEmpty

/-- Deliver bytes at an offset of every pack of the litter (R231, R239): into its scratchpad, into the kennel image of a
saved one, dropped with cause 0x20 for an ended one; none while there is no connection (R372) or an image on a versioned page waits for
room (R437). DESIGN CHOICE: a
pack discarded from its speculation, which is neither placed nor saved nor ended, receives nothing and is no failure (log 137). -/
def State.multicast (s : State) (t : Transfer) (off : Nat) (b : List (BitVec 8)) : Option State :=
  if !s.multicastUp t.pack then none
  else (s.litterPacks t.pack).foldl (fun (acc : Option State) q =>
    match acc with
    | none => none
    | some s =>
      let k := s.pack q
      match k.life with
      | .resident => some (s.copySpPut t.core q false off b)
      | .saved =>
        let at_ := va64 k.kaddr
        match s.imgWord k.ctx k.core (at_ + 0x068) with
        | (some o, s1) => s1.imgPut k.ctx k.core (at_ + o + BitVec.ofNat 64 off) b
        | (none, s1) => some s1
      | .ended => some (s.copyFailed t.pack t.row t.tid 0x20)
      | .waiting => some s) (some s)

/-- The bytes of a source element, the lines read and the state. -/
def State.copySource (s : State) (t : Transfer) (r c : Nat) : Access (List (BitVec 8) × List Nat × State) :=
  let g := t.regs
  if srcIsSp g.dir then
    match s.copySp t g.src t.stageSrc g.sstride.toNat r c with
    | .error e => .error (e, s)
    | .ok (foll, off) =>
      let d := match t.sides with
        | some x => if foll then x.2 else x.1
        | none => s.side t.pack foll
      if d.bad off g.size then .error (0x0A, s) else .ok (memBytes d.sp off g.size, [], s)
  else
    let va := memElem g.mfmt.toNat g.size g.sstride.toNat g.src r c
    let slot := 2000 + r * g.cols.toNat + c
    if g.mfmt = 3 then
      match State.copyLoads t slot [va, va + 1, va + 2] s with
      | .error e => .error e
      | .ok (b, lines, s1) => .ok ([BitVec.ofNat 8 (leNat b / 2 ^ (6 * (c % 4)) % 64)], lines, s1)
    else if misaligned va g.size then .error (0x05, s)
    else
      match s.copyLoad t va g.size slot with
      | .error e => .error e
      | .ok (b, line, s1) => .ok (b, line.toList, s1)

/-- Write a destination element. -/
def State.copyDest (s : State) (t : Transfer) (r c : Nat) (b : List (BitVec 8)) : Piece :=
  let g := t.regs
  if dstIsSp g.dir then
    match s.copySp t g.dst t.stageDst g.dstride.toNat r c with
    | .error e => .fail e s
    | .ok (foll, off) =>
      if (decide (g.dir = 3) && !foll) || (decide (4 ≤ g.dir) && foll) then .fail 0x07 s
      else if 4 ≤ g.dir then
        match s.multicast t off b with
        | some s' => .done s' []
        | none => .room
      else .done (s.copySpPut t.core t.pack foll off b) []
  else
    let va := memElem g.mfmt.toNat g.size g.dstride.toNat g.dst r c
    if misaligned va g.size then .fail 0x05 s else s.copyStore t va b

/-- The codes of a packed group of a row (R32, R232): positions beyond COLS hold 0x10. -/
def State.groupCodes (s : State) (t : Transfer) (r g : Nat) : List Nat → Access (List Nat)
  | [] => .ok []
  | i :: l =>
    if t.regs.cols.toNat ≤ 4 * g + i then (s.groupCodes t r g l).map fun x => 0x10 :: x
    else
      match s.copySource t r (4 * g + i) with
      | .error e => .error e
      | .ok (b, _, _) => (s.groupCodes t r g l).map fun x => (leNat b % 64) :: x

/-- Perform one piece of a transfer. -/
def State.copyPiece (s : State) (t : Transfer) (u : Nat) : Piece :=
  let g := t.regs
  let r := u / g.perRow
  let c := u % g.perRow
  if g.packs then
    match s.groupCodes t r c (List.range 4) with
    | .error e => .fail e.1 e.2
    | .ok codes =>
      let v := codes.foldr (fun x n => x + 64 * n) 0
      let va := memElem 3 1 g.dstride.toNat g.dst r (4 * c)
      State.copyStores t ((leBytes 3 v).mapIdx fun i b => (va + BitVec.ofNat 64 i, b)) s
  else
    match s.copySource t r c with
    | .error e => .fail e.1 e.2
    | .ok (b, lines, s1) =>
      match s1.copyDest t r c b with
      | .done s2 _ => .done s2 lines
      | o => o

/-! ## Passes over a transfer's pieces -/

/-- Perform some pieces in turn: the state, those left for want of version room, the lines read, and the first failure
with the pieces after it. -/
def State.copyRun (t : Transfer) : List Nat → State → State × List Nat × List Nat × Option (BitVec 8 × List Nat)
  | [], s => (s, [], [], none)
  | u :: l, s =>
    match s.copyPiece t u with
    | .fail c s1 => (s1, [], [], some (c, l))
    | .room =>
      let (s1, left, lines, f) := State.copyRun t l s
      (s1, u :: left, lines, f)
    | .done s1 x =>
      let (s2, left, lines, f) := State.copyRun t l s1
      (s2, left, x ++ lines, f)

/-- The rows of a shape read lines: each row counts one read of each distinct line (R415), `seen` those counted before. -/
def State.countRows (s : State) (seen new : List (Nat × Nat)) : State × List (Nat × Nat) :=
  let fresh := (new.filter fun x => !seen.contains x).eraseDups
  (fresh.foldl (fun (s : State) x => s.countRead x.2) s, seen ++ fresh)

/-- Perform some pieces row by row: the state, the pieces left, the rows with the lines they have read, and the first failure. -/
def State.copyRows (t : Transfer) (us : List Nat) :
    List Nat → State → List (Nat × Nat) → State × List Nat × List (Nat × Nat) × Option (BitVec 8)
  | [], s, seen => (s, [], seen, none)
  | r :: rows, s, seen =>
    let (s1, left, lines, f) := State.copyRun t (us.filter fun u => decide (u / t.regs.perRow = r)) s
    let (s2, seen) := s1.countRows seen (lines.map fun l => (r, l))
    match f with
    | some (c, _) => (s2, left, seen, some c)
    | none =>
      let (s3, left2, seen, f2) := State.copyRows t us rows s2 seen
      (s3, left ++ left2, seen, f2)

/-- After a failure, destinations of pieces not performed keep their old value or hold the new one (R237); the rows so read count their lines (R415). -/
def State.copySpill (t : Transfer) (us : List Nat) (seen : List (Nat × Nat)) (s : State) : State × List (Nat × Nat) :=
  let (s, lines) := us.foldl (fun (x : State × List (Nat × Nat)) u =>
    if x.1.pick (7000 + u) 2 = 0 then
      (match x.1.copyPiece t u with
       | .done s' l => (s', x.2 ++ l.map fun y => (u / t.regs.perRow, y))
       | _ => x)
    else x) (s, [])
  s.countRows seen lines

/-- Replace a transfer. -/
def State.setCopy (s : State) (i : Nat) (t : Transfer) : State := { s with copies := s.copies.set i t }

/-- Perform the pieces of a started transfer that a choice names; a failure ends its further work (R235, R237). -/
def State.copyPass (s : State) (i : Nat) (t : Transfer) (now : Nat → Bool) : State :=
  let us := t.left.filter now
  let rest := t.left.filter fun u => !now u
  let rows := (us.map fun u => u / t.regs.perRow).eraseDups
  let (s1, left, seen, f) := State.copyRows t us rows s t.reads
  match f with
  | none => s1.setCopy i { t with left := rest ++ left, reads := seen }
  | some c =>
    let (s2, seen) := State.copySpill t t.left seen s1
    (s2.copyFailed t.pack t.row t.tid c).setCopy i { t with left := [], cause := some c, reads := seen }

/-- The free choice of the pieces performed now: whole rows of the shape while some line is counted. -/
def State.copyNow (s : State) (t : Transfer) (u : Nat) : Bool :=
  decide (s.pick (8000 + (if s.counted.isEmpty then u else u / t.regs.perRow)) 2 = 0)

/-! ## COPY_START and COPY_COMPLETE (R235, R236) -/

/-- What a transfer's gate holds as the engine reads it (R234, R235): what its issuer has done is there (R344). -/
def State.gateValue (s : State) (t : Transfer) (xl : Xlate) : BitVec 64 × State :=
  if xl.tdev ≠ 0 then (Config.freeWord s.nonce 201, s)
  else
    let (b, s) := s.view (.control t.pack t.row) xl 8
    (leWord b, s)

/-- Whether a transfer's gate lies in a window whose session is gone, so that its read is refused (R421, R486). -/
def State.gateLost (s : State) (t : Transfer) : Bool :=
  t.gate.any fun xl => decide (xl.tdev ≠ 0) && !s.hasSession (s.pack t.pack).part xl.tdev

/-- Whether a held transfer may start, and the state: its pack's rows run if it has them, its gate is met or lost and its rings have completed
its generations; a ring that is gone holds nothing. -/
def State.copyReady (s : State) (t : Transfer) : Bool × State :=
  let (met, s) := match t.gate with
    | none => (true, s)
    | some xl =>
      if s.gateLost t then (true, s)
      else
        let (v, s) := s.gateValue t xl
        (decide (t.regs.gval.toNat ≤ v.toNat), s)
  (met && (decide ((s.pack t.pack).life ≠ .resident) || (s.pack t.pack).started) && t.rings.all fun x =>
    match (s.pack t.pack).rings.getD x.1 none with
    | none => true
    | some g => decide (x.2 ≤ g.cg), s)

/-- Why a transfer fails as it starts (R231, R237): a gate that it may not read, a destination of a form that DIR does not allow, or an allocation or ring that
is gone. -/
def State.startFails (s : State) (t : Transfer) : Option (BitVec 8) :=
  let g := t.regs
  let k := s.pack t.pack
  let a := g.dst.toNat
  let b := k.base.toNat
  let own := decide (b ≤ a ∧ a < b + k.spBytes)
  let partner := k.braced && decide (b + 0x300000 ≤ a ∧ a < b + 0x300000 + k.spBytes)
  if s.gateLost t || (k.life = .ended && (srcIsSp g.dir || dstIsSp g.dir)) then some 0x07
  else if t.rings.any fun x => (k.rings.getD x.1 none).isNone then some 0x0C
  else if decide (g.dir = 3) && !partner then some 0x07
  else if decide (4 ≤ g.dir) && !own && (copyRing g.dst).isNone then some 0x07
  else none

/-- COPY_START (R235): a held transfer starts if it may, and performs some of its elements; one that has started performs
more of them. -/
def execCopyStart (i : Nat) (s : State) : Result State :=
  match s.copies[i]? with
  | none => .next s
  | some t =>
    match t.life with
    | .held =>
      let (ready, s) := s.copyReady t
      if !ready then .next s
      else
        match s.startFails t with
        | some c => .next ((s.copyFailed t.pack t.row t.tid c).setCopy i { t with life := .started, cause := some c })
        | none =>
          let t := { t with life := .started, left := List.range (t.regs.rows.toNat * t.regs.perRow),
                            base := (s.pack t.pack).base, stageSrc := s.copyStage t.pack t.regs.src t.genSrc,
                            stageDst := s.copyStage t.pack t.regs.dst t.genDst }
          .next (s.copyPass i t (s.copyNow t))
    | .started => .next (if t.left.isEmpty then s else s.copyPass i t (s.copyNow t))
    | _ => .next s

/-- An arrival at a pack's ring (R236, R245): in the image's record while the pack is saved (R247); none while the image's page, being
versioned, has no room (R437). -/
def State.arriveAny (s : State) (p n gen : Nat) : Option State :=
  let k := s.pack p
  if k.life ≠ .saved then some (s.arriveRing p n gen)
  else
    let at_ := va64 k.kaddr + BitVec.ofNat 64 (imgRings k.rows.length + 128 * n)
    match s.imgReads k.ctx k.core at_ 128 with
    | (some b, s) => s.imgPut k.ctx k.core at_ (ringRecord ((ringOfRecord b).map fun g => g.arrive gen))
    | (none, s) => some s

/-- Perform what is left of a started transfer, and steps 1 and 2 of its completion (R236). -/
def State.copyFinish (s : State) (i : Nat) : State :=
  match s.copies[i]? with
  | none => s
  | some t =>
    if t.life ≠ .started then s
    else
      let s := s.copyPass i t fun _ => true
      match s.copies[i]? with
      | none => s
      | some t =>
        if !t.left.isEmpty then s
        else
          match (if t.regs.arr then s.arriveAny t.pack t.regs.aring.toNat (t.genArr + 1) else some s) with
          | none => s
          | some s => s.setCopy i { t with life := .adding }

/-- Whether an earlier transfer of the same row that names the same TL has still to take step 3 (R236). -/
def State.addBlocked (s : State) (i : Nat) (t : Transfer) : Bool :=
  (s.copies.take i).any fun u =>
    decide (u.pack = t.pack ∧ u.row = t.row ∧ u.regs.tl = t.regs.tl ∧ u.life ≠ .done)

/-- Step 3 of a completion (R236): the addition to TL, at the captured frame (R234), with release at device scope of what its
cpgo released to it (R241). -/
def State.copyAdd (s : State) (i : Nat) : State :=
  match s.copies[i]? with
  | none => s
  | some t =>
    if t.life ≠ .adding then s
    else
      match t.tl with
      | none => s.setCopy i { t with life := .done }
      | some xl =>
        if s.addBlocked i t then s
        else
          match ((s.drainSettled t.core).drainFor (.control t.pack t.row) xl.pa 8).addTimeline (.row t.pack t.row) xl t.regs.inc with
          | none => s
          | some (s1, bad) =>
            let s2 := if bad then s1.machineCheck t.pack t.row (syndrome 8 false 0 xl.pa) 0 else s1
            s2.setCopy i { t with life := .done }

/-- COPY_COMPLETE (R236): what is left is performed, then the completion's steps in order. -/
def execCopyComplete (i : Nat) (s : State) : Result State := .next ((s.copyFinish i).copyAdd i)

end Sys2Proof.Machine
end

