-- ==== Sys2Proof/Machine/Versions.lean ====
section
/-! DEFINITION. Snapshots, transactions, the crumb collector and ordered-speculative packs (R422–R440). -/
namespace Sys2Proof.Machine

/-! ## Snapshots (R426, R429) -/

/-- Whether the table and the partition's share have a free entry. -/
def State.snapRoom (s : State) (part : Nat) : Bool :=
  let share := match s.partOf part with
    | some p => p.snapShare
    | none => 4096
  decide (s.snapshots.length < 4096) &&
  decide ((s.snapshots.filter fun e => decide (e.part = part)).length < share)

/-- Write SNAP, in force after the run (R152, R429). -/
def State.putSnap (s : State) (p r : Nat) (v : BitVec 64) : State :=
  (s.srOwe p r 0x00B (s.srWord p r 0x00B)).modRow p r fun w => { w with snap := v }

def execSnopen (xd : BitVec 5) (s : State) : Result State :=
  issue Form.c noGuard (fun s t =>
    let (p, r) := t.pr
    let k := s.pack p
    if s.snapRoom k.part then
      let v := BitVec.ofNat 64 s.cc
      let e : Snapshot := { time := s.cc, part := k.part, lid := (s.launch k.launch).lid }
      proceed ((({ s with snapshots := s.snapshots ++ [e] } : State).putSnap p r v).setX t xd v)
    else proceed (s.setX t xd 0)) s

/-- Remove the first entry that a test holds of. -/
def dropFirst (f : Snapshot → Bool) : List Snapshot → List Snapshot
  | [] => []
  | e :: l => if f e then l else e :: dropFirst f l

def execSnclose (xd xa : BitVec 5) (s : State) : Result State :=
  issue Form.c noGuard (fun s t =>
    let k := s.pack t.pr.1
    let lid := (s.launch k.launch).lid
    let time := (s.xr t xa).toNat
    let mine := fun (e : Snapshot) => decide (e.time = time ∧ e.part = k.part)
    let own := fun (e : Snapshot) => mine e && decide (e.lid = lid)
    if s.snapshots.any own then proceed (({ s with snapshots := dropFirst own s.snapshots } : State).setX t xd 0)
    else if s.snapshots.any mine then
      proceed (({ s with snapshots := dropFirst mine s.snapshots } : State).setX t xd 0)
    else proceed (s.setX t xd 1)) s

def execSnset (xa : BitVec 5) (s : State) : Result State :=
  issue Form.c noGuard (fun s t => proceed (s.putSnap t.pr.1 t.pr.2 (s.xr t xa))) s

/-! ## Transactions (R431–R436) -/

/-- Whether a row has a vector access or a post still to perform (R434). -/
def Row.accessPending (w : Row) : Bool := (w.vq.any fun x => x.op.loadsPending || x.op.storesPending) || !w.posts.isEmpty

/-- Whether a row stands in a transaction of its own (R431). -/
def State.inTx (s : State) (p r : Nat) : Bool := (s.row p r).tx.isSome

def execTxbegin (xd : BitVec 5) (s : State) : Result State :=
  issue Form.c noGuard (fun s t =>
    let (p, r) := t.pr
    if s.inTx p r || (s.pack p).ospec.isSome then trapIll s
    else if (s.row p r).accessPending then .wait s .room
    else
      let v := BitVec.ofNat 64 s.cc
      let s := (s.drainAgents p fun a => decide (a = t)).forgetAll t
      proceed ((s.modRow p r fun w => { w with tx := some { lines := [], doomed := none }, txstart := v }).setX t xd v)) s

/-- The commit of a transaction's lines (R434): the status, with every line installed at one timestamp on 0. -/
def State.commitTx (s : State) (start : Nat) (t : Tx) : Nat × State :=
  match t.doomed with
  | some st => (st.toNat, s)
  | none =>
    if t.lines.isEmpty then (0, s)
    else if t.lines.any fun x => decide (start < (s.vline x.line).ts) then (1, s)
    else
      let s := t.lines.foldl (fun (s : State) x => s.reclaim x.line) s
      if (t.lines.any fun x => !s.hasRoom x.line) || !s.storeRoom t.lines.length then (3, s)
      else
        let c := s.cc + 1
        let s := t.lines.foldl (fun (s : State) x => s.installHead c x.line (x.over (s.lineBytes x.line))) s
        (0, { s with cc := c })

/-- A transaction is over: its lines are discarded and its start time unregistered. -/
def State.closeTx (s : State) (p r : Nat) : State := s.modRow p r fun w => { w with tx := none, txstart := 0 }

def execTxcommit (xd : BitVec 5) (s : State) : Result State :=
  issue Form.c noGuard (fun s t =>
    let (p, r) := t.pr
    match (s.row p r).tx, (s.pack p).ospec with
    | some tx, none =>
      if (s.row p r).accessPending then .wait s .room
      else
        let s := (s.releaseWrites t 4).forgetAll t
        let (status, s) := s.commitTx (s.row p r).txstart.toNat tx
        proceed ((s.closeTx p r).setX t xd (BitVec.ofNat 64 status))
    | _, _ => trapIll s) s

/-! ## Ordered-speculative packs (R439, R440) -/

/-- Whether every pack of the launch with a lower index has committed or ended. -/
def State.lowerDone (s : State) (p : Nat) : Bool :=
  let k := s.pack p
  s.packs.all fun q => decide (q.launch ≠ k.launch) || decide (k.index ≤ q.index) || decide (q.life = .ended)

/-- What stays of a row whose pack is discarded: it is still a party of its litter's barriers, with its arrivals (R360, R361), and the posts
that it has issued are still to be added (R271). -/
def Row.parted (w : Row) : Row :=
  { Row.none with ap := (w.ap.take 8).map (fun _ => 0) ++ w.ap.drop 8, posts := w.posts.map fun x => { x with seq := 0 } }

/-- A pack that leaves because of the swap takes its place after every waiting pack of its own PRIO (R388). -/
def State.rejoin (s : State) (p : Nat) : State :=
  if (s.pack p).swapping then
    { s with nextOrder := s.nextOrder + 1 }.modPack p fun k => { k with swapping := false, swapped := some s.nextOrder }
  else s

/-- A pack is discarded (R440): nothing of it is kept but its litter arrivals, which are counted (R361), and it waits to
be placed again from ENTRY in the mode given. -/
def State.discardPack (s : State) (p : Nat) (serial waitLower : Bool) : State :=
  let s := (s.rejoin p).modPack p fun k =>
    { k with life := .waiting, lead := Side.empty, foll := Side.empty, rings := List.replicate 8 none, ringEdits := [],
             latch := none, rows := k.rows.map Row.parted, started := false, saved := none,
             ospec := k.ospec.map fun o =>
               { o with serial := serial, waitLower := waitLower, tx := { lines := [], doomed := none } } }
  ({ s with copies := s.copies.map fun t =>
      if t.pack = p ∧ t.life = .held then { t with life := .done } else t } : State).checkBarriers p

/-- The mode of the next placement after a status (R440): serial, and whether it waits for the lower packs. -/
def ospecNext (status : Nat) (lowerOpen : Bool) : Bool × Bool :=
  if status = 1 && lowerOpen then (false, false)
  else if status = 3 then (false, true)
  else (true, true)

def execTxabort (s : State) : Result State :=
  issue Form.c noGuard (fun s t =>
    let (p, r) := t.pr
    match (s.pack p).ospec with
    | some o =>
      if (s.row p r).accessPending then .wait s .room
      else if o.serial then proceed s
      else .hold (s.discardPack p true true)
    | none =>
      if !s.inTx p r then proceed s
      else if (s.row p r).accessPending then .wait s .room
      else proceed (s.closeTx p r)) s

/-- OSPEC_COMMIT (R440): a finished speculative pack commits once its rows' accesses have been performed, as for txcommit (R434), and every
lower pack has committed, or is discarded. -/
def execOspecCommit (p : Nat) (s : State) : Result State :=
  let k := s.pack p
  match k.ospec with
  | none => .next s
  | some o =>
    if k.life ≠ .resident || o.serial || !(k.rows.all fun w => decide (w.life = .ended) && !w.accessPending) || !s.lowerDone p then .next s
    else
      let s := s.drainCore k.core
      let s := if k.braced then s.drainCore (k.core + 1) else s
      let (status, s) := s.commitTx o.start o.tx
      if status = 0 then
        .next ((s.modPack p fun k => { k with ospec := some { o with committed := true } }).endPack p)
      else
        let (serial, wait) := ospecNext status o.lowerOpen
        .next (s.discardPack p serial wait)

/-- CRUMB_RECLAIM (R438): the collector frees the unreachable versions of a line. -/
def execCrumbReclaim (line : Nat) (s : State) : Result State := .next (s.reclaim line)

end Sys2Proof.Machine
end

