-- ==== Sys2Proof/Machine/Queue.lean ====
section
/-! DEFINITION. The head of a row's vector queue executes (R170, R171, R191, R249); the collective reduction xdred (R488–
R491). -/
namespace Sys2Proof.Machine

/-! ## VQUEUE_EXECUTE -/

/-- Whether an instruction uses no VL (R461). -/
def VOp.noVl (op : VOp) : Bool :=
  match op with
  | .mma .. => true
  | .zclr .. => true
  | .zld .. => true
  | .zst .. => true
  | .zrd .. => true
  | .zwr .. => true
  | .zcvt .. => true
  | _ => false

/-- The core-view address of a place in a pack's allocation. -/
def Pack.coreView (k : Pack) (foll : Bool) (off : Nat) : BitVec 64 :=
  BitVec.ofNat 64 (k.base.toNat + off + (if foll then 0x300000 else 0))

/-- The elements a memory instruction performs, lowest first, with their addresses (R461); none for another form. -/
def VOp.performed (op : VOp) (k : Pack) : Option (List (Nat × BitVec 64)) :=
  let mem := fun (l : List ElemAcc) => some (l.map fun x => (x.e, x.va))
  let sp := fun (l : List SpAcc) => some (l.map fun x => (x.e, k.coreView x.follower x.off))
  match op with
  | .load _ _ acc => mem acc
  | .store _ _ acc => mem acc
  | .loadX _ _ acc _ => mem acc
  | .storeX _ acc _ => mem acc
  | .loadSp _ acc => sp acc
  | .storeSp _ acc => sp acc
  | .loadLane _ acc _ => sp acc
  | .storeLane _ acc _ => sp acc
  | _ => none

/-- The elements an entry performs: those it began with, where part of it has been performed already (R287, R437). -/
def State.entryPerformed (s : State) (p : Nat) (x : VEntry) : Option (List (Nat × BitVec 64)) :=
  match x.earlier with
  | some l => some l
  | none => x.op.performed (s.pack p)

/-- What is said of an entry that retires (R461); `s` is the state before it executes. -/
def State.entryRetired (s : State) (p r : Nat) (x : VEntry) : Retired :=
  let k := s.pack p
  if x.op.noVl then
    bareRetired x.pc x.cycle (match x.op with
      | .mma _ _ b _ _ _ _ _ => ((b.map fun t => k.coreView t.place.follower t.place.off).head?).getD 0
      | _ => 0)
  else
    x.ctx.retired (s.row p r) x.guard x.pc x.cycle x.stop (s.entryPerformed p x)

/-- What an entry does when it executes, and what is left of it: a store that still waits for version room stays. -/
def State.runEntry (s : State) (p r : Nat) (x : VEntry) : State × Option VOp :=
  let w := s.row p r
  let c := x.ctx
  let wv := c.wv w.width
  let marks := fun (s : State) (es : List Nat) (stopped : Bool) =>
    s.setStrands p r (markElems (s.row p r).strands wv es stopped)
  match x.op with
  | .load k vd acc => (s.runLoad p r c k vd acc x.checked, none)
  | .store k vd acc =>
    let (s', left) := s.runStore p r c k vd acc
    (s', if left.isEmpty then none else some (.store k vd left))
  | .loadSp vd acc => (s.runLoadSp p r c vd acc x.checked, none)
  | .storeSp vd acc => (s.runStoreSp p r c vd acc, none)
  | .loadX k vd acc stopped => (marks (s.runLoad p r c k vd acc x.checked) (acc.map fun y => y.e) stopped, none)
  | .storeX vd acc stopped =>
    let (s', left) := s.runStore p r c .plain vd acc
    let done := (acc.filter fun y => !(left.any fun z => decide (z.e = y.e))).map fun y => y.e
    if left.isEmpty then (marks s' done stopped, none) else (marks s' done true, some (.storeX vd left stopped))
  | .loadLane vd acc stopped => (marks (s.runLoadSp p r c vd acc x.checked) (acc.map fun y => y.e) stopped, none)
  | .storeLane vd acc stopped => (marks (s.runStoreSp p r c vd acc) (acc.map fun y => y.e) stopped, none)
  | .mma zd va b ta tb keep brace clear => (s.runMma p r zd va b ta tb keep brace clear x.words x.met, none)
  | .zclr zd => (s.runZclr p r c zd x.words.isEmpty (wordsLeft x.words), none)
  | .zld zd b => (s.runZld p r zd b x.words, none)
  | .zst zd b => (s.runTileOut p r zd b x.words x.met fun v => leBytes 4 v.toNat, none)
  | .zrd vd za q => (s.runZrd p r c vd za q x.words x.met, none)
  | .zwr zd va q => (s.runZwr p r c zd va q (wordsLeft x.words), none)
  | .zcvt zd b src tgt =>
    (s.runTileOut p r zd b x.words x.met fun v => leBytes (zcvtSize tgt.toNat) (zcvtWord src.toNat tgt.toNat v), none)
  | .xdred vd va xl op => (s, some (.xdred vd va xl op))
  | .slot => (s, some .slot)
  | op =>
    let (l, fl) := op.compute c x.guard wv w.strands
    ((s.setStrands p r l).raise (.control p r) fl, none)

/-! ## Poisoned strand registers (R296) -/

/-- The register groups and masks that a queued instruction reads element by element, its guard apart. -/
def VSrc.groups : VSrc → List (BitVec 6)
  | .v r => [r]
  | .x _ => []
def VOp.reads (op : VOp) : List (BitVec 6) × List (BitVec 5) :=
  match op with
  | .int _ _ va b => (va :: b.groups, [])
  | .carry _ _ va b _ mm => (va :: b.groups, [mm])
  | .fbin _ _ _ _ _ va vb => ([va, vb], [])
  | .fun1 _ _ _ _ _ va => ([va], [])
  | .fma _ _ _ _ _ va vb vc => ([va, vb, vc], [])
  | .icmp _ _ va b => (va :: b.groups, [])
  | .fcmp _ _ _ va b => (va :: b.groups, [])
  | .mask _ _ ma mb => ([], [ma, mb])
  | .slideUp _ va _ => ([va], [])
  | .slideDown _ va _ => ([va], [])
  | .perm _ va vb => ([va, vb], [])
  | .compress _ va mb => ([va], [mb])
  | .expand _ va mb => ([va], [mb])
  | .conv _ _ _ _ va => ([va], [])
  | .store _ vd _ => ([vd], [])
  | .storeSp vd _ => ([vd], [])
  | .storeX vd _ _ => ([vd], [])
  | .storeLane vd _ _ => ([vd], [])
  | .xdred vd _ _ _ => ([vd], [])
  | _ => ([], [])

/-- The registers whose words a matrix or accumulator instruction reads in every strand: how many from which. -/
def VOp.readsAll (op : VOp) : Nat × BitVec 6 :=
  match op with
  | .mma _ va _ ta _ _ _ _ => (8 * ta.bytes, va)
  | .zwr _ va q => (if q = 4 then 1 else 8, va)
  | _ => (0, 0)

/-- The registers whose words it writes in every strand: how many from which. -/
def VOp.writesAll (op : VOp) : Nat × BitVec 6 :=
  match op with
  | .zrd vd _ q => (if q = 4 then 1 else 8, vd)
  | _ => (0, 0)

/-- Whether a queued instruction uses its registers at element `e`: where the element is active (R57), but where it moves elements to
others, or names its one element. -/
def VOp.uses (op : VOp) (l : List Strand) (wv : Nat) (gd : Guard) (e : Nat) : Bool :=
  match op with
  | .slideUp .. | .slideDown .. | .perm .. | .compress .. | .expand .. => true
  | .ins _ _ i => decide (e = i.toNat)
  | _ => guardedOn l wv gd e

/-- The register groups and masks that a queued instruction writes element by element. -/
def VOp.writes (op : VOp) : List (BitVec 6) × List (BitVec 5) :=
  match op with
  | .int _ vd _ _ => ([vd], [])
  | .carry _ vd _ _ mc _ => ([vd], [mc])
  | .fbin _ _ ex _ vd _ _ => ([vd], [ex.m])
  | .fun1 _ _ ex _ vd _ => ([vd], [ex.m])
  | .fma _ _ ex _ vd _ _ _ => ([vd], [ex.m])
  | .icmp _ md _ _ => ([], [md])
  | .fcmp _ ex md _ _ => ([], [md, ex.m])
  | .mask _ md _ _ => ([], [md])
  | .slideUp vd _ _ => ([vd], [])
  | .slideDown vd _ _ => ([vd], [])
  | .perm vd _ _ => ([vd], [])
  | .bcast vd _ => ([vd], [])
  | .compress vd _ _ => ([vd], [])
  | .expand vd _ _ => ([vd], [])
  | .ins vd _ _ => ([vd], [])
  | .conv _ ex _ vd _ => ([vd], [ex.m])
  | .load _ vd _ => ([vd], [])
  | .loadSp vd _ => ([vd], [])
  | .loadX _ vd _ _ => ([vd], [])
  | .loadLane vd _ _ => ([vd], [])
  | .xdred vd _ _ _ => ([vd], [])
  | _ => ([], [])

/-- The words of some groups and masks in which an element lies: each a strand and a register. -/
def elemRegs (c : VCtx) (wv : Nat) (groups : List (BitVec 6)) (masks : List (BitVec 5)) (e : Nat) : List (Nat × RegName) :=
  (groups.map fun b => let (k, n, _) := elemAt wv c.ew b e; (k, RegName.int n)) ++ masks.map fun m => (e % wv, RegName.pred m)

/-- The lowest element below VL that lies in a poisoned register: of its guard, or, where the element is used, of some groups and masks;
with the strand and the register. -/
def badElem (l : List Strand) (c : VCtx) (wv : Nat) (gd : Guard) (on : Nat → Bool) (groups : List (BitVec 6))
    (masks : List (BitVec 5)) : Option (Nat × Nat × RegName) :=
  if l.all fun t => t.bad.isEmpty then none
  else
    (List.range c.vl).findSome? fun e =>
      let at_ := elemRegs c wv [] [gd.g] e ++ (if on e then elemRegs c wv groups masks e else [])
      (at_.find? fun y => (l.getD y.1 Strand.idle).bad.contains y.2).map fun y => (e, y)

/-- The lowest strand in which one of some registers is poisoned. -/
def badWord (l : List Strand) (n : Nat) (base : BitVec 6) : Option (Nat × Nat × RegName) :=
  (List.range l.length).findSome? fun k =>
    ((List.range n).find? fun m => (l.getD k Strand.idle).bad.contains (.int (base + BitVec.ofNat 6 m))).map fun m =>
      (k, k, .int (base + BitVec.ofNat 6 m))

/-- A number for a register in a syndrome (R297). -/
def RegName.unit : RegName → Nat
  | .int n => n.toNat
  | .pred n => n.toNat

/-- The machine check of a poisoned strand register that a vector instruction consumes (R296, R297). -/
def State.laneCheck (s : State) (p r : Nat) (x : Option (Nat × Nat × RegName)) : State :=
  match x with
  | none => s
  | some (e, k, n) => s.machineCheck p r (syndrome 2 (decide ((s.row p r).width.grant.toNat ≤ k)) n.unit 0) e

/-- The words of the strands' registers that an entry has written. -/
def VEntry.wrote (x : VEntry) (l : List Strand) (wv : Nat) : List (Nat × RegName) :=
  let (g, m) := x.op.writes
  let (n, b) := x.op.writesAll
  ((List.range x.ctx.vl).filter (x.op.uses l wv x.guard)).flatMap (elemRegs x.ctx wv g m) ++
  (List.range l.length).flatMap fun k => (List.range n).map fun i => (k, .int (b + BitVec.ofNat 6 i))

/-- What an entry consumed of the strands' registers as they stood before it, and what it has written, which is poisoned no more. -/
def State.consumeEntry (s : State) (p r : Nat) (x : VEntry) (before : List Strand) : State :=
  if before.all fun t => t.bad.isEmpty then s
  else
    let wv := x.ctx.wv (s.row p r).width
    let (g, m) := x.op.reads
    let (n, b) := x.op.readsAll
    let s := s.laneCheck p r ((badElem before x.ctx wv x.guard (x.op.uses before wv x.guard) g m).or (badWord before n b))
    let fresh := x.wrote before wv
    s.modRow p r fun w =>
      { w with strands := w.strands.mapIdx fun k t => { t with bad := t.bad.filter fun n => !fresh.contains (k, n) } }

/-- Replace a row's queue. -/
def State.setQueue (s : State) (p r : Nat) (l : List VEntry) : State := s.modRow p r fun w => { w with vq := l }

/-- Execute the head of a row's queue where the lanes are free (R191). -/
def State.runHead (s : State) (p r : Nat) : State :=
  match (s.row p r).vq with
  | [] => s
  | x :: l =>
    if !(s.row p r).lanesFree then s
    else
      match s.runEntry p r x with
      | (s', some op) => if op = .slot then s else s'.setQueue p r ({ x with op := op, earlier := s.entryPerformed p x } :: l)
      | (s', none) => ((s'.setQueue p r l).vectorDone p r (s.entryRetired p r x)).consumeEntry p r x (s.row p r).strands

/-- Whether a row's lanes may act: its pack is resident and started. -/
def State.lanesRun (s : State) (p r : Nat) : Bool :=
  decide (p < s.packs.length) && decide (r < (s.pack p).rows.length) && decide ((s.pack p).life = .resident) &&
  (s.pack p).started

/-- Elements of a row's queued loads reach its load buffers while the lanes are free of its strands (R171). -/
def State.land (s : State) (p r : Nat) : State :=
  let w := s.row p r
  if !s.lanesRun p r || !w.lanesFree then s
  else
    let (s, q) := s.landQueue p r w.vq []
    s.setQueue p r q

/-- The instruction at the head of a row's queue applies some of its tile words (R250). -/
def State.headWords (s : State) (p r : Nat) : State :=
  match (s.row p r).vq with
  | [] => s
  | x :: l =>
    if !s.lanesRun p r || !(s.row p r).lanesFree then s
    else
      let (s, x) := s.someWords p r x
      s.setQueue p r (x :: l)

/-- VQUEUE_EXECUTE (R171, R191): data of queued loads arrive, and the head of the queue executes. -/
def execVqueueExecute (p r : Nat) (s : State) : Result State :=
  if !s.lanesRun p r then .next s
  else
    let (s1, vq) := s.landQueue p r (s.row p r).vq []
    .next ((s1.setQueue p r vq).runHead p r)

/-! ## xdred (R488–R491) -/

/-- Whether a type suits an operation (R488). -/
def xdredTypeBad (op : BitVec 4) (c : VCtx) : Bool :=
  decide (8 < op) || (decide (op = 0 ∨ op = 2 ∨ op = 3) && decide (c.ew < 32))

def execXdred (gd : Guard) (vd : BitVec 6) (xa : BitVec 5) (op : BitVec 4) (s : State) : Result State :=
  issue (vForm gd) noGuard (fun s t =>
    let (p, r) := t.pr
    let c := s.vctx p r
    let va := s.xr t xa
    if vqRoom ≤ (s.row p r).vq.length then .hold s
    else if !basesOk c [vd] || xdredTypeBad op c then trapIll s
    else if misaligned va 64 then trapAt s 0x05 va
    else if !canonical va then trapAt s 0x07 va
    else
      match s.translateFor t va .read with
      | .error e => trapAt s e va
      | .ok (xl, s1) =>
        if s1.poisoned xl then trapAt s1 0x0A va
        else proceed ((s1.startCommand t).enqueue p r (.xdred vd va xl op) c gd [] false)) s

/-- The operation of xdred on two present elements (R490). -/
def xdredCombine (op : BitVec 4) (ew a b : Nat) : Nat × Flags :=
  let f := elemFormat ew false
  let i := fun (g : IntFn) => (intElem g ew a b, (0 : Flags))
  if op = 0 then f.bin .add .rne a b
  else if op = 1 then i .add
  else if op = 2 then f.bin .max .rne a b
  else if op = 3 then f.bin .min .rne a b
  else if op = 4 then i .max
  else if op = 5 then i .min
  else if op = 6 then i .and
  else if op = 7 then i .or
  else i .xor

/-- Combine the contributions to one element in position order. -/
def xdredElem (op : BitVec 4) (ew : Nat) (l : List (Option Nat)) : Option Nat × Flags :=
  l.foldl (fun r x =>
    match r.1, x with
    | none, x => (x, r.2)
    | some a, none => (some a, r.2)
    | some a, some b =>
      let (v, fl) := xdredCombine op ew a b
      (some v, r.2 ||| fl)) (none, 0)

/-- The line of a collective descriptor, one read of it (R415): at its home, or over a fabric window (R421). -/
def State.descLine (s : State) (part : Nat) (xl : Xlate) : List (BitVec 8) × State :=
  if xl.tdev ≠ 0 then
    ((List.range 8).flatMap fun i => leBytes 8 (Config.freeWord s.nonce (600 + i)).toNat,
     s.sendRead part xl 64)
  else (memBytes s.mem xl.pa 64, s.countRead (xl.pa / 64))

/-- A word of a descriptor's line. -/
def descWord (b : List (BitVec 8)) (off : Nat) : BitVec 64 := leWord ((b.drop off).take 8)

/-- The strip is over (R489–R491): the sequence number, the first failure, the timeline; none while a write or the addition must
wait (R437). `b` is the descriptor. -/
def State.xdredEnd (s : State) (p r : Nat) (xl : Xlate) (b : List (BitVec 8)) (status : Nat) : Option State :=
  let a := Agent.control p r
  (s.engineWrite (.row p r) { xl with pa := xl.pa + 8 } (leBytes 8 (descWord b 8 + 1).toNat)).bind fun s =>
  (if status ≠ 0 ∧ descWord b 0x20 = 0 then s.engineWrite (.row p r) { xl with pa := xl.pa + 0x20 } (leBytes 8 status) else some s).bind fun s =>
  let tl := descWord b 0x10
  if tl = 0 then some s
  else
    match s.translateFor a tl .readWrite with
    | .error _ => some s
    | .ok (x, s1) =>
      match ((s1.drainFor a x.pa 8).releaseWrites a 5).addTimeline (.row p r) x (descWord b 0x18) with
      | none => none
      | some (s2, bad) => some (if bad then s2.machineCheck p r (syndrome 8 false 0 x.pa) 0 else s2)

/-- The TDEVs of the other positions of a collective (R489). -/
def State.xdredRoutes (s : State) (p : Nat) (va : BitVec 64) (n own : Nat) : List Nat × State :=
  match s.imgReads (s.pack p).ctx (s.pack p).core (va + 64) n with
  | (none, s) => ([], s)
  | (some l, s) => (((List.range n).filter fun i => decide (i ≠ own)).map fun i => (l.getD i 0).toNat, s)

/-- Whether every route of a collective stands (R484, R491). -/
def State.routesUp (s : State) (p : Nat) (l : List Nat) : Bool := l.all fun t => s.hasSession (s.pack p).part t

/-- The head of a queue if it is an xdred that may execute. -/
def State.xdredHead (s : State) (p r : Nat) : Option (VEntry × BitVec 6 × BitVec 64 × Xlate × BitVec 4) :=
  if !s.lanesRun p r || !(s.row p r).lanesFree then none
  else
    match (s.row p r).vq with
    | x :: _ =>
      match x.op with
      | .xdred vd va xl op => some (x, vd, va, xl, op)
      | _ => none
    | [] => none

/-- The type fields a participant must agree on (R489). -/
def VCtx.vtypeCode (c : VCtx) : BitVec 5 :=
  BitVec.ofNat 5 (bitAt c.bs 4 + Nat.log2 c.grp * 4 + Nat.log2 (c.ew / 8))

/-- The strip ends with a status, D as given, and the entry retires. -/
def State.xdredRetire (s : State) (p r : Nat) (x : VEntry) (xl : Xlate) (b : List (BitVec 8)) (status : Nat) : State :=
  match s.xdredEnd p r xl b status with
  | none => s
  | some s' => (s'.setQueue p r (s'.row p r).vq.tail).vectorDone p r (s.entryRetired p r x)

/-- Whether the collective at the head of a row's queue has its connection, on which alone it travels (R372, R373). -/
def State.collectiveUp (s : State) (p r : Nat) (x : VEntry) : Bool :=
  s.conns.any fun c => decide (c.owner = .collective p r x.seq) && !c.slots.isEmpty

/-- XDRED_COMPLETE (R490, R491): every other participant's strip has arrived, over the collective's connection. -/
def execXdredComplete (p r : Nat) (peers : List PeerStrip) (s : State) : Result State :=
  match s.xdredHead p r with
  | none => .next s
  | some (x, vd, va, xl, op) =>
    let s := s.drainSettled (s.pack p).core
    let w := s.row p r
    let c := x.ctx
    let wv := c.wv w.width
    let (b, s1) := s.descLine (s.pack p).part xl
    let n := (descWord b 0).toNat % 2 ^ 16
    let own := (descWord b 0).toNat / 2 ^ 16 % 2 ^ 16
    let there := (List.range n).all fun i => decide (i = own) || decide ((peers.filter fun q => q.pos = i).length = 1)
    if !there || !decide (2 ≤ n ∧ n ≤ 128) || !s.collectiveUp p r x then .next s
    else
    let (routes, s) := s1.xdredRoutes p va n own
    if !s.routesUp p routes then .next (s.xdredRetire p r x xl b 2)
    else if (peers.filter fun q => decide (q.pos < n)).any fun q =>
        decide (q.vl ≠ c.vl ∨ q.vtype ≠ c.vtypeCode ∨ q.op ≠ op) then .next (s.xdredRetire p r x xl b 3)
    else
      let act := activeElems w.strands wv c.vl x.guard
      let mine := fun (e : Nat) => if act.contains e then some (elemGet w.strands wv c.ew vd e) else none
      let theirs := fun (i e : Nat) =>
        match peers.find? fun q => decide (q.pos = i) with
        | none => none
        | some q => ((q.elems.getD e none).map fun v => v.toNat % 2 ^ c.ew)
      let res := (List.range c.vl).map fun e =>
        (e, xdredElem op c.ew ((List.range n).map fun i => if i = own then mine e else theirs i e))
      let put := res.filterMap fun y => if act.contains y.1 then y.2.1.map fun v => (y.1, v) else none
      let fl := res.foldl (fun f y => f ||| y.2.2) (0 : Flags)
      match s.xdredEnd p r xl b 0 with
      | none => .next s
      | some s1 =>
        let s2 := s1.setStrands p r (putElems w.strands wv c.ew vd put)
        let s3 := if own = 0 then s2.raise (.control p r) fl else s2
        .next (((s3.setQueue p r (s3.row p r).vq.tail).vectorDone p r (s.entryRetired p r x)).consumeEntry p r x w.strands)

/-- The cycles of 1 µs at the nominal rate (R2). -/
def cyclesPerUs : Nat := 1050

/-- Whether a strip has not completed within the timeout that its descriptor names, counted from its issue (R489, R491). -/
def VEntry.timedOut (x : VEntry) (now : Nat) (b : List (BitVec 8)) : Bool :=
  let t := (descWord b 0x28).toNat % 2 ^ 32
  decide (x.cycle + cyclesPerUs * (if t = 0 then 1000 else t) ≤ now)

/-- XDRED_TIMEOUT (R491): the strip fails once a route is down or its time is over, D unchanged. DESIGN CHOICE: the time runs from the
instruction's issue, 1,050 cycles to the µs (log 149). -/
def execXdredTimeout (p r : Nat) (s : State) : Result State :=
  match s.xdredHead p r with
  | none => .next s
  | some (x, _, va, xl, _) =>
    let (b, s1) := (s.drainSettled (s.pack p).core).descLine (s.pack p).part xl
    let n := (descWord b 0).toNat % 2 ^ 16
    let own := (descWord b 0).toNat / 2 ^ 16 % 2 ^ 16
    let (routes, s1) := s1.xdredRoutes p va n own
    if !s1.routesUp p routes then .next (s1.xdredRetire p r x xl b 2)
    else if x.timedOut s.cycle b then .next (s1.xdredRetire p r x xl b 1)
    else .next s

end Sys2Proof.Machine
end

