-- ==== Sys2Proof/Machine/Save.lean ====
section
/-! DEFINITION. Pre-emption (R285–R289) and the kennel (R290–R295): the image of a saved pack, the setvl save, the forced
save with its idempotent discard (R116), and what a resume makes of the image. -/
namespace Sys2Proof.Machine

/-! ## Words of a row section (R293) -/

/-- A part that holds no strand data. -/
def RowPart.none : RowPart := { strands := false, discard := false, entry := 0, qcount := 0, at_ := 0 }

/-- The next instruction that a row's control thread has not issued (R287): one past an instruction that waits with its vector-queue
entry. -/
def Row.nextUnissued (w : Row) : BitVec 48 :=
  match w.thread.waiting with
  | some (.slot, f) => f.npc
  | _ => w.thread.pc

/-- Word `i` of the section of row `r` as the row stands; `q` says what its strand part holds. -/
def State.rowWord (s : State) (p r : Nat) (q : RowPart) (i : Nat) : Nat :=
  let w := s.row p r
  if i < 32 then (s.intReg (.control p r) (BitVec.ofNat 6 i)).toNat
  else if i < 64 then (s.predReg (.control p r) (BitVec.ofNat 5 (i - 32))).toNat
  else if i = 64 then w.nextUnissued.toNat
  else if i = 65 then
    bitAt (w.life = .ended) 0 + bitAt w.preempt.park 1 + bitAt q.strands 2 + bitAt q.discard 3
  else if i = 66 then q.entry.toNat
  else if i = 67 then q.qcount
  else if i = 68 then q.at_
  else if 80 ≤ i ∧ i < 88 then w.gens.getD (i - 80) 0
  else if i = 141 then 0
  else if i = 169 then w.nextTid.toNat
  else if 128 ≤ i ∧ i < 192 then s.srNat p r (i - 128)
  else if i = 192 then w.mode.word
  else if 256 ≤ i ∧ i < 384 then (w.strands.getD (i - 256) Strand.idle).md.toNat
  else 0

/-- The mode a saved CMODE or PMODE gives: 2 and 3 keep the old one, as no save is taken in firmware mode (R184, R277). -/
def modeRestored (old : CMode) (n : Nat) : CMode := pmodeWritten old false n

/-- A saved status register applied as a write that RO access does not block (R295). -/
def State.srRestore (s : State) (p r n : Nat) (v : BitVec 64) : State :=
  match n with
  | 0x000 => s.modRow p r fun w =>
      { w with status := { runlong := v.getLsbD 8, saoff := v.getLsbD 7,
                           cmode := modeRestored w.status.cmode (v.toNat / 16 % 4),
                           pmode := modeRestored w.status.pmode (v.toNat / 4 % 4), intrap := v.getLsbD 1 },
               ids := if v.toNat / 2 ^ 12 % 8 = (s.pack p).prio.toNat then tdel w.ids 0
                      else tset w.ids 0 (BitVec.ofNat 64 (v.toNat / 2 ^ 12 % 8)) }
  | 0x001 => s.modRow p r fun w =>
      { w with trap := { w.trap with cause := v.setWidth 8, nest := v.getLsbD 8, mcovf := v.getLsbD 9 } }
  | 0x006 => s.modRow p r fun w => { w with vl := v.setWidth 14 }
  | 0x007 => s.modRow p r fun w =>
      { w with vtype := { bs := v.getLsbD 4, g := (v >>> 2).setWidth 2, ew := v.setWidth 2 } }
  | 0x00C => s.modRow p r fun w => { w with txstart := v }
  | 0x029 => s.modRow p r fun w => { w with nextTid := v.setWidth 32 }
  | 0x02A => s.modRow p r fun w =>
      { w with copyErr := { tid := (v >>> 32).setWidth 32, valid := v.getLsbD 8, cause := v.setWidth 8 } }
  | 0x002 => s.srPut p r n v true false
  | 0x003 => s.srPut p r n v true false
  | 0x004 => s.srPut p r n v true false
  | 0x005 => s.srPut p r n v true false
  | 0x009 => s.srPut p r n v true false
  | 0x00A => s.srPut p r n v true false
  | 0x00B => s.srPut p r n v true false
  | 0x00F => s.srPut p r n v true false
  | 0x030 => s.srPut p r n v true false
  | _ =>
    if n = 0x010 ∨ n = 0x011 ∨ (0x013 ≤ n ∧ n ≤ 0x016) then
      let v' := if n = 0x016 then v &&& 0xFFFFFFFFFFFF else if n = 0x011 then v &&& 0xF else v &&& 0xFFFFFFFF
      if s.srWord p r n = v' then s else s.modRow p r fun w => { w with ids := tset w.ids n v' }
    else if 0x20 ≤ n ∧ n ≤ 0x28 then s.srPut p r n v true false
    else s

/-- A thread given a PC: one that differs drops what the thread had begun. One that waits with a vector-queue entry goes on there once
that instruction has completed. -/
def Thread.movedTo (t : Thread) (pc : BitVec 48) : Thread :=
  match t.waiting with
  | some (.slot, f) => { t with waiting := some (.slot, { f with npc := pc }), line := none }
  | _ => if t.pc = pc then { t with line := none } else Thread.start pc

/-- Apply word `i` of a row section. -/
def State.rowPut (s : State) (p r i : Nat) (v : BitVec 64) : State :=
  if i < 32 then s.putReg (.control p r) (.int (BitVec.ofNat 6 i)) v
  else if i < 64 then s.putReg (.control p r) (.pred (BitVec.ofNat 5 (i - 32))) v
  else if i = 64 then s.modRow p r fun w => { w with thread := w.thread.movedTo (v.setWidth 48) }
  else if i = 65 then s.modRow p r fun w =>
    { w with life := if v.getLsbD 0 then .ended else .live, preempt := { w.preempt with park := v.getLsbD 1 } }
  else if 80 ≤ i ∧ i < 88 then s.modRow p r fun w => { w with gens := w.gens.set (i - 80) v.toNat }
  else if 128 ≤ i ∧ i < 192 then s.srRestore p r (i - 128) v
  else if i = 192 then s.modRow p r fun w =>
    { w with mode := { foreign := v.getLsbD 2, ilkset := v.getLsbD 1, now := v.getLsbD 2 || v.getLsbD 1 } }
  else if 256 ≤ i ∧ i < 384 then s.modStrand p r (i - 256) fun t => { t with md := v }
  else s

/-! ## Words of a strand slot (R294) -/

/-- Word `i` of a full strand slot. -/
def Strand.slotWord (t : Strand) (i : Nat) : Nat :=
  if i = 0 then t.thread.pc.toNat
  else if i = 1 then t.leash.toNat
  else if i = 2 then t.word
  else if 5 ≤ i ∧ i < 68 then (t.g.toList.getD (i - 4) 0).toNat
  else if i = 68 then 2 ^ 64 - 1
  else if 69 ≤ i ∧ i < 100 then (t.p.toList.getD (i - 68) 0).toNat
  else 0

/-- Word `i` of a discarded slot: g1–g7, p1–p3. -/
def Strand.discardWord (t : Strand) (i : Nat) : Nat :=
  if i < 7 then (t.g.toList.getD (i + 1) 0).toNat
  else if i < 10 then (t.p.toList.getD (i - 6) 0).toNat
  else 0

/-- The state that a saved STATE restores (R114, R295): a strand edited into LOCKSTEP or moved while LOCKSTEP is LOOSE, one HELD
away from its leash is LOOSE. -/
def stateRestored (t : Strand) (code : Nat) (pc leash : BitVec 48) : StrandState :=
  match StrandState.ofCode code with
  | .lockstep => if t.state = .lockstep ∧ t.thread.pc = pc then .lockstep else .loose
  | .held => if leash ≠ 0 ∧ leash = pc then .held else .loose
  | x => x

/-- Apply PC, leash and STRANDSTATE of a slot. -/
def Strand.restoreState (t : Strand) (pc leash : BitVec 48) (v : BitVec 64) : Strand :=
  { t with state := stateRestored t (v.toNat % 8) pc leash, leash := leash, thread := t.thread.movedTo pc,
           idem := v.getLsbD 6, qblk := v.getLsbD 5, skip := v.getLsbD 4, pend := v.getLsbD 7,
           cause := (v >>> 8).setWidth 8, fval := (v >>> 16).setWidth 48 }

/-- Apply word `i` of a strand slot beyond its state: a poisoned register that gets another value is poisoned no more (R296). -/
def Strand.slotPut (t : Strand) (i : Nat) (v : BitVec 64) : Strand :=
  if 5 ≤ i ∧ i < 68 then
    { t with g := setReg t.g (i - 4) v,
             bad := if t.g.toList.getD (i - 4) 0 = v then t.bad else t.bad.erase (.int (BitVec.ofNat 6 (i - 4))) }
  else if 69 ≤ i ∧ i < 100 then
    { t with p := setReg t.p (i - 68) v,
             bad := if t.p.toList.getD (i - 68) 0 = v then t.bad else t.bad.erase (.pred (BitVec.ofNat 5 (i - 68))) }
  else t

/-! ## The image (R290–R294) -/

/-- The 8-byte words of a list, padded with zeros to a length. -/
def wordsTo (n : Nat) (l : List Nat) : List (BitVec 8) :=
  let b := l.flatMap fun v => leBytes 8 v
  b ++ List.replicate (n - b.length) 0

def MatType.code : MatType → Nat
  | .bf16 => 0 | .fp16 => 1 | .e4m3 => 2 | .e5m2 => 3 | .i8 => 4 | .log6 => 5

/-- The latch section. -/
def latchSection : Option Latch → List (BitVec 8)
  | none => List.replicate 12288 0
  | some l =>
    let desc := wordsTo 64 [1 + l.va.toNat * 2 ^ 8 + l.ta.code * 2 ^ 16 + bitAt l.brace 24]
    let rows := (List.range 64).flatMap fun i => wordsTo 128 ((l.rows.getD i []).map fun w => w.toNat)
    desc ++ rows ++ List.replicate (12288 - 64 - 8192) 0

/-- A captured translation's word: physical address, VERS, 1 (R234, R292). -/
def xlWord : Option Xlate → Nat
  | none => 0
  | some x => x.pa % 2 ^ 52 + bitAt x.vers 62 + 2 ^ 63

/-- A held-transfer record. -/
def heldRecord (t : Transfer) : List (BitVec 8) :=
  wordsTo 128 (((List.range 9).map fun i => t.regs.word (0x20 + i)) ++
    [t.tid.toNat, t.row, t.genSrc, t.genDst, t.genArr, xlWord t.tl, xlWord t.gate])

/-- A side's tiles and scratchpad as image bytes. -/
def Side.tileImage (d : Side) (tiles : Nat) : List (BitVec 8) :=
  (List.range tiles).flatMap fun z =>
    (List.range 64).flatMap fun i => (List.range 64).flatMap fun j => leBytes 4 (d.accGet z i j).toNat
def Side.spImage (d : Side) (units : Nat) : List (BitVec 8) := memBytes d.sp 0 (65536 * units)

/-- The sides of a pack that hold an allocation: the leader's, and on a brace the follower's. -/
def Pack.sides (k : Pack) : List Side := if k.braced then [k.lead, k.foll] else [k.lead]
def Pack.coreCount (k : Pack) : Nat := if k.braced then 2 else 1

/-- Whether a row's dispatch may be discarded (R116): strands are active, none outside the recorded set. -/
def Row.discardable (w : Row) : Bool :=
  match w.recorded with
  | Option.none => false
  | some d => w.strandsActive && ((List.range w.strands.length).all fun k =>
      d.set.contains k || !(w.strands.getD k Strand.idle).active) && d.set.all fun k =>
      let t := w.strands.getD k Strand.idle
      t.idem && (decide (t.state = .idle) || decide (t.state = .lockstep) || decide (t.state = .loose) ||
        decide (t.state = .held))

/-- The queued instructions and held posts of a row. -/
def Row.queueCount (w : Row) : Nat := w.vq.length + w.posts.length

/-- A row's strand part without its place: strand data only for a row stopped for a forced save. -/
def Row.part (w : Row) (discard : Bool) : RowPart :=
  if !w.stopped then RowPart.none
  else
    let d := discard && w.discardable
    { strands := true, discard := d, entry := if d then (w.recorded.map fun x => x.entry).getD 0 else 0,
      qcount := w.queueCount, at_ := 0 }

/-- The bytes of a row's strand part. -/
def RowPart.bytes (q : RowPart) (strands : Nat) : Nat :=
  if q.strands then strandPartSize strands q.discard q.qcount else 0

/-- Place the strand parts one after another, and the end of the last. -/
def placeParts : List (RowPart × Nat) → Nat → List RowPart × Nat
  | [], at_ => ([], at_)
  | (q, n) :: l, at_ =>
    let (rest, end_) := placeParts l (at_ + q.bytes n)
    ({ q with at_ := if q.strands then at_ else 0 } :: rest, end_)

/-- The transfers of a pack still held (R240). -/
def State.heldOf (s : State) (p : Nat) : List Transfer :=
  s.copies.filter fun t => decide (t.pack = p ∧ t.life = .held)

/-- What a save of a pack now would record. -/
def State.savedNow (s : State) (p : Nat) (forced discard : Bool) : Saved :=
  let k := s.pack p
  let h := (s.heldOf p).length
  let at_ := imgStrands k.rows.length h k.coreCount k.tiles k.units
  let (parts, end_) := placeParts (k.rows.map fun w => (w.part discard, w.strands.length)) at_
  { forced := forced, width := (k.rows.getD 0 Row.none).width, base := k.base, held := h, parts := parts,
    size := end_, tag := s.nonce }

/-- The header words (R292). -/
def State.headerWords (s : State) (p : Nat) (v : Saved) : List Nat :=
  let k := s.pack p
  let r := k.rows.length
  let c := k.coreCount
  let sat := k.lead.sat.toNat + (if k.braced then k.foll.sat.toNat * 2 ^ 16 else 0)
  [1, bitAt v.forced 0 + bitAt k.braced 1, k.packId.toNat,
   (s.launch k.launch).lid.toNat + k.index.toNat * 2 ^ 32,
   r + k.units * 2 ^ 8 + k.tiles * 2 ^ 16 + k.ringCount * 2 ^ 24 + v.held * 2 ^ 32, v.width.word, sat, v.size,
   imgRows, imgRings r, imgLatch r, if v.held = 0 then 0 else imgHeld r, if k.tiles = 0 then 0 else imgTiles r v.held,
   if k.units = 0 then 0 else imgSp r v.held c k.tiles,
   if v.parts.any fun q => q.strands then imgStrands r v.held c k.tiles k.units else 0, 0, v.base.toNat]

/-- A queue-chain link record. -/
def linkRecord (l : List (BitVec 64)) : List (BitVec 8) := wordsTo 64 (l.length :: l.map fun w => w.toNat)

/-- The private bytes of the queue records of row `r` (R294). -/
def queueRecords (tag r n : Nat) : List (BitVec 8) :=
  (List.range (256 * n)).map fun i => Config.queuedRecordByte tag (32768 * r + i)

/-- Word `i` of a link's record, and a link with a word of its record written (R460): the count, or an entry. -/
def linkWord (l : List (BitVec 64)) (i : Nat) : BitVec 64 :=
  if i = 0 then BitVec.ofNat 64 l.length else l.getD (i - 1) 0
def linkPut (l : List (BitVec 64)) (i : Nat) (v : BitVec 64) : List (BitVec 64) :=
  if i = 0 then (l ++ List.replicate 4 0).take (Nat.min 4 v.toNat) else l.set (i - 1) v

/-- A debugger's write of a strand's PC, leash or STATE joins the edits of a release (R460). -/
def debugEdit (x : State × Table StrandEdit) (p r k n : Nat) (v : BitVec 64) : State × Table StrandEdit :=
  (x.1, tset x.2 k (((tget x.2 k).getD StrandEdit.none).put (x.1.strand p r k).state n v))

/-- One debugger's write performed, as the row and its strands stand without it (R460): words of the row's section, those of
STRANDPC to STRANDSTATE going to the strand that STRANDSEL selects, of a strand's slot, of a link's record. -/
def debugPut (p r : Nat) (x : State × Table StrandEdit) : DebugAccess → State × Table StrandEdit
  | .writeRow off v =>
    let i := off / 8
    let k := (x.1.row p r).strandsel.toNat
    if 0x0B1 ≤ i ∧ i ≤ 0x0B3 then
      if k < (x.1.row p r).strands.length then debugEdit x p r k (i - 128) v else x
    else (x.1.rowPut p r i v, x.2)
  | .writeStrand k off v =>
    if off < 24 then debugEdit x p r k (0x031 + off / 8) v
    else (x.1.modStrand p r k fun t => t.slotPut (off / 8) v, x.2)
  | .writeLink q1 j off v => (x.1.modRow p r fun w => w.modLink q1 j fun l => linkPut l (off / 8) v, x.2)
  | _ => x

/-- The row with a debugger's writes performed, and the strand edits among them. -/
def State.debugPuts (s : State) (p r : Nat) : State × Table StrandEdit :=
  (s.row p r).debugWrites.foldl (debugPut p r) (s.modRow p r fun w => { w with debugWrites := [] }, [])

/-- A debugger's writes take effect (R460), in the order of R114. -/
def State.applyWrites (s : State) (p r : Nat) : State :=
  let (s, edits) := s.debugPuts p r
  s.applyTable p r edits

/-- A row's strand part. -/
def Row.partBytes (w : Row) (q : RowPart) (tag r : Nat) : List (BitVec 8) :=
  if !q.strands then []
  else
    let set := (w.recorded.map fun d => d.set).getD []
    let slots := if q.discard then
        (w.strands.mapIdx fun k t =>
          wordsTo 128 (if set.contains k then (List.range 16).map t.discardWord else [])).flatten
      else w.strands.flatMap fun t => wordsTo 1024 ((List.range 128).map t.slotWord)
    let b := slots ++ (w.q0 ++ w.q1).flatMap linkRecord ++ queueRecords tag r q.qcount
    b ++ List.replicate (q.bytes w.strands.length - b.length) 0

/-- The image of a pack (R290). -/
def State.image (s : State) (p : Nat) (v : Saved) : List (BitVec 8) :=
  let k := s.pack p
  let held := (s.heldOf p).flatMap heldRecord
  wordsTo 4096 (s.headerWords p v) ++
  ((List.range k.rows.length).flatMap fun r =>
    wordsTo 4096 ((List.range 512).map (s.rowWord p r (v.parts.getD r RowPart.none)))) ++
  ((k.rings.flatMap ringRecord) ++ List.replicate (4096 - 128 * k.rings.length) 0) ++
  latchSection k.latch ++
  (held ++ List.replicate (pad4k held.length - held.length) 0) ++
  (k.sides.flatMap fun d => d.tileImage k.tiles) ++ (k.sides.flatMap fun d => d.spImage k.units) ++
  (k.rows.mapIdx fun r w => w.partBytes (v.parts.getD r RowPart.none) v.tag r).flatten

/-! ## Saving -/

/-- What a pack keeps beside its image: the rows with what the image does not hold, and the poison marks. -/
def Side.kept (d : Side) : Side :=
  { sp := [], spPoison := d.spPoison, acc := [], accPoison := d.accPoison, sat := 0 }

/-- A queued load whose pack leaves the core: what the load buffers hold is lost, to be fetched anew. -/
def VEntry.unlanded (x : VEntry) : VEntry :=
  match x.op with
  | .load k vd acc => { x with op := .load k vd (acc.map fun y => { y with landed := Option.none, bad := false }) }
  | .loadSp vd acc => { x with op := .loadSp vd (acc.map fun y => { y with landed := Option.none, bad := false }) }
  | _ => x

/-- The wait that a control thread keeps over a forced save (R287): of an instruction that has issued and holds its vector-queue entry;
the substitutes of a matched instruction before its last are begun again (R80). -/
def Thread.slotWait (t : Thread) : Option (Waiting × Fetch) :=
  t.waiting.filter fun x => decide (x.1 = .slot) && (!x.2.sub || x.2.lastSub)

/-- A row whose control thread has abandoned every other wait. -/
def Row.abandoned (w : Row) : Row :=
  let w := if w.thread.slotWait.isSome then w else w.unslotted
  { w with thread := { w.thread with waiting := w.thread.slotWait } }

/-- A row as its pack is saved (R288): its run over, its waits abandoned but for one with a vector-queue entry (R287) and performed stores
of a waiting group (R437), an open transaction without its lines, COPYERR moved into the image. -/
def Row.shelved (w : Row) : Row :=
  let w := w.abandoned
  let calm := fun (t : Thread) =>
    { t with line := Option.none, run := Run.empty, begun := [],
             waiting := t.waiting.filter fun x => decide (x.1 = .stored ∨ x.1 = .slot) }
  { w with thread := calm w.thread, strands := w.strands.map fun t => { t with thread := calm t.thread },
           tx := w.tx.map fun t => { lines := [], doomed := some (t.doomed.getD 1) },
           vq := w.vq.map VEntry.unlanded, copyErr := { tid := 0, valid := false, cause := 0 } }

/-- Whether a transfer writes its own pack's scratchpad (R231, R240). -/
def Transfer.writesOwn (t : Transfer) : Bool := dstIsSp t.regs.dir

/-- The transfers of a pack that have started and write its scratchpad finish (R240). -/
def State.finishCopies (s : State) (p : Nat) : State :=
  (List.range s.copies.length).foldl (fun (s : State) i =>
    if (s.copies[i]?).any fun t => decide (t.pack = p) && t.writesOwn then s.copyFinish i else s) s

/-- Whether such a transfer is still short of finishing, for want of version room. -/
def State.copiesLeft (s : State) (p : Nat) : Bool :=
  s.copies.any fun t => decide (t.pack = p ∧ t.life = .started) && t.writesOwn

/-- The transfers of a pack as it is saved (R240): held ones wait in the image, started ones go on reading the scratchpad as it
was. -/
def State.shelveCopies (s : State) (p : Nat) : State :=
  let k := s.pack p
  { s with copies := s.copies.map fun t =>
      if t.pack ≠ p then t
      else if t.life = .held then { t with life := .saved }
      else if t.life = .started ∧ t.sides = none then { t with sides := some (k.lead, k.foll) }
      else t }

/-- The pending scalar writes of a pack's cores leave their L1s. -/
def State.drainPack (s : State) (p : Nat) : State :=
  let k := s.pack p
  let s := s.drainCore k.core
  if k.braced then s.drainCore (k.core + 1) else s

/-- The loads that a row's threads went past are performed. -/
def State.performRow (s : State) (p r : Nat) : State :=
  (List.range (s.row p r).strands.length).foldl (fun (s : State) k => s.performLates (.strand p r k)) (s.performLates (.control p r))

/-- A thread that stands in a native translation goes on in Adtan: its PC is the Adtan address that the map gives (R452). -/
def Thread.toAdtan (t : Thread) (at_ : BitVec 48 → Option (BitVec 48 × Bool)) : Thread :=
  let wait := t.waiting.map fun x => (x.1, { x.2 with npc := ((at_ x.2.npc).map fun y => y.1).getD x.2.npc })
  match at_ t.pc with
  | some y => { t with pc := y.1, line := none, waiting := wait.filter fun x => decide (x.1 = .slot ∨ x.1 = .stored) }
  | none => { t with waiting := wait }

/-- The threads of a pack leave the native translations they stand in, with the traps they are to return from. -/
def State.packToAdtan (s : State) (p : Nat) : State :=
  s.modPack p fun k => { k with rows := k.rows.map fun w =>
    let c := s.adtanOf k.ctx false
    let back := if w.status.intrap || w.preempt.park then ((c w.trap.pc).map fun y => y.1).getD w.trap.pc else w.trap.pc
    { w with thread := w.thread.toAdtan c, trap := { w.trap with pc := back },
             strands := w.strands.map fun t => { t with thread := t.thread.toAdtan (s.adtanOf k.ctx true) } } }

/-- A pack just before its image is taken: its threads stand at addresses that a later translation keeps, what its threads went past is performed, its cores' pending writes are out, its strands' flags
merged. -/
def State.readied (s : State) (p : Nat) : State :=
  let s := (List.range (s.pack p).rows.length).foldl (fun (s : State) r => s.performRow p r) (s.packToAdtan p)
  let s := s.drainPack p
  (List.range (s.pack p).rows.length).foldl (fun (s : State) r => s.mergeFlags p r) s

/-- The image of a pack as it stands put at KADDR; none while a kennel page that is versioned has no room (R437). -/
def State.putImage (s : State) (p : Nat) (v : Saved) : Option State :=
  let k := s.pack p
  s.imgPut k.ctx k.core (va64 k.kaddr) (s.image p v)

/-- The pack is saved: its image is written, its resources are free, its held transfers wait in the image (R286, R240). -/
def State.savePack (s : State) (p : Nat) (forced discard : Bool) : State :=
  let s1 := s.readied p
  let v := s1.savedNow p forced discard
  match s1.putImage p v with
  | none => s
  | some s2 =>
    (((s2.shelveCopies p).rejoin p).forget fun e => decide (e.agent.pr.1 = p)).modPack p fun k =>
      { k with life := .saved, saved := some v, rows := k.rows.map Row.shelved, lead := k.lead.kept, foll := k.foll.kept,
               started := false }

/-- Whether a row may be saved at setvl, or beside rows stopped for a forced save: parked or ended, with nothing left in its
queue, its post buffer or its uncounted arrivals. -/
def Row.quiet (w : Row) : Bool :=
  (w.preempt.park || decide (w.life = .ended)) && w.vq.isEmpty && w.posts.isEmpty && w.ringArr.isEmpty

/-- SETVL_SAVE (R286): every row is parked or ended and its earlier work is complete. -/
def execSetvlSave (p : Nat) (s : State) : Result State :=
  let k := s.pack p
  if p < s.packs.length ∧ k.life = .resident ∧ k.started ∧ (k.rows.all Row.quiet) ∧
      k.rows.any (fun w => w.preempt.park) then
    let s1 := s.finishCopies p
    if s1.copiesLeft p then .next s1 else .next (s1.savePack p false false)
  else .next s

/-- Whether an instruction of the queue must complete before a forced save (R251, R287, R490). -/
def VOp.mustFinish (op : VOp) : Bool :=
  match op with
  | .mma .. => true
  | .zclr .. => true
  | .zld .. => true
  | .zst .. => true
  | .zrd .. => true
  | .zwr .. => true
  | .zcvt .. => true
  | .xdred .. => true
  | _ => false

/-- Whether a queued store stands half performed (R437). -/
def VEntry.halfStored (x : VEntry) : Bool :=
  match x.op with
  | .store .. => x.earlier.isSome
  | .storeX .. => x.earlier.isSome
  | _ => false

/-- Whether the instruction that a control thread waits in with a vector-queue entry is an mmaff (major 0x51, function 0). -/
def Thread.waitsMmaff (t : Thread) : Bool :=
  (t.slotWait.bind fun (_, f) => f.fields).any fun e => e.op == 0x51 && e.f == 0

/-- Whether a stopped row may be saved (R251, R287): no issued matrix work or post is left, and no store stands half performed; but
where the strands hold the lanes the queue stays, with the posts behind its first instruction. -/
def Row.stoppedQuiet (w : Row) : Bool :=
  w.stopped &&
  (if w.lanesFree then
     (w.vq.all fun x => !x.op.mustFinish && !x.halfStored) && w.posts.isEmpty && !w.thread.waitsMmaff
   else w.posts.all fun x => w.vq.head?.any fun y => decide (y.seq < x.seq))

/-- How many elements at the head of a load have landed. -/
def landedRun (l : List (Option (BitVec 64))) : Nat := (l.takeWhile Option.isSome).length

/-- A load with its first landed elements cut off: what is left of it remembers what it began with (R461) and whether it has raised its
machine check (R297). -/
def State.cutEntry (s : State) (p : Nat) (x : VEntry) (op : VOp) (first : Option Nat) (bad : Bool) : VEntry :=
  { x with op := op, ctx := { x.ctx with vstart := first.getD x.ctx.vl }, earlier := s.entryPerformed p x,
           checked := x.checked || bad }

/-- The in-order load at the head of a stopped row's queue, if it is executing, is cut back to its last landed element group
(R287): the elements before it are written, the rest are fetched after the resume from its own VSTART. DESIGN CHOICE: the size of a
group not being given, it is cut after any number of its leading landed elements (log 139). -/
def State.cutLoad (s : State) (p r : Nat) : State :=
  let w := s.row p r
  match w.vq with
  | [] => s
  | x :: l =>
    if !w.stopped || !w.lanesFree then s
    else
      match x.op with
      | .load k vd acc =>
        let n := s.pick 9207 (landedRun (acc.map fun y => y.landed) + 1)
        if n = 0 then s
        else
          let rest := acc.drop n
          let x' := s.cutEntry p x (.load k vd rest) (rest.head?.map fun y => y.e) ((acc.take n).any fun y => y.bad)
          (s.runLoad p r x.ctx k vd (acc.take n) x.checked).setQueue p r (x' :: l)
      | .loadSp vd acc =>
        let n := s.pick 9207 (landedRun (acc.map fun y => y.landed) + 1)
        if n = 0 then s
        else
          let rest := acc.drop n
          let x' := s.cutEntry p x (.loadSp vd rest) (rest.head?.map fun y => y.e) ((acc.take n).any fun y => y.bad)
          (s.runLoadSp p r x.ctx vd (acc.take n) x.checked).setQueue p r (x' :: l)
      | _ => s

/-- The same for every row of a pack. -/
def State.cutLoads (s : State) (p : Nat) : State :=
  (List.range (s.pack p).rows.length).foldl (fun (s : State) r => s.cutLoad p r) s

/-- A row stops for a forced save (R287): its waits are abandoned, its run ends. -/
def State.stopRow (s : State) (p r : Nat) : State :=
  let w := s.row p r
  if w.preempt.park || decide (w.life = .ended) then s
  else
    let s := s.endRun (.control p r) false
    let s := (List.range w.strands.length).foldl (fun (s : State) k => s.endRun (.strand p r k) false) s
    (s.modRow p r Row.abandoned).modRow p r fun w =>
      { w with stopped := true,
               strands := w.strands.map fun t =>
                 let th := { t.thread with waiting := t.thread.waiting.filter fun x => decide (x.1 = .stored) }
                 { t with thread := th } }

/-- FORCED_SAVE (R287): after a request the rows not parked or ended stop and FORCED is set; once what must complete has, the
pack is saved, idempotent dispatches discarded where `discard` says so (R116). -/
def execForcedSave (p : Nat) (discard : Bool) (s : State) : Result State :=
  let k := s.pack p
  if p < s.packs.length ∧ k.life = .resident ∧ k.started ∧ k.ospec = none ∧ k.rows.any (fun w => w.preempt.req) then
    if !(k.rows.all fun w => w.stopped || w.preempt.park || decide (w.life = .ended)) then
      let s1 := (List.range k.rows.length).foldl (fun (s : State) r => s.stopRow p r) s
      .next (s1.modPack p fun k =>
        { k with rows := k.rows.map fun w => { w with preempt := { w.preempt with forced := true } } })
    else if k.rows.all (fun w => w.stoppedQuiet || w.quiet) && k.rows.any (fun w => w.stopped) then
      let s1 := s.finishCopies p
      if s1.copiesLeft p then .next s1 else .next ((s1.cutLoads p).savePack p true discard)
    else .next s
  else .next s

/-- Whether a core asks its packs to leave: a lane or a unit is marked for retirement, or the core for disable (R168, R226, R392). -/
def State.coreLeaving (s : State) (c : Nat) : Bool :=
  let k := s.core c
  decide (k.retire ≠ 0) || !k.unitsMarked.isEmpty || k.marked || s.routerOut c

/-- PREEMPT_WITHDRAW (R285): the request is withdrawn before the save; parked and stopped rows go on. A request for a core that
retires part of itself stands while it does (R168). -/
def execPreemptWithdraw (p : Nat) (s : State) : Result State :=
  let k := s.pack p
  if k.life = .resident ∧ !s.coreLeaving k.core ∧ !(k.braced && s.coreLeaving (k.core + 1)) then
    .next (s.modPack p fun k => { k with swapping := false, rows := k.rows.map fun w =>
      { w with stopped := false, preempt := { w.preempt with req := false, park := false, forced := false } } })
  else .next s

/-! ## Resuming -/

/-- The latch from its section. -/
def latchOfSection (b : List (BitVec 8)) : Option Latch :=
  let w := imgAt b 0
  if w.getLsbD 0 then
    let ta := matType ((w >>> 16).setWidth 3)
    some { va := (w >>> 8).setWidth 6, ta := ta, brace := w.getLsbD 24,
           rows := (List.range 64).map fun i => (List.range (8 * ta.bytes)).map fun m => imgAt b (64 + 128 * i + 8 * m) }
  else none

/-- A translation from its word: the one captured where it still says the same. -/
def xlOfWord (old : Option Xlate) (w : BitVec 64) : Option Xlate :=
  if !w.getLsbD 63 then none
  else if xlWord old = w.toNat then old
  else some { pa := w.toNat % 2 ^ 52, r := true, w := true, x := false, u := true, vers := w.getLsbD 62, repl := false,
              nc := false, tdev := 0 }

/-- A held transfer from its record (R240). -/
def Transfer.ofRecord (t : Transfer) (core : Nat) (b : List (BitVec 8)) : Transfer :=
  { t with life := .held, core := core, tid := (imgAt b 72).setWidth 32, row := (imgAt b 80).toNat,
           regs := (List.range 9).foldl (fun c i => c.put (0x20 + i) (imgAt b (8 * i))) t.regs,
           genSrc := (imgAt b 88).toNat, genDst := (imgAt b 96).toNat, genArr := (imgAt b 104).toNat,
           tl := xlOfWord t.tl (imgAt b 112), gate := xlOfWord t.gate (imgAt b 120) }

/-- Rebuild the saved transfers of a pack, in order. -/
def restoreCopies (p core : Nat) (b : List (BitVec 8)) : Nat → List Transfer → List Transfer
  | _, [] => []
  | at_, t :: l =>
    if t.pack = p ∧ t.life = .saved then t.ofRecord core (b.drop at_) :: restoreCopies p core b (at_ + 128) l
    else t :: restoreCopies p core b at_ l

/-- A side from its tiles and its scratchpad bytes. -/
def Side.restored (d : Side) (tiles units : Nat) (tb sb : List (BitVec 8)) (sat : BitVec 16) : Side :=
  let d1 := (List.range tiles).foldl (fun (d : Side) z => d.accPuts z ((List.range 4096).map fun i =>
    (i / 64, i % 64, BitVec.ofNat 32 (leNat ((tb.drop (16384 * z + 4 * i)).take 4))))) { d with acc := [] }
  { d1 with sp := memPut [] 0 (sb.take (65536 * units)), sat := sat, accPoison := d.accPoison }

/-- A strand outside a discarded set, whose registers no save kept: they hold free values (R116). -/
def Strand.unkept (t : Strand) (n slot : Nat) : Strand :=
  { t with bad := [], g := Vector.ofFn fun i => Config.freeWord n (slot + i.val),
           p := Vector.ofFn fun i => Config.freeWord n (slot + 64 + i.val) }

/-- A strand of a discarded dispatch's set restarts with its g1–g7 and p1–p3 (R116). -/
def Strand.restart (t : Strand) (entry : BitVec 48) (group : Nat) (g p : Nat → BitVec 64) : Strand :=
  { t with state := .lockstep, leash := 0, idem := true, qblk := false, skip := false, group := group,
           thread := Thread.start entry, bad := [],
           g := Vector.ofFn fun i => if 1 ≤ i.val ∧ i.val < 8 then g i.val else 0,
           p := Vector.ofFn fun i => if 1 ≤ i.val ∧ i.val < 4 then p i.val else 0 }

/-- A link from its record. -/
def linkOfRecord (b : List (BitVec 8)) : List (BitVec 64) :=
  (List.range (Nat.min 4 (imgAt b 0).toNat)).map fun i => imgAt b (8 + 8 * i)

/-- A row's strands and links from its strand part (R294), `b` starting at the part. -/
def Row.strandsRestored (w : Row) (q : RowPart) (b : List (BitVec 8)) (n slot : Nat) : Row :=
  let s := w.strands.length
  let size := if q.discard then 128 else 1024
  let set := (w.recorded.map fun d => d.set).getD []
  let strands := w.strands.mapIdx fun k t =>
    let x := b.drop (size * k)
    if q.discard then
      (if set.contains k then t.restart q.entry w.nextGroup (fun i => imgAt x (8 * (i - 1))) (fun i => imgAt x (8 * (i + 6))) else t.unkept n (slot + 100 * k))
    else
      (List.range 100).foldl (fun t i => t.slotPut i (imgAt x (8 * i)))
        (t.restoreState ((imgAt x 0).setWidth 48) ((imgAt x 8).setWidth 48) (imgAt x 16))
  let links := fun (j : Nat) => (List.range (s + 1)).map fun i => linkOfRecord (b.drop (size * s + 64 * (j * (s + 1) + i)))
  { w with strands := strands, q0 := links 0, q1 := links 1, nextGroup := w.nextGroup + 1 }

/-- A row's strands under a grant where no save kept them (R157): IDLE with clear registers, every link empty. -/
def Row.strandsUnkept (w : Row) (count : Nat) : Row :=
  { w with strands := List.replicate count Strand.idle, nextGroup := 0, recorded := Option.none,
           q0 := List.replicate (count + 1) [], q1 := List.replicate (count + 1) [] }

/-- What placement gives a row afresh on resume (R160, R161, R289, R295, R455, R460). -/
def Row.replaced (w : Row) (width : Width) (haddr : BitVec 48) (right : Bool) (context : Nat) : Row :=
  { w with width := width, haddr := haddr, context := context, stopped := false,
           rowmask := if width.grant = w.width.grant then w.rowmask else BitVec.ofNat 64 (2 ^ width.grant.toNat - 1),
           preempt := { w.preempt with park := false, forced := false, req := false },
           dbg := { halted := w.dbg.halted && right, catch_ := w.dbg.catch_ && right, right := right } }

/-- A parked row goes on at TRAPPC in PMODE with INTRAP clear (R289). -/
def Row.unpark (w : Row) : Row :=
  if w.preempt.park then
    { w with thread := w.thread.movedTo w.trap.pc, status := { w.status with cmode := w.status.pmode, intrap := false } }
  else w

/-- The strand part that a row section of an image describes (R293). -/
def partOfSection (b : List (BitVec 8)) (r : Nat) : RowPart :=
  let at_ := imgRows + 4096 * r
  let flags := imgAt b (at_ + 0x208)
  { strands := flags.getLsbD 2, discard := flags.getLsbD 3, entry := (imgAt b (at_ + 0x210)).setWidth 48,
    qcount := (imgAt b (at_ + 0x218)).toNat % 2 ^ 16, at_ := (imgAt b (at_ + 0x220)).toNat }

/-- Whether an image is refused (R295): its header does not match the launch record and the sizes of its sections, or a queued
instruction's record fails its check. -/
def State.imageBad (s : State) (p : Nat) (v : Saved) (b : List (BitVec 8)) : Bool :=
  let k := s.pack p
  let parts := (List.range k.rows.length).map (partOfSection b)
  let strands := fun (r : Nat) => (k.rows.getD r Row.none).strands.length
  let start := imgStrands k.rows.length v.held k.coreCount k.tiles k.units
  let end_ := (placeParts (parts.mapIdx fun r q => (q, strands r)) start).2
  let want := s.headerWords p { v with parts := parts, size := end_ }
  !((List.range 17).all fun i => decide (i = 6) || decide ((imgAt b (8 * i)).toNat = want.getD i 0)) ||
  !((List.range k.rows.length).all fun r =>
      let q := parts.getD r RowPart.none
      let recs := q.at_ + strands r * (if q.discard then 128 else 1024) + 2 * ((strands r + 1) * 64)
      !q.strands || decide ((b.drop recs).take (256 * q.qcount) = queueRecords v.tag r q.qcount))

/-- One row resumed from the image. -/
def State.resumeRow (s : State) (p r : Nat) (b : List (BitVec 8)) (width : Width) (context : Nat) : State :=
  let k := s.pack p
  let c := s.context k.ctx
  let q := partOfSection b r
  let old := s.row p r
  let s := s.modRow p r fun w =>
    if q.strands then w.strandsRestored q (b.drop q.at_) s.nonce (20000 * r)
    else w.strandsUnkept (width.grant.toNat * k.coreCount)
  let s := (List.range 512).foldl (fun (s : State) i => s.rowPut p r i (imgAt b (imgRows + 4096 * r + 8 * i))) s
  let s := s.modRow p r fun w =>
    ({ w with vq := w.vq.take q.qcount, posts := w.posts.take (q.qcount - w.vq.length),
              copyErr := if !w.copyErr.valid && old.copyErr.valid then old.copyErr else w.copyErr }).unpark.replaced
      width c.haddr c.debugRight context
  let s := s.modRow p r fun w =>
    { w with bad := old.bad.filter fun n => decide (s.regNow (.control p r) n = (match n with
        | .int i => old.x.toList.getD i.toNat 0
        | .pred i => old.p.toList.getD i.toNat 0)) }
  let s := s.modRow p r fun w =>
    { w with tx := if w.txstart = 0 ∨ w.life = .ended then none else some { lines := [], doomed := some 1 } }
  let s := if (s.row p r).dbg.halted || (s.row p r).debugWrites.isEmpty then s else s.applyWrites p r
  let s := if (s.row p r).status.intrap then s else s.releaseAll p r
  (List.range (s.row p r).strands.length).foldl (fun (s : State) i => s.sampleStrand p r i) s

/-- A saved pack resumes on a core with a base, a width and row contexts (R159, R225, R229, R289, R295): none where its image
is refused. -/
def State.resumePack (s : State) (p core : Nat) (base : BitVec 22) (width : Width) (contexts : List Nat) : Option State :=
  let k := s.pack p
  match k.saved with
  | none => none
  | some v =>
    match s.imgReads k.ctx core (va64 k.kaddr) v.size with
    | (none, _) => none
    | (some b, s) =>
      if s.imageBad p v b then none
      else
        let r := k.rows.length
        let c := k.coreCount
        let sat := imgAt b 0x30
        let tiles := b.drop (imgTiles r v.held)
        let sp := b.drop (imgSp r v.held c k.tiles)
        let s1 := s.modPack p fun k =>
          { k with life := .resident, core := core, base := base,
                   rings := (List.range 8).map fun n => ringOfRecord (b.drop (imgRings r + 128 * n)),
                   latch := latchOfSection (b.drop (imgLatch r)),
                   lead := k.lead.restored k.tiles k.units tiles sp (sat.setWidth 16),
                   foll := if k.braced then
                       k.foll.restored k.tiles k.units (tiles.drop (16384 * k.tiles)) (sp.drop (65536 * k.units))
                         ((sat >>> 16).setWidth 16)
                     else k.foll }
        let s2 := (List.range r).foldl (fun (s : State) i => s.resumeRow p i b width (contexts.getD i 0)) s1
        some { s2 with copies := restoreCopies p core b (imgHeld r) s2.copies }

end Sys2Proof.Machine
end

