-- ==== Sys2Proof/Machine/Die.lean ====
section
/-! DEFINITION. The die and the front end (R368–R393): launch records and queues, the launch instruction, the order of
waiting packs, the fit of a pack, placement and resumption, litters, pre-emption requests, the swap, and the end of
launches. -/
namespace Sys2Proof.Machine

/-! ## Queues and records (R375–R378) -/

/-- The descriptor of a queue as the front end last read it. -/
def Context.queue (c : Context) (q : Nat) : QueueDesc :=
  c.queues.getD q { base := 0, owner := false, enable := false, log2 := 0 }

/-- The physical address of a queue's descriptor (R377, R481). -/
def Context.descAt (c : Context) (q : Nat) : Nat := c.block + 0x800 + 32 * q

/-- Whether the front end reads a queue (R377). -/
def QueueDesc.live (d : QueueDesc) : Bool := d.enable && decide (4 ≤ d.log2 ∧ d.log2 ≤ 16)

/-- The virtual address of record `i` of a queue (R377). -/
def QueueDesc.slotAt (d : QueueDesc) (i : Nat) : BitVec 64 := BitVec.ofNat 64 (d.base + 128 * (i % 2 ^ d.log2))

/-- A die whose nearest copy of a replicated page is the front end's (IO die 0, R418). -/
def frontDie : Nat := 1

/-- A 64-bit word of physical memory. -/
def State.physWord (s : State) (pa : Nat) : Nat := leNat (memBytes s.mem pa 8)

/-- WRIDX and RDIDX of a queue. -/
def State.wrIdx (s : State) (c : Context) (q : Nat) : Nat := s.physWord (c.descAt q + 0x10)
def State.rdIdx (s : State) (c : Context) (q : Nat) : Nat := s.physWord (c.descAt q + 0x18)

/-- Set WRIDX or RDIDX, at an offset of the descriptor. -/
def State.putIdx (s : State) (c : Context) (q off v : Nat) : State :=
  s.writeMem (c.descAt q + off) (leBytes 8 v)

/-- The next launch identifier (R380): 0 is skipped. -/
def lidAfter (l : BitVec 32) : BitVec 32 := if l + 1 = 0 then 1 else l + 1

/-- Fields of a record (R375). -/
def recEntry (r : Record) : Nat := (recWord r 0).toNat % 2 ^ 48
def recPacks (r : Record) : Nat := (recWord r 3).toNat % 2 ^ 32
def recRows (r : Record) : Nat := (recWord r 3).toNat / 2 ^ 32 % 32
def recWreq (r : Record) : Nat := (recWord r 3).toNat / 2 ^ 40 % 4
def recBrace (r : Record) : Bool := (recWord r 3).getLsbD 48
def recOspec (r : Record) : Bool := (recWord r 3).getLsbD 49
def recSpBytes (r : Record) : Nat := (recWord r 4).toNat % 2 ^ 22
def recTiles (r : Record) : Nat := (recWord r 4).toNat / 2 ^ 24 % 32
def recRings (r : Record) : Nat := (recWord r 4).toNat / 2 ^ 32 % 16
def recPrio (r : Record) : Nat := (recWord r 4).toNat / 2 ^ 40 % 8
def recQueue (r : Record) : Nat := (recWord r 4).toNat / 2 ^ 48 % 64
def recWidth (r : Record) : Nat := 16 * 2 ^ recWreq r
def recUnits (r : Record) : Nat := (recSpBytes r + 65535) / 65536

/-- Why a record is refused (R376). -/
def recordBad (r : Record) : Bool :=
  let w := fun i => (recWord r i).toNat
  decide (w 0 / 2 ^ 48 ≠ 0 ∨ w 1 / 2 ^ 48 ≠ 0) ||
  decide (w 3 / 2 ^ 50 % 64 ≠ 0 ∨ w 3 / 2 ^ 42 % 64 ≠ 0 ∨ w 3 / 2 ^ 37 % 8 ≠ 0) ||
  decide (w 4 / 2 ^ 54 ≠ 0 ∨ w 4 / 2 ^ 43 % 32 ≠ 0 ∨ w 4 / 2 ^ 36 % 16 ≠ 0 ∨ w 4 / 2 ^ 29 % 8 ≠ 0 ∨ w 4 / 2 ^ 22 % 4 ≠ 0) ||
  decide (w 10 ≠ 0 ∨ w 11 ≠ 0 ∨ w 12 ≠ 0 ∨ w 13 ≠ 0 ∨ w 14 ≠ 0) || decide (w 15 / 2 ^ 32 % 2 ^ 31 ≠ 0) ||
  decide (recEntry r = 0 ∨ recWreq r = 3 ∨ recRows r = 0 ∨ 8 < recRows r ∨ recPacks r = 0) ||
  decide (16 < recTiles r ∨ 8 < recRings r ∨ 0x300000 < recSpBytes r) ||
  decide (w 5 % 8 ≠ 0 ∨ w 7 % 8 ≠ 0 ∨ w 9 % 32 ≠ 0)

/-! ## launch (R379, R380) -/

/-- The 16 words of the record at a translation, each of its two lines counted read once. -/
def State.readRecord (s : State) (t : Agent) (xl : Xlate) : Record × State :=
  let words := (List.range 16).map fun i => (s.loadPlain t { xl with pa := xl.pa + 8 * i } 8).1
  let s1 := if xl.tdev ≠ 0 then s.sendRead (s.pack t.pr.1).part xl 128
    else (s.countRead (xl.pa / 64)).countRead (xl.pa / 64 + 1)
  (words, s1)

/-- Whether either line of a 128-byte record is poisoned, for a read of a thread. -/
def State.recordPoisoned (s : State) (t : Agent) (xl : Xlate) : Bool :=
  s.readPoisoned t xl none || s.readPoisoned t { xl with pa := xl.pa + 64 } none

/-- Write the two lines of a record, VALID with the second; none when version room is wanting. -/
def State.writeSlot (s : State) (by_ : Sender) (xl : Xlate) (r : Record) : Option State :=
  let b := r.flatMap fun w => leBytes 8 w.toNat
  match s.engineWrite by_ xl (b.take 64) with
  | none => none
  | some s1 => s1.engineWrite by_ { xl with pa := xl.pa + 64 } (b.drop 64)

/-- The record as launch places it: LID and VALID in its last word. -/
def stampRecord (r : Record) (lid : BitVec 32) : Record :=
  r.set 15 ((recWord r 15 &&& ~~~0x80000000FFFFFFFF) ||| 0x8000000000000000 ||| lid.setWidth 64)

/-- Orders 7 and 8 of R379, which perform nothing (`s0`), and the reservation, once the record has been read. -/
def launchInto (xd : BitVec 5) (va : BitVec 64) (rec_ : Record) (s0 s : State) (t : Agent) : Res :=
  let (p, _) := t.pr
  let c := s.context (s.pack p).ctx
  let q := recQueue rec_
  let d := c.queue q
  let i := s.wrIdx c q
  if !d.owner then trapAt s0 0x07 va
  else if !d.live || decide (2 ^ d.log2 ≤ (i + 2 ^ 64 - s.rdIdx c q) % 2 ^ 64) then proceed (s.setX t xd 0)
  else
    let slot := d.slotAt i
    match s.writeCheck t slot 8 with
    | .error (e, s1) => trapAt s1 e slot
    | .ok (xl, s1) =>
      if s1.poisoned { xl with pa := xl.pa + 64 } then trapAt s1 0x0A slot
      else
        let s2 := s1.releaseWrites t 4
        let lid := s2.nextLid
        match (s2.putIdx c q 0x10 ((i + 1) % 2 ^ 64)).writeSlot (.row t.pr.1 t.pr.2) xl (stampRecord rec_ lid) with
        | none => .wait s0 .room
        | some s3 => proceed ({ s3 with nextLid := lidAfter lid }.setX t xd (lid.setWidth 64))

def execLaunch (xd xa : BitVec 5) (s : State) : Result State :=
  issue Form.c noGuard (fun s t =>
    let va := s.xr t xa
    if misaligned va 128 then trapAt s 0x05 va
    else if !canonical va then trapAt s 0x07 va
    else
      match s.translateFor t va .read with
      | .error e => trapAt s e va
      | .ok (xl, s1) =>
        if s1.recordPoisoned t xl then trapAt s1 0x0A va
        else if (s.pack t.pr.1).ospec.isSome then trapAt s1 0x0D va
        else
          let (rec_, s2) := (s1.forgetAt t xl.pa 128).readRecord t xl
          launchInto xd va rec_ s1 s2 t) s

/-! ## LAUNCH_RECORD_TAKE and LAUNCH_SELECT (R376, R378, R381) -/

/-- A launch as taken: the executive may have ended it already (R389). -/
def State.takeLaunch (s : State) (ctx q : Nat) (lid : BitVec 32) (r : Record) (refused : Bool) : State :=
  let cut := !refused && s.pendingEnd.contains (ctx, lid)
  let l : Launch :=
    { ctx := ctx, lid := lid, rec_ := r, queue := q, order := s.nextOrder, nextPack := 0, ended := 0, fails := [], litterCp := [],
      cut := if cut then recPacks r else 0, refused := refused, completed := false }
  { s with launches := s.launches ++ [l], nextOrder := s.nextOrder + 1,
           pendingEnd := s.pendingEnd.filter fun x => decide (x ≠ (ctx, lid)) }

/-- Whether a context's partition runs (R476). -/
def State.ctxRuns (s : State) (ctx : Nat) : Bool :=
  match s.ctxOf ctx with
  | none => false
  | some c => (s.partOf c.part).any fun p => decide (p.tdisp = .run)

/-- LAUNCH_RECORD_TAKE (R378): the next record of a queue, once VALID is observed; LID and RDIDX are written. DESIGN CHOICE: a record that
is refused completes with code 3 also where a LAUNCH_END waits for it (log 143). -/
def execLaunchRecordTake (ctx q : Nat) (s : State) : Result State :=
  let c := s.context ctx
  let d := c.queue q
  if !s.ctxRuns ctx || !d.live || (s.heads.any fun h => decide (h.ctx = ctx ∧ h.q = q)) then .next s
  else
    let i := s.rdIdx c q
    match s.translate ctx frontDie (d.slotAt i) .readWrite false with
    | .error _ => .next s
    | .ok (xl, s1) =>
      if xl.tdev ≠ 0 || s1.poisoned xl || s1.poisoned { xl with pa := xl.pa + 64 } then .next s
      else
        let r : Record := (List.range 16).map fun j => leWord (memBytes s1.mem (xl.pa + 8 * j) 8)
        let w := recWord r 15
        if !w.getLsbD 63 then .next s
        else
          let given := w.setWidth 32
          let lid := if given = 0 then s1.nextLid else given
          let s2 := if given = 0 then { s1 with nextLid := lidAfter lid } else s1
          let w' := (w &&& 0x7FFFFFFF00000000) ||| lid.setWidth 64
          match s2.engineWrite (.other c.part) { xl with pa := xl.pa + 120 } (leBytes 8 w'.toNat) with
          | none => .next s
          | some s3 =>
            let s4 := s3.putIdx c q 0x18 ((i + 1) % 2 ^ 64)
            let r' := r.set 15 w'
            if recordBad r' then .next (s4.takeLaunch ctx q lid r' true)
            else if s4.pendingEnd.contains (ctx, lid) then .next (s4.takeLaunch ctx q lid r' false)
            else .next { s4 with heads := s4.heads ++ [{ ctx := ctx, q := q, rec_ := r', lid := lid }] }

/-- How a head's gate stands (R381): unreadable, or met or not. -/
def State.gateOf (s : State) (h : Head) : Option Bool :=
  let va := recWord h.rec_ 5
  if va = 0 then some true
  else if !canonical va then none
  else
    match s.translate h.ctx frontDie va .read false with
    | .error _ => none
    | .ok (xl, _) =>
      if s.poisoned xl then none
      else
        let v := if xl.tdev ≠ 0 then (Config.freeWord s.nonce 201).toNat else s.physWord xl.pa
        some (decide ((recWord h.rec_ 6).toNat ≤ v))

/-- A number for a head that puts its queue behind the one last served at its priority. -/
def State.headTurn (s : State) (h : Head) : Nat :=
  let k := 64 * h.ctx + h.q
  match tget s.served (recPrio h.rec_) with
  | none => k
  | some (c, q) => (k + 2 ^ 32 - (64 * c + q) - 1) % 2 ^ 32

/-- Whether one head goes before another. -/
def State.headBefore (s : State) (a b : Head) : Bool :=
  decide (recPrio a.rec_ < recPrio b.rec_) ||
  (decide (recPrio a.rec_ = recPrio b.rec_) && decide (s.headTurn a < s.headTurn b))

/-- The best element of a list under a strict order. -/
def bestOf {α : Type} (before : α → α → Bool) : List α → Option α
  | [] => none
  | x :: l =>
    match bestOf before l with
    | none => some x
    | some y => if before y x then some y else some x

/-! ## What a pack needs, and where it fits (R158, R224, R383) -/

/-- What a pack asks of a core or brace; `fixed` is the grant and base of a forced save (R159). -/
structure Need where
  ctx : Nat
  rows : Nat
  units : Nat
  tiles : Nat
  braced : Bool
  req : Nat
  fixed : Option (Nat × Nat)
  deriving DecidableEq, Repr

/-- The need of a record's packs. -/
def needOf (ctx : Nat) (r : Record) : Need :=
  { ctx := ctx, rows := recRows r, units := recUnits r, tiles := recTiles r, braced := recBrace r, req := recWidth r,
    fixed := none }

/-- The resident packs of a core but for some. -/
def State.residents (s : State) (c : Nat) (gone : List Nat) : List Nat :=
  (List.range s.packs.length).filter fun p => (s.pack p).on c && !gone.contains p

/-- Healthy lanes of a LANEMAP value (R166). -/
def laneCount (m : BitVec 32) : Nat := ((List.range 32).filter fun i => m.getLsbD i).length

/-- Whether a core takes new packs (R158, R168, R226, R392); with `later`, whether it will once it has quiesced. -/
def State.coreTakes (s : State) (later : Bool) (c : Nat) : Bool :=
  let k := s.core c
  decide (c < 256) && !k.disabled && !k.marked && !s.routerOut c &&
  (if later then decide (8 ≤ laneCount (k.healthy &&& ~~~k.retire))
   else decide (k.retire = 0) && k.unitsMarked.isEmpty && decide (8 ≤ laneCount k.healthy))

/-- Whether a scratchpad unit of a core is free and in service. -/
def State.unitFree (s : State) (later : Bool) (gone : List Nat) (c u : Nat) : Bool :=
  let k := s.core c
  !k.unitsOut.contains u && !(later && k.unitsMarked.contains u) &&
  (s.residents c gone).all fun p =>
    let b := (s.pack p).base.toNat / 65536
    !(decide (b ≤ u) && decide (u < b + (s.pack p).units))

/-- Whether a row context of a core is free. -/
def State.contextFree (s : State) (gone : List Nat) (c x : Nat) : Bool :=
  (s.residents c gone).all fun p => (s.pack p).rows.all fun w => decide (w.context ≠ x)

/-- The cores a pack takes when its first is `c`. -/
def Need.cores (n : Need) (c : Nat) : List Nat := if n.braced then [c, c + 1] else [c]

/-- The width a core or brace grants (R158). -/
def State.grantAt (s : State) (n : Need) (c : Nat) : Nat :=
  (n.cores c).foldl (fun g x => Nat.min g (2 * laneCount (s.core x).healthy)) n.req

/-- The lowest base, in units, at which an allocation fits (R224). -/
def State.baseAt (s : State) (later : Bool) (gone : List Nat) (n : Need) (c : Nat) : Option Nat :=
  let ok := fun (b : Nat) => decide (b + n.units ≤ 48) &&
    (List.range n.units).all fun u => (n.cores c).all fun x => s.unitFree later gone x (b + u)
  match n.fixed with
  | some (_, b) => if n.units = 0 || ok b then some b else none
  | none => if n.units = 0 then some 0 else (List.range 48).find? ok

/-- The row contexts free on every core the pack takes. -/
def State.contextsAt (s : State) (gone : List Nat) (n : Need) (c : Nat) : List Nat :=
  (List.range 8).filter fun x => (n.cores c).all fun y => s.contextFree gone y x

/-- Where a pack goes on a core or brace: its row contexts and its base in units (R383). -/
def State.fitAt (s : State) (later : Bool) (gone : List Nat) (n : Need) (c : Nat) : Option (List Nat × Nat) :=
  let free := s.contextsAt gone n c
  let tiles := fun (x : Nat) => (s.residents x gone).foldl (fun t p => t + (s.pack p).tiles) 0
  if (n.braced && decide (c % 2 = 1)) || !((n.cores c).all (s.coreTakes later)) then none
  else if decide (free.length < n.rows) || !((n.cores c).all fun x => decide (tiles x + n.tiles ≤ 16)) then none
  else if n.fixed.any fun x => decide (x.1 ≠ s.grantAt n c) then none
  else (s.baseAt later gone n c).map fun b => (free.take n.rows, b)

/-- The free row contexts of a core. DESIGN CHOICE: a core that takes no pack counts none (log 142). -/
def State.freeContexts (s : State) (c : Nat) : Nat :=
  if s.coreTakes false c then ((List.range 8).filter (s.contextFree [] c)).length else 0

/-- The free row contexts of a die. -/
def State.dieFree (s : State) (d : Nat) : Nat := (List.range 32).foldl (fun n i => n + s.freeContexts (32 * d + i)) 0

/-- Whether one fitting core is chosen before another (R383): the die with the most free row contexts, then the lowest; on it
the core or brace likewise. -/
def State.coreBefore (s : State) (n : Need) (a b : Nat) : Bool :=
  let free := fun (c : Nat) => (n.cores c).foldl (fun t x => t + s.freeContexts x) 0
  let da := s.dieFree (dieOf a)
  let db := s.dieFree (dieOf b)
  if dieOf a ≠ dieOf b then decide (db < da) || (decide (da = db) && decide (dieOf a < dieOf b))
  else decide (free b < free a) || (decide (free a = free b) && decide (a < b))

/-- The core or brace chosen, with the row contexts and the base (R383). -/
def State.chooseFit (s : State) (n : Need) : Option (Nat × List Nat × Nat) :=
  let fits := (List.range 256).filter fun c => (s.fitAt false [] n c).isSome
  match bestOf (s.coreBefore n) fits with
  | none => none
  | some c => (s.fitAt false [] n c).map fun x => (c, x.1, x.2)

/-! ## The kennel area (R291) -/

/-- The size of a pack's largest image. -/
def largestImage (n : Need) : Nat :=
  let c := if n.braced then 2 else 1
  imgStrands n.rows (2048 * c) c n.tiles n.units + n.rows * strandPartSize (c * n.req) false 80

/-- The reservations in a context's area, but those of some packs. -/
def State.reservations (s : State) (ctx : Nat) (gone : List Nat) : List (Nat × Nat) :=
  ((List.range s.packs.length).filter fun p =>
    let k := s.pack p
    decide (k.ctx = ctx ∧ k.life ≠ .ended ∧ k.ksize ≠ 0) && !gone.contains p).map fun p => ((s.pack p).kaddr.toNat, (s.pack p).ksize)

/-- The lowest 4 KiB-aligned room of a size in a context's area. -/
def State.kennelRoom (s : State) (ctx size : Nat) (used : List (Nat × Nat)) : Option Nat :=
  let c := s.context ctx
  let lo := pad4k c.kennelBase.toNat
  let ok := fun (a : Nat) => decide (lo ≤ a ∧ a + size ≤ c.kennelBase.toNat + c.kennelSize ∧ a + size ≤ 2 ^ 48) &&
    used.all fun x => !overlaps x.1 x.2 a size
  bestOf (fun a b => decide (a < b)) ((lo :: used.map fun x => pad4k (x.1 + x.2)).filter ok)

/-- Whether a pack's largest image exceeds its whole area. -/
def State.kennelTooSmall (s : State) (n : Need) : Bool :=
  let c := s.context n.ctx
  decide (c.kennelBase.toNat + c.kennelSize < pad4k c.kennelBase.toNat + largestImage n)

/-! ## The order of waiting packs (R382) -/

/-- A waiting pack: the next pack of a launch, or one that has been placed before. -/
inductive Cand where
  | fresh (l : Nat)
  | old (p : Nat)
  deriving DecidableEq, Repr

/-- Whether a discarded pack may be placed again (R440). -/
def State.mayReturn (s : State) (p : Nat) : Bool :=
  match (s.pack p).ospec with
  | none => true
  | some o => !o.waitLower || s.lowerDone p

/-- Whether a launch still has packs to generate. -/
def Launch.pending (l : Launch) : Bool :=
  !l.refused && !l.completed && decide (l.nextPack + l.cut < recPacks l.rec_)

/-- The waiting packs. -/
def State.waiting (s : State) : List Cand :=
  ((List.range s.launches.length).filter fun l => (s.launch l).pending).map Cand.fresh ++
  ((List.range s.packs.length).filter fun p =>
    let k := s.pack p
    decide (k.life = .saved) || (decide (k.life = .waiting) && s.mayReturn p)).map Cand.old

/-- A waiting pack's place: PRIO, the order of its launch or of its swap, packs placed before first, pack index. -/
def State.candKey (s : State) : Cand → Nat × Nat × Nat × Nat
  | .fresh l => (recPrio (s.launch l).rec_, (s.launch l).order, 1, (s.launch l).nextPack)
  | .old p =>
    let k := s.pack p
    (k.prio.toNat, k.swapped.getD (s.launch k.launch).order, 0, k.index.toNat)

/-- Whether one place is before another. -/
def keyBefore (a b : Nat × Nat × Nat × Nat) : Bool :=
  decide (a.1 < b.1) || (decide (a.1 = b.1) && (decide (a.2.1 < b.2.1) || (decide (a.2.1 = b.2.1) &&
    (decide (a.2.2.1 < b.2.2.1) || (decide (a.2.2.1 = b.2.2.1) && decide (a.2.2.2 < b.2.2.2))))))

/-- The first waiting pack. -/
def State.firstWaiting (s : State) : Option Cand := bestOf (fun a b => keyBefore (s.candKey a) (s.candKey b)) s.waiting

/-- The launch of a waiting pack, and its need. -/
def State.candLaunch (s : State) : Cand → Nat
  | .fresh l => l
  | .old p => (s.pack p).launch
def State.candNeed (s : State) (c : Cand) : Need :=
  let l := s.launch (s.candLaunch c)
  let n := needOf l.ctx l.rec_
  match c with
  | .fresh _ => n
  | .old p =>
    match (s.pack p).saved with
    | some v => if v.forced then { n with fixed := some (v.width.grant.toNat, v.base.toNat / 65536) } else n
    | none => n

/-! ## The early end of a pack -/

/-- A pack's transfers that have not started fail with cause 0x20, arrive at no ring, and still add to their timelines (R389). -/
def State.failCopies (s : State) (p : Nat) : State :=
  let hit := fun (t : Transfer) => decide (t.pack = p ∧ (t.life = .held ∨ t.life = .saved))
  let s1 := s.copies.foldl (fun (s : State) t => if hit t then s.copyFailed t.pack t.row t.tid 0x20 else s) s
  let fail := fun (t : Transfer) =>
    if hit t then { t with life := .started, left := [], cause := some 0x20, regs := { t.regs with arr := false } } else t
  { s1 with copies := s1.copies.map fail }

/-- A pack ends at once with a code, wherever it stands (R389, R390, R295); of one that has ended already, the transfers that have not
started fail. -/
def State.killPack (s : State) (p : Nat) (code : BitVec 8) : State :=
  let k := s.pack p
  let s2 := s.failCopies p
  if k.life = .ended then s2
  else
    let s3 := s2.modPack p fun k => { k with rows := k.rows.map fun w =>
      { w with life := .ended, tx := none, txstart := 0, vq := [], posts := [], thread := { w.thread with waiting := none } } }
    ((s3.checkBarriers p).failPack p { index := k.index, code := code, tcause := 0, tpc := 0 }).endPack p

/-! ## Placing and resuming (R384, R385) -/

/-- The width a placement gives. -/
def State.widthAt (s : State) (n : Need) (c : Nat) : Width :=
  { braced := n.braced, req := BitVec.ofNat 8 n.req, grant := BitVec.ofNat 8 (s.grantAt n c) }

/-- Whether a stepping tag names another family (R65). -/
def foreignTag (r : Record) : Bool := decide ((recWord r 2).toNat / 2 ^ 48 ≠ deviceFamily)

/-- A litter's packs that are neither resident nor ended, generated or not. -/
def State.litterMissing (s : State) (l m : Nat) : List Nat :=
  let r := (s.launch l).rec_
  let lo := m * recLitter r
  ((List.range (Nat.min (recLitter r) (recPacks r - lo))).map fun i => lo + i).filter fun i =>
    !(s.packs.any fun k => decide (k.launch = l ∧ k.index.toNat = i ∧ (k.life = .resident ∨ k.life = .ended)))

/-- Start the rows of a pack; a speculative pack's start time is taken now (R439), and whether some lower pack is still to commit
(R440). -/
def State.startPack (s : State) (p : Nat) : State :=
  let open_ := !s.lowerDone p
  s.modPack p fun k =>
    let spec := k.ospec.any fun o => !o.serial
    { k with started := true, ospec := k.ospec.map fun o => { o with start := if o.serial then o.start else s.cc, lowerOpen := open_ },
             rows := if spec then k.rows.map fun w => { w with txstart := BitVec.ofNat 64 s.cc } else k.rows }

/-- A speculative pack's mode as it is placed (R440). -/
def ospecPlaced (o : Option Ospec) : Option Ospec :=
  o.map fun o => { o with waitLower := false, tx := { lines := [], doomed := none } }

/-- A pack as generated (R382): it waits. -/
def State.generated (s : State) (l : Nat) : Pack :=
  let k := s.launch l
  let r := k.rec_
  let o : Ospec := { serial := false, start := 0, lowerOpen := true, waitLower := false, tx := { lines := [], doomed := none },
                     committed := false }
  { Pack.none with
    life := .waiting, packId := s.nextPackId, launch := l, index := BitVec.ofNat 32 k.nextPack, ctx := k.ctx,
    part := (s.context k.ctx).part, braced := recBrace r, units := recUnits r, tiles := recTiles r,
    ringCount := recRings r, prio := BitVec.ofNat 3 (recPrio r), ospec := if recOspec r then some o else none }

/-- Generate the next pack of a launch: its place in `packs` and the state. -/
def State.generate (s : State) (l : Nat) : Nat × State :=
  (s.packs.length,
   { s with packs := s.packs ++ [s.generated l], nextPackId := s.nextPackId + 1 }.modLaunch l fun k =>
     { k with nextPack := k.nextPack + 1 })

/-- A waiting pack is placed as at first placement (R157, R225, R229, R384). -/
def State.placeFresh (s : State) (p core : Nat) (contexts : List Nat) (base kaddr ksize : Nat) (n : Need) : State :=
  let k := s.pack p
  let c := s.context k.ctx
  let r := s.record p
  let w := s.widthAt n core
  let strands := w.grant.toNat * (if n.braced then 2 else 1)
  let rows := contexts.mapIdx fun i x =>
    { Row.placed (BitVec.ofNat 48 (recEntry r)) strands w c.haddr (foreignTag r) c.debugRight x s.nonce (30000 + 100 * i)
      with preempt := { tforce := 100, park := false, forced := false, req := false },
           ap := List.replicate 8 0 ++ ((k.rows.getD i Row.none).ap.drop 8), posts := (k.rows.getD i Row.none).posts }
  s.modPack p fun k =>
    { k with life := .resident, core := core, base := BitVec.ofNat 22 (65536 * base), kaddr := BitVec.ofNat 48 kaddr,
             ksize := ksize, lead := Side.empty, foll := Side.empty, rings := List.replicate 8 none, ringEdits := [],
             latch := none, cp := List.replicate 8 0, rows := rows, placedAt := s.nextPlace, saved := none,
             swapping := false, swapped := none, ospec := ospecPlaced k.ospec, started := false }

/-- Note a placement: its number, and the die as not idle (R387, R388). -/
def State.notePlaced (s : State) (core : Nat) : State :=
  ({ s with nextPlace := s.nextPlace + 1 } : State).modDie (dieOf core) fun d => { d with lastIssue := s.cycle }

/-- Put a waiting or saved pack where it fits; none where it fits nowhere, or its kennel area has no room. A saved pack whose
image is refused ends with code 2 (R295). -/
def State.putPack (s : State) (p : Nat) : Option State :=
  let k := s.pack p
  let n := s.candNeed (.old p)
  match s.chooseFit n with
  | none => none
  | some (core, contexts, base) =>
    if k.life = .saved then
      match s.resumePack p core (BitVec.ofNat 22 (65536 * base)) (s.widthAt n core) contexts with
      | some s' => some ((s'.modPack p fun k => { k with placedAt := s.nextPlace, swapping := false, swapped := none }).notePlaced core)
      | none => some ((s.imgReads k.ctx core (va64 k.kaddr) ((k.saved.map Saved.size).getD 0)).2.killPack p 2)
    else if k.ksize ≠ 0 then some ((s.placeFresh p core contexts base k.kaddr.toNat k.ksize n).notePlaced core)
    else
      match s.kennelRoom k.ctx (largestImage n) (s.reservations k.ctx []) with
      | none => none
      | some a => some ((s.placeFresh p core contexts base a (largestImage n) n).notePlaced core)

/-! ## Litters (R385, R386) -/

/-- A pack leaves its core with nothing saved: a speculative one is discarded, a resumed one goes back to its image with what has been
delivered to its scratchpad and rings meanwhile, any other
waits to be placed again (R386, R440). -/
def State.withdrawPack (s : State) (p : Nat) : State :=
  let s := s.rejoin p
  let k := s.pack p
  if k.life ≠ .resident then s
  else
    match k.ospec, k.saved with
    | some o, _ => (s.discardPack p o.serial o.waitLower).modPack p fun k => { k with ksize := 0 }
    | none, some v =>
      let r := k.rows.length
      let at_ := fun (o : Nat) => va64 k.kaddr + BitVec.ofNat 64 o
      let s1 := s.imgWrite k.ctx k.core (at_ (imgSp r v.held k.coreCount k.tiles)) (k.sides.flatMap fun d => d.spImage k.units)
      let s1 := s1.imgWrite k.ctx k.core (at_ (imgRings r)) (k.rings.flatMap ringRecord)
      let s2 := s1.modPack p fun k => { k with life := .saved, lead := k.lead.kept, foll := k.foll.kept, started := false }
      { s2 with copies := s2.copies.map fun t => if t.pack = p ∧ t.life = .held then { t with life := .saved } else t }
    | none, none => (s.modPack p fun k =>
        { k with life := .waiting, rows := k.rows.map Row.parted, ksize := 0, lead := Side.empty, foll := Side.empty, started := false }).checkBarriers p

/-- Withdraw the placed packs of a litter. -/
def State.withdrawLitter (s : State) (l m : Nat) : State :=
  (List.range s.packs.length).foldl (fun (s : State) p =>
    if s.litterOf p = some (l, m) ∧ !(s.pack p).started then s.withdrawPack p else s) s

/-- The packs of a litter that hold their rows at ENTRY. -/
def State.litterHeld (s : State) (l m : Nat) : List Nat :=
  (List.range s.packs.length).filter fun p =>
    decide (s.litterOf p = some (l, m) ∧ (s.pack p).life = .resident) && !(s.pack p).started

/-- The packs of a litter that are on a core. -/
def State.litterHere (s : State) (l m : Nat) : List Nat :=
  (List.range s.packs.length).filter fun p => decide (s.litterOf p = some (l, m) ∧ (s.pack p).life = .resident)

/-- The multicast connections of a litter as it now stands: from each of its packs to the others; none where a link has too few free
slots. -/
def State.connectLitter (s : State) (l m : Nat) : Option State :=
  let ps := s.litterHere l m
  let at_ := fun (s : State) (p : Nat) => coreHop (s.pack p).core
  ps.foldl (fun (acc : Option State) p => acc.bind fun s =>
    s.connect (.litter l m (s.pack p).index.toNat) (at_ s p) (((ps.filter fun q => decide (q ≠ p)).map (at_ s)).eraseDups)
      (1 + s.pick 9000 64)) (some s)

/-- The die whose slot allocator a litter's request stands at: that of its first pack. -/
def State.litterDie (s : State) (l m : Nat) : Nat := dieOf (s.pack ((s.litterHeld l m).headD 0)).core

/-- A whole litter's connections are set up, in place of those it had before a pack of it left and came back, and its rows start; or it is
withdrawn (R385). -/
def State.startLitter (s : State) (l m : Nat) : State :=
  if !(s.litterMissing l m).isEmpty || (s.litterHeld l m).isEmpty then s
  else
    match (s.sweepConns.dropLitter l m).connectLitter l m with
    | none => s.withdrawLitter l m
    | some s1 => (s.litterHeld l m).foldl (fun (s : State) p => s.startPack p) s1

/-- A pack just put starts, unless it is of a litter, which waits for the slot allocator (R385). -/
def State.afterPut (s : State) (p : Nat) : State :=
  if (s.pack p).life ≠ .resident then s
  else
    match s.litterOf p with
    | none => s.startPack p
    | some _ => s

/-- Place every missing pack of a litter, generating those that need it; none if one does not fit, or may not yet return (R440). -/
def State.fillLitter (l : Nat) : List Nat → State → Option State
  | [], s => some s
  | i :: rest, s =>
    let found := (List.range s.packs.length).find? fun p =>
      decide ((s.pack p).launch = l ∧ (s.pack p).index.toNat = i)
    let (p, s1) := match found with
      | some p => (p, s)
      | none => s.generate l
    match if s1.mayReturn p then s1.putPack p else none with
    | none => none
    | some s2 => State.fillLitter l rest s2

/-- The litters placed only in part, of a PRIO value above one. -/
def State.partLitters (s : State) (prio : Nat) : List (Nat × Nat) :=
  ((List.range s.packs.length).filterMap fun p =>
    let k := s.pack p
    if decide (k.life = .resident) && !k.started && decide (prio < k.prio.toNat) then s.litterOf p else none).eraseDups

/-- A launch of lower PRIO is taken (R386): each such litter is completed if it fits now, else withdrawn. -/
def State.settleLitters (s : State) (prio : Nat) : State :=
  (s.partLitters prio).foldl (fun (s : State) x =>
    match State.fillLitter x.1 (s.litterMissing x.1 x.2) s with
    | some s' => s'
    | none => s.withdrawLitter x.1 x.2) s

/-- LAUNCH_SELECT (R381, R386): a head whose gate cannot be read is refused; else the first ready head is taken. -/
def execLaunchSelect (s : State) : Result State :=
  let drop := fun (s : State) (h : Head) => { s with heads := s.heads.filter fun x => decide (x ≠ h) }
  match s.heads.find? fun h => (s.gateOf h).isNone with
  | some h => .next ((drop s h).takeLaunch h.ctx h.q h.lid h.rec_ true)
  | none =>
    match bestOf s.headBefore (s.heads.filter fun h => decide (s.gateOf h = some true)) with
    | none => .next s
    | some h =>
      let prio := recPrio h.rec_
      let s1 := drop ((s.settleLitters prio).takeLaunch h.ctx h.q h.lid h.rec_ false) h
      .next { s1 with served := tset s1.served prio (h.ctx, h.q) }

/-! ## Pre-emption requests (R285, R387) -/

/-- A pre-emption request to one pack: a speculative one is discarded (R440), one that has not started is withdrawn. -/
def State.requestPack (s : State) (p : Nat) : State :=
  let k := s.pack p
  if k.life ≠ .resident then s
  else if !k.started then s.withdrawPack p
  else
    match k.ospec with
    | some o => s.discardPack p o.serial o.waitLower
    | none => s.modPack p fun k => { k with rows := k.rows.map fun w => { w with preempt := { w.preempt with req := true } } }

/-- A request to a pack with its whole litter (R387). -/
def State.requestLitter (s : State) (p : Nat) : State := (s.litterPacks p).foldl (fun s q => s.requestPack q) s

/-- The resident packs of a core that a request lane or core retirement makes (R168, R226, R392). -/
def State.requestCore (s : State) (c : Nat) : State := (s.residents c []).foldl (fun s p => s.requestLitter p) s

/-- Insert in a sorted list. -/
def insertBy {α : Type} (before : α → α → Bool) (x : α) : List α → List α
  | [] => [x]
  | y :: l => if before x y then x :: y :: l else y :: insertBy before x l

/-- The candidates of a core or brace in the order of R387: highest PRIO value, then latest placement. -/
def State.victims (s : State) (n : Need) (prio c : Nat) : List Nat :=
  let all := ((n.cores c).flatMap fun x => s.residents x []).eraseDups.filter fun p => decide (prio < (s.pack p).prio.toNat)
  all.foldr (insertBy fun a b =>
    let x := s.pack a
    let y := s.pack b
    decide (y.prio.toNat < x.prio.toNat) || (decide (x.prio = y.prio) && decide (y.placedAt < x.placedAt))) []

/-- Whether a waiting pack's kennel area has room for it once some packs are gone (R383): of those, only packs that have not started
leave their reservations. -/
def State.kennelFits (s : State) (c : Cand) (gone : List Nat) : Bool :=
  let n := s.candNeed c
  let kept := match c with
    | .fresh _ => false
    | .old p => decide ((s.pack p).ksize ≠ 0)
  kept || (s.kennelRoom n.ctx (largestImage n) (s.reservations n.ctx (gone.filter fun p => !(s.pack p).started))).isSome

/-- The shortest prefix of an order whose removal lets the pack fit there. -/
def State.prefixFor (s : State) (w : Cand) (c : Nat) (l : List Nat) : Option (List Nat) :=
  ((List.range (l.length + 1)).find? fun i =>
    (s.fitAt false (l.take i) (s.candNeed w) c).isSome && s.kennelFits w (l.take i)).map fun i => l.take i

/-- The packs to pre-empt for a waiting pack (R387): the fewest, then the lowest COREID. -/
def State.preemptFor (s : State) (w : Cand) (prio : Nat) : Option (List Nat) :=
  let all := (List.range 256).filterMap fun c => (s.prefixFor w c (s.victims (s.candNeed w) prio c)).map fun l => (c, l)
  (bestOf (fun a b => decide (a.2.length < b.2.length) || (decide (a.2.length = b.2.length) && decide (a.1 < b.1))) all).map
    fun x => x.2

/-- Whether requests made for a pack of a launch still stand (R387). -/
def State.askedStill (s : State) (l i : Nat) : Bool :=
  s.asked.any fun x => decide (x.1 = l ∧ x.2.1 = i) && decide ((s.pack x.2.2).life = .resident) &&
    (s.pack x.2.2).rows.any fun w => w.preempt.req

/-- The first waiting pack fits nowhere now: requests are made for it (R387). -/
def State.askFor (s : State) (c : Cand) : State :=
  let key := s.candKey c
  let l := s.candLaunch c
  if s.askedStill l key.2.2.2 then s
  else
    match s.preemptFor c key.1 with
    | none => s
    | some ps =>
      let s1 := ps.foldl (fun s p => s.requestLitter p) s
      { s1 with asked := ps.map fun p => (l, key.2.2.2, p) }

/-! ## PACK_PLACE and PACK_RESUME -/

/-- Whether a pack can fit nowhere in the device as configured, with nothing resident (R390, R291). -/
def State.unplaceable (s : State) (n : Need) : Bool :=
  s.kennelTooSmall n || (List.range 256).all fun c => (s.fitAt true (List.range s.packs.length) n c).isNone

/-- Place the first waiting pack, or end it, or ask for room. -/
def State.serveFirst (s : State) (c : Cand) : State :=
  let n := s.candNeed c
  let (p, s1) := match c with
    | .fresh l => s.generate l
    | .old p => (p, s)
  if s.unplaceable n then
    s1.killPack p 5
  else
    match s1.putPack p with
    | some s2 => s2.afterPut p
    | none => s.askFor c

/-- PACK_PLACE (R382–R387, R390): the first waiting pack, when it has not been saved. -/
def execPackPlace (s : State) : Result State :=
  match s.firstWaiting with
  | none => .next s
  | some (.old p) => if (s.pack p).life = .saved then .next s else .next (s.serveFirst (.old p))
  | some (.fresh l) => .next (s.serveFirst (.fresh l))

/-- PACK_RESUME (R289, R295): the first waiting pack, when it has been saved. -/
def execPackResume (s : State) : Result State :=
  match s.firstWaiting with
  | some (.old p) => if (s.pack p).life = .saved then .next (s.serveFirst (.old p)) else .next s
  | _ => .next s

/-! ## The swap (R388) -/

/-- The swap limit that applies to a waiting pack on a die. -/
def State.swapLimit (s : State) (d : Nat) (c : Cand) : Nat :=
  let part := (s.context (s.launch (s.candLaunch c)).ctx).part
  match (s.partOf part).bind fun p => p.swapn with
  | some n => n
  | none => (s.dies.getD d Die.reset).swapn

/-- SWAP_EXPIRY (R388): no resident row of the die has issued for the limit of the first waiting pack. DESIGN CHOICE: a pack under a
request already is left to it, and takes its place as that request gives (log 144). -/
def execSwapExpiry (d : Nat) (s : State) : Result State :=
  match s.firstWaiting with
  | none => .next s
  | some c =>
    let idle := s.cycle - (s.dies.getD d Die.reset).lastIssue
    let here := (List.range s.packs.length).filter fun p =>
      decide ((s.pack p).life = .resident ∧ dieOf (s.pack p).core = d)
    if idle < s.swapLimit d c then .next s
    else
      match bestOf (fun a b => decide ((s.pack b).prio.toNat < (s.pack a).prio.toNat) ||
          (decide ((s.pack a).prio = (s.pack b).prio) && decide ((s.pack a).placedAt < (s.pack b).placedAt))) here with
      | none => .next s
      | some p =>
        if (s.pack p).rows.any (fun w => w.preempt.req) then .next s
        else
          let s1 := (s.litterPacks p).foldl (fun (s : State) q => s.modPack q fun k =>
            if k.life = .resident then { k with swapping := true } else k) s
          .next (s1.requestLitter p)

/-! ## The end of launches (R389–R391, R430) -/

/-- The number of packs that failed, the first of them and its code. -/
def Launch.failCount (l : Launch) : Nat := l.fails.length + l.cut
def Launch.firstFail (l : Launch) : PackFail :=
  match l.fails with
  | f :: _ => f
  | [] =>
    if l.refused then { index := 0, code := 3, tcause := 0, tpc := 0 }
    else if l.cut ≠ 0 then { index := BitVec.ofNat 32 l.nextPack, code := 4, tcause := 0, tpc := 0 }
    else { index := 0, code := 0, tcause := 0, tpc := 0 }

/-- The status block (R391). -/
def Launch.statusBlock (l : Launch) : List (BitVec 8) :=
  let f := l.firstFail
  let ok := !l.refused && decide (l.failCount = 0)
  leBytes 8 (f.code.toNat * 256 + (if ok then 1 else 2)) ++ leBytes 8 (f.index.toNat * 2 ^ 32 + l.failCount % 2 ^ 32) ++
    leBytes 8 (if f.code = 1 then f.tcause.toNat else 0) ++ leBytes 8 (if f.code = 1 then f.tpc.toNat else 0)

/-- Whether every pack of a launch has ended and every transfer its packs started has completed. -/
def State.launchOver (s : State) (l : Nat) : Bool :=
  let k := s.launch l
  (k.refused || decide (k.ended + k.cut = recPacks k.rec_)) &&
  s.copies.all fun t => decide ((s.pack t.pack).launch ≠ l) || decide (t.life = .done)

/-- The writes of a launch's threads leave every L1 (R390). -/
def State.drainLaunch (s : State) (l : Nat) : State :=
  (List.range s.cores.length).foldl (fun (s : State) c =>
    s.drainN c (drainUpTo (fun e => decide ((s.pack e.agent.pr.1).launch = l)) (s.core c).l1)) s

/-- Write the status block; none while a versioned page has no room. DESIGN CHOICE: one at a misaligned STATP, for which its record is
refused (R376), is written there byte for byte (log 72). -/
def State.writeStatus (s : State) (k : Launch) : Option State :=
  let va := recWord k.rec_ 9
  if va = 0 then some s
  else if !canonical va then some s
  else if misaligned va 32 then some (s.imgWrite k.ctx (32 * frontDie) va k.statusBlock)
  else
    match s.translate k.ctx frontDie va .write false with
    | .error _ => some s
    | .ok (xl, s1) => s1.engineWrite (.other (s.context k.ctx).part) xl k.statusBlock

/-- Add DONEINC to DONETL; none while a versioned page has no room. -/
def State.addDone (s : State) (k : Launch) : Option State :=
  let va := recWord k.rec_ 7
  if va = 0 || misaligned va 8 || !canonical va then some s
  else
    match s.translate k.ctx frontDie va .readWrite false with
    | .error _ => some s
    | .ok (xl, s1) => (s1.addTimeline (.other (s.context k.ctx).part) xl (recWord k.rec_ 8)).map fun x => x.1

/-- The snapshots a launch left open are closed (R430). -/
def State.closeSnapshots (s : State) (lid : BitVec 32) (part : Nat) : State :=
  { s with snapshots := s.snapshots.filter fun e => decide (e.lid ≠ lid ∨ e.part ≠ part) }

/-- LAUNCH_COMPLETE (R390, R391, R430). -/
def execLaunchComplete (l : Nat) (s : State) : Result State :=
  let k := s.launch l
  if s.launches.length ≤ l || k.completed || !s.launchOver l then .next s
  else
    let s1 := (s.drainLaunch l).closeSnapshots k.lid (s.context k.ctx).part
    match s1.writeStatus k with
    | none => .next s
    | some s2 =>
      match s2.addDone k with
      | none => .next s
      | some s3 => .next (s3.modLaunch l fun k => { k with completed := true })

/-- End a launch (R389): its packs in ascending index, then those never generated. -/
def State.endLaunch (s : State) (l : Nat) : State :=
  let k := s.launch l
  if k.refused || k.completed then s
  else
    let s1 := (List.range s.packs.length).foldl (fun (s : State) p => if (s.pack p).launch = l then s.killPack p 4 else s) s
    s1.modLaunch l fun k => { k with cut := recPacks k.rec_ - k.nextPack }

/-! ## CORE_QUIESCE, the slot tables and the routers -/

/-- The cores of a router's cluster. -/
def clusterCores (d router : Nat) : List Nat := (List.range 4).map fun i => 32 * d + 4 * router + i

/-- A die whose failed routers' cores have all quiesced passes around them from now on (R393). -/
def State.rerouteWhenQuiet (s : State) (d : Nat) : State :=
  let x := s.dieAt d
  if (x.routersFailed.any fun r => !x.rerouted.contains r) &&
      (x.routersFailed.all fun r => (clusterCores d r).all fun c => (s.core c).disabled) then s.reroute d
  else s

/-- CORE_QUIESCE (R168, R226, R392, R393): a core with no resident pack retires what is marked. -/
def execCoreQuiesce (c : Nat) (s : State) : Result State :=
  if (s.residents c []).isEmpty then
    .next ((s.modCore c fun k =>
      { k with healthy := k.healthy &&& ~~~k.retire, retire := 0, disabled := k.disabled || k.marked, marked := false,
               unitsOut := k.unitsMarked.foldl setIns k.unitsOut, unitsMarked := [] }).rerouteWhenQuiet (dieOf c))
  else .next s

/-- The fabric link that a session of a partition goes out by, as a destination: four links on each IO die (R484). -/
def State.fabricHop (s : State) (part tdev : Nat) : Option Hop :=
  (s.sessions.find? fun x => decide (x.part = part ∧ x.tdev = tdev)).bind fun x => x.route.head?.map fun i =>
    { die := 8 + i / 4 % 4, router := 0, port := .fabric (i % 4) }

/-- The connection of the collective at the head of a row's queue is set up, if it is not there and the slots are free. The allocator reads
the descriptor as it stands, which is no read that counts (R415). -/
def State.connectCollective (s : State) (p r : Nat) : State :=
  match s.xdredHead p r with
  | none => s
  | some (x, _, va, xl, _) =>
    if s.conns.any fun c => decide (c.owner = .collective p r x.seq) then s
    else
      let w := (descWord (s.descLine (s.pack p).part xl).1 0).toNat
      let (tdevs, s) := s.xdredRoutes p va (Nat.min (w % 2 ^ 16) 128) (w / 2 ^ 16 % 2 ^ 16)
      let dsts := (tdevs.filterMap (s.fabricHop (s.pack p).part)).eraseDups
      (s.connect (.collective p r x.seq) (coreHop (s.pack p).core) dsts (1 + s.pick 9001 64)).getD s

/-- SLOT_TABLE_EDIT (R370, R373, R385), begun by the allocator of the die where the request stands: every router's tables are
edited at one frame boundary. An edit that wants more slots than a link has free fails: the litter that asked for it is withdrawn,
and a collective waits, as does a connection that a new route set has left without slots (R393). -/
def execSlotTableEdit (die : Nat) (e : SlotEdit) (s : State) : Result State :=
  .next (match e with
    | .litter l m => if s.litterDie l m = die then s.startLitter l m else s
    | .collective p r => if dieOf (s.pack p).core = die then s.sweepConns.connectCollective p r else s
    | .release => if die < 12 then s.sweepConns.serveConns else s)

/-- A router fails (R393): the cores of its cluster are marked for disable; a die that loses a ring port serves no pack, so every
pack on it is asked to leave. An IO die's router serves no cluster, so what passes around it is installed at once. -/
def State.failRouter (s : State) (d router : Nat) : State :=
  let s1 := s.modDie d fun x => { x with routersFailed := setIns x.routersFailed router }
  if 8 ≤ d then s1.reroute d
  else
    let s2 := (clusterCores d router).foldl (fun (s : State) c => s.modCore c fun k => { k with marked := true }) s1
    let out := if router = 0 ∨ router = 7 then (List.range 32).map fun i => 32 * d + i else clusterCores d router
    out.foldl (fun (s : State) c => s.requestCore c) s2

/-- The span within which a second error in an entry fails its router. -/
def routerSpan : Nat := 2 ^ 30

/-- The routers of the package by number, the destinations of a router's route entries: 8 · die + router. -/
def routeEntries : Nat := 8 * 12

/-- The key of an entry in a die's error record: a slot-table entry by router, port and slot, or a route entry, which an error names by
port 64 and its destination; none for no entry. -/
def entryKey (d router port entry : Nat) : Option Nat :=
  if 12 ≤ d ∨ routerCount d ≤ router then none
  else if port < 64 ∧ entry < 64 then some (slotKey (router, port, entry))
  else if port = 64 ∧ entry < routeEntries then some (2 ^ 16 + 128 * router + entry)
  else none

/-- ROUTER_PARITY_ERROR (R393): the slot-table or route entry is reloaded from the allocator's copy, which changes nothing, and the error
counted with its CYCLE; a second one in the entry within the span fails the router. -/
def execRouterParityError (d router port slot : Nat) (s : State) : Result State :=
  match entryKey d router port slot with
  | none => .next s
  | some key =>
    let past := (tget (s.dieAt d).routerErrors key).getD []
    let s1 := s.modDie d fun x => { x with routerErrors := tset x.routerErrors key (s.cycle :: past) }
    if past.any fun c => decide (s.cycle - c < routerSpan) then .next (s1.failRouter d router) else .next s1

end Sys2Proof.Machine
end

