-- ==== Sys2Proof/Machine/Uses.lean ====
section
/-! DEFINITION. Which registers an instruction reads (R53, R54, R61): for what it consumes (R296) and what depends on a load (R335). -/
namespace Sys2Proof.Machine

/-- An x register as a register of its thread. -/
def xReg (n : BitVec 5) : RegName := .int (n.setWidth 6)

/-- The registers of its own thread that an instruction reads, its scalar guard apart. -/
def readsOf (i : Instr) : List RegName :=
  match i with
  | .add _ a b | .sub _ a b | .and _ a b | .or _ a b | .xor _ a b | .andn _ a b | .sll _ a b | .srl _ a b | .sra _ a b |
    .rol _ a b | .min _ a b | .max _ a b | .minu _ a b | .maxu _ a b | .addw _ a b | .subw _ a b | .mul _ a b | .mulh _ a b |
    .mulhu _ a b | .div _ a b | .divu _ a b | .rem _ a b | .remu _ a b | .mulw _ a b | .sel _ _ a b | .adda _ _ a b _ |
    .ceq _ a b | .cne _ a b | .clt _ a b | .cge _ a b | .cltu _ a b | .cgeu _ a b | .faddS _ _ _ _ a b | .fsubS _ _ _ _ a b |
    .fmulS _ _ _ _ a b | .fdivS _ _ _ _ a b | .fminS _ _ _ a b | .fmaxS _ _ _ a b | .faddD _ _ _ _ a b | .fsubD _ _ _ _ a b |
    .fmulD _ _ _ _ a b | .fdivD _ _ _ _ a b | .fminD _ _ _ a b | .fmaxD _ _ _ a b | .feqS _ a b | .fltS _ a b | .fleS _ a b |
    .funordS _ a b | .feqD _ a b | .fltD _ a b | .fleD _ a b | .funordD _ a b => [.int a, .int b]
  | .clz _ a | .ctz _ a | .popc _ a | .bswap _ a | .brev _ a | .sxb _ a | .sxh _ a | .sxw _ a | .zxw _ a | .addi _ a _ |
    .andi _ a _ | .ori _ a _ | .xori _ a _ | .slli _ a _ | .srli _ a _ | .srai _ a _ | .roli _ a _ | .ceqi _ a _ | .cnei _ a _ |
    .clti _ a _ | .cgei _ a _ | .cltui _ a _ | .cgeui _ a _ | .ld8 _ a _ | .ld16 _ a _ | .ld32 _ a _ | .ld64 _ a _ | .ld8s _ a _ |
    .ld16s _ a _ | .ld32s _ a _ | .ldl8 _ a _ | .ldl16 _ a _ | .ldl32 _ a _ | .ldl64 _ a _ | .ldv8 _ a _ | .ldv16 _ a _ |
    .ldv32 _ a _ | .ldv64 _ a _ | .jmpr a | .callr _ a | .ret a | .fetchr a | .leashr a | .fsqrtS _ _ _ _ a | .fabsS _ _ _ a |
    .fnegS _ _ _ a | .fsqrtD _ _ _ _ a | .fabsD _ _ _ a | .fnegD _ _ _ a | .cvtF64F32 _ _ _ _ a | .cvtF32F64 _ _ _ _ a |
    .cvtF32I64 _ _ _ _ a | .cvtI64F32 _ _ _ _ a | .cvtF64I64 _ _ _ _ a | .cvtI64F64 _ _ _ _ a | .cvtBf16F32 _ _ _ _ a |
    .cvtF32Bf16 _ _ _ _ a | .cvtFp16F32 _ _ _ _ a | .cvtF32Fp16 _ _ _ _ a | .cvtE4m3F32 _ _ _ _ a | .cvtF32E4m3 _ _ _ _ a |
    .cvtE5m2F32 _ _ _ _ a | .cvtF32E5m2 _ _ _ _ a | .cvtLgF32 _ _ _ _ a | .cvtF32Lg _ _ _ _ a => [.int a]
  | .pand _ pa pb | .por _ pa pb | .pxor _ pa pb | .pandn _ pa pb => [.pred pa, .pred pb]
  | .pnot _ pa | .pmov _ pa | .br _ pa _ => [.pred pa]
  | .st8 d a _ | .st16 d a _ | .st32 d a _ | .st64 d a _ | .stl8 d a _ | .stl16 d a _ | .stl32 d a _ | .stl64 d a _ => [.int d, .int a]
  | .qsendQ0 d | .qsendQ1 d | .setsr d _ _ | .lhi d _ => [.int d]
  | .xqpushQ0 xd | .xqpushQ1 xd => [xReg xd]
  | .ffmaS _ _ _ _ a b c | .ffmsS _ _ _ _ a b c | .ffnmaS _ _ _ _ a b c | .ffmaD _ _ _ _ a b c | .ffmsD _ _ _ _ a b c |
    .ffnmaD _ _ _ _ a b c => [.int a, .int b, .int c]
  | .rfetchr xa | .rfetchrIdem xa | .setvl _ xa _ | .launch _ xa | .vbcast _ _ xa | .vld _ xa _ | .vldff _ xa _ | .vldv _ xa _ |
    .vldsp _ xa _ | .vldx _ _ xa _ | .vldl _ _ xa _ | .vldxv _ _ xa _ | .vst _ _ xa | .vstx _ _ xa _ | .vstl _ _ xa _ |
    .vstmc _ _ xa | .vstsp _ _ xa | .vamoAdd _ _ _ xa _ _ | .vamoAnd _ _ _ xa _ _ | .vamoOr _ _ _ xa _ _ | .vamoXor _ _ _ xa _ _ |
    .vamoMax _ _ _ xa _ _ | .vamoMin _ _ _ xa _ _ | .vamoSwap _ _ _ xa _ _ | .vamoFadd _ _ _ xa _ _ | .zld _ xa | .zst _ xa |
    .zcvt _ xa _ _ | .lda _ _ xa _ | .lda32 _ _ xa _ | .snclose _ xa | .snset xa | .xdred _ _ xa _ => [xReg xa]
  | .vaddVx _ _ _ xb | .vsubVx _ _ _ xb | .vmulVx _ _ _ xb | .vmulhVx _ _ _ xb | .vandVx _ _ _ xb | .vorVx _ _ _ xb |
    .vxorVx _ _ _ xb | .vsllVx _ _ _ xb | .vsrlVx _ _ _ xb | .vsraVx _ _ _ xb | .vminVx _ _ _ xb | .vmaxVx _ _ _ xb |
    .vminuVx _ _ _ xb | .vmaxuVx _ _ _ xb | .vadcVx _ _ _ xb _ _ | .vsbcVx _ _ _ xb _ _ | .vslideup _ _ _ xb |
    .vslidedn _ _ _ xb | .vext _ _ xb | .vredoFadd _ _ _ _ xb | .vredtFadd _ _ _ _ xb | .vredFmax _ _ _ _ xb |
    .vredFmin _ _ _ _ xb | .vredAdd _ _ _ xb | .vredAnd _ _ _ xb | .vredOr _ _ _ xb | .vredXor _ _ _ xb | .vredMax _ _ _ xb |
    .vredMin _ _ _ xb | .vredMaxu _ _ _ xb | .vredMinu _ _ _ xb | .mma _ _ xb _ _ _ _ _ => [xReg xb]
  | .vceq _ xb _ _ b | .vcne _ xb _ _ b | .vclt _ xb _ _ b | .vcge _ xb _ _ b | .vcltu _ xb _ _ b | .vcgeu _ xb _ _ b |
    .vfeq _ _ xb _ _ b | .vflt _ _ xb _ _ b | .vfle _ _ xb _ _ b | .vfunord _ _ xb _ _ b => if xb then [.int b] else []
  | .vins _ xa xb | .vlds _ _ xa xb | .vsts _ _ xa xb | .vstrc _ _ xa xb | .tlwait _ xa xb _ | .tlpost _ xa xb _ |
    .amoAdd _ _ xa xb _ _ _ | .amoAnd _ _ xa xb _ _ _ | .amoOr _ _ xa xb _ _ _ | .amoXor _ _ xa xb _ _ _ |
    .amoMax _ _ xa xb _ _ _ | .amoMin _ _ xa xb _ _ _ | .amoMaxu _ _ xa xb _ _ _ | .amoMinu _ _ xa xb _ _ _ |
    .amoSwap _ _ xa xb _ _ _ | .amoFadd _ _ xa xb _ _ _ => [xReg xa, xReg xb]
  | .mmaff _ _ xb xc _ _ _ _ => [xReg xb, xReg xc]
  | .ringdef _ xa xb xc _ | .amoCas _ _ xa xb xc _ _ _ => [xReg xa, xReg xb, xReg xc]
  | .strl _ xd xa _ | .strl32 _ xd xa _ => [xReg xd, xReg xa]
  | _ => []

/-- The scalar guard of an instruction, where it has one (R55). -/
def guardOf (i : Instr) : Option Guard :=
  match i with
  | .sel gd _ _ _ | .adda gd _ _ _ _ | .faddS gd _ _ _ _ _ | .fsubS gd _ _ _ _ _ | .fmulS gd _ _ _ _ _ | .fdivS gd _ _ _ _ _ |
    .fminS gd _ _ _ _ | .fmaxS gd _ _ _ _ | .fsqrtS gd _ _ _ _ | .fabsS gd _ _ _ | .fnegS gd _ _ _ | .faddD gd _ _ _ _ _ |
    .fsubD gd _ _ _ _ _ | .fmulD gd _ _ _ _ _ | .fdivD gd _ _ _ _ _ | .fminD gd _ _ _ _ | .fmaxD gd _ _ _ _ | .fsqrtD gd _ _ _ _ |
    .fabsD gd _ _ _ | .fnegD gd _ _ _ | .ffmaS gd _ _ _ _ _ _ | .ffmsS gd _ _ _ _ _ _ | .ffnmaS gd _ _ _ _ _ _ |
    .ffmaD gd _ _ _ _ _ _ | .ffmsD gd _ _ _ _ _ _ | .ffnmaD gd _ _ _ _ _ _ | .cvtF64F32 gd _ _ _ _ | .cvtF32F64 gd _ _ _ _ |
    .cvtF32I64 gd _ _ _ _ | .cvtI64F32 gd _ _ _ _ | .cvtF64I64 gd _ _ _ _ | .cvtI64F64 gd _ _ _ _ | .cvtBf16F32 gd _ _ _ _ |
    .cvtF32Bf16 gd _ _ _ _ | .cvtFp16F32 gd _ _ _ _ | .cvtF32Fp16 gd _ _ _ _ | .cvtE4m3F32 gd _ _ _ _ | .cvtF32E4m3 gd _ _ _ _ |
    .cvtE5m2F32 gd _ _ _ _ | .cvtF32E5m2 gd _ _ _ _ | .cvtLgF32 gd _ _ _ _ | .cvtF32Lg gd _ _ _ _ | .tlwait gd _ _ _ |
    .tlpost gd _ _ _ | .amoAdd gd _ _ _ _ _ _ | .amoAnd gd _ _ _ _ _ _ | .amoOr gd _ _ _ _ _ _ | .amoXor gd _ _ _ _ _ _ |
    .amoMax gd _ _ _ _ _ _ | .amoMin gd _ _ _ _ _ _ | .amoMaxu gd _ _ _ _ _ _ | .amoMinu gd _ _ _ _ _ _ |
    .amoSwap gd _ _ _ _ _ _ | .amoCas gd _ _ _ _ _ _ _ | .amoFadd gd _ _ _ _ _ _ | .lda gd _ _ _ | .lda32 gd _ _ _ |
    .strl gd _ _ _ | .strl32 gd _ _ _ => some gd
  | _ => none

/-- All registers that an instruction names which only computes on its own thread's registers; none for another. -/
def computes (i : Instr) : Option (List RegName) :=
  match i with
  | .add d a b | .sub d a b | .and d a b | .or d a b | .xor d a b | .andn d a b | .sll d a b | .srl d a b | .sra d a b |
    .rol d a b | .min d a b | .max d a b | .minu d a b | .maxu d a b | .mul d a b | .mulh d a b | .mulhu d a b | .div d a b |
    .divu d a b | .rem d a b | .remu d a b | .mulw d a b => some [.int d, .int a, .int b]
  | .clz d a | .ctz d a | .popc d a | .bswap d a | .brev d a | .sxb d a | .sxh d a | .sxw d a | .zxw d a | .addi d a _ |
    .andi d a _ | .ori d a _ | .xori d a _ | .slli d a _ | .srli d a _ | .srai d a _ | .roli d a _ => some [.int d, .int a]
  | .li d _ | .lhi d _ => some [.int d]
  | .sel gd d a b | .adda gd d a b _ => some [.pred gd.g, .int d, .int a, .int b]
  | .ceq pd a b | .cne pd a b | .clt pd a b | .cge pd a b | .cltu pd a b | .cgeu pd a b => some [.pred pd, .int a, .int b]
  | .ceqi pd a _ | .cnei pd a _ | .clti pd a _ | .cgei pd a _ | .cltui pd a _ | .cgeui pd a _ => some [.pred pd, .int a]
  | .pand pd pa pb | .por pd pa pb | .pxor pd pa pb | .pandn pd pa pb => some [.pred pd, .pred pa, .pred pb]
  | .pnot pd pa | .pmov pd pa => some [.pred pd, .pred pa]
  | _ => none

/-- The register groups and masks that an instruction reads while its thread waits for the lanes, and its guard (R172, R174). -/
def lanesRead (i : Instr) : List (BitVec 6) × List (BitVec 5) × Guard :=
  match i with
  | .mpop _ ma | .mffs _ ma | .mfls _ ma => ([], [ma], { g := 0, n := false })
  | .vext _ va _ => ([va], [], { g := 0, n := false })
  | .vredoFadd gd _ _ va _ | .vredtFadd gd _ _ va _ | .vredFmax gd _ _ va _ | .vredFmin gd _ _ va _ | .vredAdd gd _ va _ |
    .vredAnd gd _ va _ | .vredOr gd _ va _ | .vredXor gd _ va _ | .vredMax gd _ va _ | .vredMin gd _ va _ | .vredMaxu gd _ va _ |
    .vredMinu gd _ va _ => ([va], [], gd)
  | .vldx gd _ _ vb | .vldl gd _ _ vb | .vldxv gd _ _ vb | .vstx gd _ _ vb | .vstl gd _ _ vb => ([vb], [], gd)
  | .vamoAdd gd _ _ _ vb vc | .vamoAnd gd _ _ _ vb vc | .vamoOr gd _ _ _ vb vc | .vamoXor gd _ _ _ vb vc |
    .vamoMax gd _ _ _ vb vc | .vamoMin gd _ _ _ vb vc | .vamoSwap gd _ _ _ vb vc | .vamoFadd gd _ _ _ vb vc => ([vb, vc], [], gd)
  | _ => ([], [], { g := 0, n := false })

end Sys2Proof.Machine
end

