-- ==== Sys2Proof/Machine/Errors.lean ====
section
/-! DEFINITION. Hardware errors and power events: core SRAM errors (R168, R226, R229, R296–R298), lane-group gating (R169), the
L2 slice, its network and the TLBs (R318, R324–R328), HBM and its channels (R408–R411), evictions (R416), the thermal limit
(R493). -/
namespace Sys2Proof.Machine

/-! ## Counting and marking -/

/-- The span within which repeated errors count (R298, R327, R409). -/
def errorSpan : Nat := 2 ^ 30

/-- Note an error under a key: the times within the span, with now. -/
def noteTime (t : Table (List Nat)) (key now : Nat) : Table (List Nat) :=
  tset t key (now :: ((tget t key).getD []).filter fun x => decide (now < x + errorSpan))

/-- How many errors a key has within the span. -/
def timesOf (t : Table (List Nat)) (key : Nat) : Nat := ((tget t key).getD []).length

/-- A core is marked for disable (R392): it takes no new pack, and its resident packs are asked to leave. -/
def State.markCore (s : State) (c : Nat) : State := (s.modCore c fun k => { k with marked := true }).requestCore c

/-- A lane is marked for retirement (R168, R298). -/
def State.markLane (s : State) (c lane : Nat) : State :=
  (s.modCore c fun k => { k with retire := k.retire ||| BitVec.ofNat 32 (2 ^ (lane % 32)) }).requestCore c

/-- A scratchpad unit is marked (R226). -/
def State.markUnit (s : State) (c u : Nat) : State :=
  (s.modCore c fun k => { k with unitsMarked := setIns k.unitsMarked u }).requestCore c

/-- Count a core SRAM error (R296). -/
def State.countSram (s : State) (c : Nat) (correctable : Bool) : State :=
  s.modCore c fun k =>
    if correctable then { k with corrected := k.corrected + 1 } else { k with uncorrected := k.uncorrected + 1 }

/-- An error in a lane's register file or datapath (R168, R298): an uncorrectable one, or one that makes the count of correctable
ones, marks the lane. -/
def State.laneError (s : State) (c lane : Nat) (e : SramError) : State :=
  let s1 := if e.correctable then s.modCore c fun k => { k with laneErrors := noteTime k.laneErrors lane s.cycle } else s
  if !e.correctable || decide (s.laneRetire ≤ timesOf (s1.core c).laneErrors lane) then s1.markLane c lane
  else s1

/-! ## SECDED_ERROR -/

/-- An idempotent dispatch is discarded in place of a machine check (R116). -/
def State.discardDispatch (s : State) (p r : Nat) : State :=
  s.modRow p r fun w =>
    match w.recorded with
    | none => w
    | some d =>
      { w with nextGroup := w.nextGroup + 1,
               strands := w.strands.mapIdx fun k t =>
                 if d.set.contains k then
                   t.restart d.entry w.nextGroup (fun i => t.g.toList.getD i 0) (fun i => t.p.toList.getD i 0)
                 else t }

/-- Scrubbing may be what found a poisoned word: row 0 of the owning pack takes the machine check (R296). -/
def State.scrubCheck (s : State) (p : Nat) (syn : BitVec 64) : State :=
  if s.pick 9202 2 = 0 then s.machineCheck p 0 syn 0 else s

/-- The syndrome of a poisoned register of an agent (R297). -/
def State.registerSyndrome (s : State) (a : Agent) (n : RegName) : BitVec 64 :=
  match a with
  | .control .. => syndrome 1 false n.unit 0
  | .strand p r k => syndrome 2 (decide ((s.row p r).width.grant.toNat ≤ k)) n.unit 0

/-- An uncorrectable error in a register: it is poisoned, and holds a value of the error's making until it is written (R296). -/
def State.poisonReg (s : State) (a : Agent) (n : RegName) : State :=
  if n = .int 0 ∨ n = .pred 0 then s
  else
    let s1 := s.putReg a n (Config.freeWord s.nonce 9203)
    (match a with
     | .control p r => s1.modRow p r fun w => { w with bad := n :: w.bad.erase n }
     | .strand p r k => s1.modStrand p r k fun t => { t with bad := n :: t.bad.erase n }).scrubCheck a.pr.1 (s.registerSyndrome a n)

/-- Whether a register of a strand lies outside what a discarded dispatch keeps (R116). -/
def RegName.discarded : RegName → Bool
  | .int n => decide (8 ≤ n.toNat)
  | .pred n => decide (4 ≤ n.toNat)

/-- An agent's instruction consumes a poisoned register (R116, R296): its row takes a machine check, or the idempotent dispatch is
discarded instead. -/
def State.consumeReg (s : State) (a : Agent) (n : RegName) : State :=
  match a with
  | .control p r => s.machineCheck p r (s.registerSyndrome a n) 0
  | .strand p r k =>
    let w := s.row p r
    if w.discardable && n.discarded && (w.recorded.any fun d => d.set.contains k) && decide (s.pick 9200 2 = 0) then
      s.discardDispatch p r
    else s.machineCheck p r (s.registerSyndrome a n) k

/-- The poisoned registers of an agent. -/
def State.badRegs (s : State) (a : Agent) : List RegName :=
  match a with
  | .control p r => (s.row p r).bad
  | .strand p r k => (s.strand p r k).bad

/-- The scalar guard of an instruction that has one, and the registers it reads: the guard alone where it is off (R55). -/
def State.reading (s : State) (a : Agent) (i : Instr) : List RegName :=
  match guardOf i with
  | none => readsOf i
  | some g => .pred g.g :: (if s.guardOn a g then readsOf i else [])

/-- What one member of a stream consumed of poisoned registers by an instruction that it has executed. -/
def State.consumedBy (before after : State) (i : Instr) (a : Agent) : State :=
  if (before.thread a).waiting.isSome || decide (before.thread a = after.thread a) then after
  else
    match (before.reading a i).find? fun n => (before.badRegs a).contains n with
    | none => after
    | some n => after.consumeReg a n

/-- What a turn's instruction consumed of poisoned registers (R296): of its thread's or its group's own, and of the strands' where its
thread reads the lanes. -/
def State.consumed (before after : State) (a : Agent) (i : Instr) : State :=
  let (p, r) := a.pr
  let w := before.row p r
  if w.bad.isEmpty && w.strands.all fun t => t.bad.isEmpty then after
  else
    match a with
    | .control .. =>
      let s := before.consumedBy after i a
      let c := before.vctx p r
      let (g, m, gd) := lanesRead i
      let on := fun e => match i with
        | .vext _ _ xb => decide (e = (before.xr a xb).toNat)
        | _ => guardedOn w.strands (c.wv w.width) gd e
      if (after.row p r).thread.waiting.isSome then s
      else s.laneCheck p r (badElem w.strands c (c.wv w.width) gd on g m)
    | .strand _ _ k => (before.groupOf p r k).foldl (fun s j => before.consumedBy s i (.strand p r j)) after

/-- The resident pack that owns a core-view address of a core, with its side and offset. -/
def State.ownerOf (s : State) (c addr : Nat) : Option (Nat × Bool × Nat) :=
  ((s.residents c []).find? fun p =>
    let k := s.pack p
    decide (k.base.toNat ≤ addr ∧ addr < k.base.toNat + k.spBytes)).map fun p =>
      (p, decide ((s.pack p).core ≠ c), addr - (s.pack p).base.toNat)

/-- An uncorrectable error in a core SRAM. -/
def State.sramPoison (s : State) (c : Nat) (e : SramError) : State :=
  match e.unit with
  | .controlReg p r reg =>
    if !(s.pack p).on c then s
    else
      s.poisonReg (.control p r) (if reg < 32 then .int (BitVec.ofNat 6 reg) else .pred (BitVec.ofNat 5 (reg - 32)))
  | .strandReg p r k reg =>
    if !(s.pack p).on c then s
    else s.poisonReg (.strand p r k) (if reg < 64 then .int (BitVec.ofNat 6 reg) else .pred (BitVec.ofNat 5 (reg - 64)))
  | .scratchpad addr =>
    match s.ownerOf c addr with
    | none => s
    | some (p, foll, off) =>
      (s.modSide p foll fun d => { d with spPoison := setIns d.spPoison (off / 8) }).scrubCheck p
        (syndrome 3 foll 0 (addr + (if foll then 0x300000 else 0)))
  | .accumulator p tile word foll =>
    if !(s.pack p).on c then s
    else (s.modSide p foll fun d => { d with accPoison := setIns d.accPoison (4096 * tile + word % 4096) }).scrubCheck p
      (syndrome 4 foll tile 0)
  | .l1 p _ pa =>
    if (s.pack p).on c then
      (s.modCore c fun k => { k with l1Bad := setIns k.l1Bad (pa / 8) }).scrubCheck p
        (syndrome 5 (decide ((s.pack p).core ≠ c)) 0 pa)
    else s
  | .icache => s
  | .datapath p r _ =>
    if (s.pack p).on c then s.machineCheck p r (syndrome 7 (decide ((s.pack p).core ≠ c)) 0 0) 0 else s

/-- SECDED_ERROR (R168, R183, R226, R229, R296, R298): the error is corrected and counted, or poisons; lanes and units are marked. A
parity error of the instruction cache refetches the line and is counted apart. -/
def execSecdedError (c : Nat) (e : SramError) (s : State) : Result State :=
  let s1 := if e.unit = .icache then s.modCore c fun k => { k with icacheErrors := k.icacheErrors + 1 }
    else s.countSram c e.correctable
  let s2 := if e.correctable then s1 else s1.sramPoison c e
  .next (match e.unit with
    | .strandReg p r k _ => s2.laneError c (laneAt (s.core c).healthy (s.row p r).width.grant.toNat k) e
    | .datapath _ _ lane => s2.laneError c lane e
    | .scratchpad addr => if !e.correctable && e.persistent then s2.markUnit c (addr / 65536) else s2
    | _ => s2)

/-! ## Lane groups (R169) -/

/-- Whether a strand of a resident row executes on a lane group. -/
def State.groupUsed (s : State) (c grp : Nat) : Bool :=
  (s.residents c []).any fun p => (s.pack p).rows.any fun w =>
    (List.range w.width.grant.toNat).any fun k => decide (laneAt (s.core c).healthy w.width.grant.toNat k / 8 = grp)

/-- LANE_GROUP_GATE: an unused group is gated. Only timing changes. -/
def execLaneGroupGate (c grp : Nat) (s : State) : Result State :=
  if s.groupUsed c grp then .next s
  else .next (s.modCore c fun k => { k with gated := k.gated ||| BitVec.ofNat 4 (2 ^ (grp % 4)) })

/-- LANE_GROUP_WAKE: the group wakes. -/
def execLaneGroupWake (c grp : Nat) (s : State) : Result State :=
  .next (s.modCore c fun k => { k with gated := k.gated &&& ~~~(BitVec.ofNat 4 (2 ^ (grp % 4))) })

/-! ## The L2 slice (R318, R324–R328) -/

/-- A transaction: a row's, or with no row its speculative pack's. -/
abbrev TxRef := Nat × Option Nat

/-- The transactions with tentative lines in a cluster's slice: where each stands and its lines (R315, R431). -/
def State.clusterTxs (s : State) (cluster : Nat) : List (TxRef × List Nat) :=
  let live := fun (t : Tx) => if t.doomed.isSome then [] else t.lines.map fun x => x.line
  (List.range s.packs.length).flatMap fun p =>
    let k := s.pack p
    if k.core / 4 ≠ cluster ∨ k.life ≠ .resident then []
    else
      match k.ospec with
      | some o => [((p, none), live o.tx)]
      | none => k.rows.mapIdx fun r w => ((p, some r), (w.tx.map live).getD [])

/-- Doom one transaction with a status unless it is doomed already (R432), its copy of a line poisoned where asked (R326). -/
def State.doomTx (s : State) (x : TxRef) (line status : Nat) (bad : Bool) : State :=
  let hit := fun (t : Tx) =>
    { t with lines := t.lines.map (fun y => if y.line = line then { y with bad := y.bad || bad } else y),
             doomed := some (t.doomed.getD (BitVec.ofNat 64 status)) }
  match x.2 with
  | none => s.modPack x.1 fun k => { k with ospec := k.ospec.map fun o => { o with tx := hit o.tx } }
  | some r => s.modRow x.1 r fun w => { w with tx := w.tx.map hit }

/-- The transactions of a cluster that hold a tentative copy of a line. -/
def State.holders (s : State) (cluster line : Nat) : List TxRef :=
  ((s.clusterTxs cluster).filter fun x => x.2.contains line).map fun x => x.1

/-- A bank loses a way: a set left with more tentative lines than it may hold loses the transaction of one of them to overflow
(R327), and another while it still holds too many. -/
def State.overflowSet (s : State) (cluster bank set : Nat) : Nat → State
  | 0 => s
  | n + 1 =>
    let l := (s.clusterTxs cluster).flatMap fun x =>
      (x.2.filter fun y => decide (bankOf y = bank ∧ setOf y = set)).map fun y => (x.1, y)
    if s.waysOf cluster bank - 4 < l.length then
      match l[s.pick (9300 + set) l.length]? with
      | some x => (s.doomTx x.1 x.2 2 false).overflowSet cluster bank set n
      | none => s
    else s
def State.overflowSets (s : State) (cluster bank : Nat) : State :=
  (List.range 256).foldl (fun (s : State) set => s.overflowSet cluster bank set 12) s

/-- A way meets a retirement condition (R327, R328). -/
def State.retireWay (s : State) (cluster bank way : Nat) : State :=
  if s.waysOf cluster bank ≤ 5 then
    (List.range 4).foldl (fun (s : State) i => s.markCore (4 * cluster + i))
      (s.modCluster cluster fun k => { k with failed := true })
  else (s.modCluster cluster fun k => { k with waysOut := setIns k.waysOut (16 * bank + way) }).overflowSets cluster bank

/-- A dirty or tentative copy of a line is lost (R326, R432): the transaction whose copy it was is doomed, or the line is
poisoned. Which copy the struck way held is a free choice among those the slice may hold. DESIGN CHOICE: so too where a tag error strikes,
of which R326 names only a dirty line (log 141). -/
def State.l2Poison (s : State) (cluster line : Nat) : State :=
  let l := s.holders cluster line
  match l[s.pick 9206 (l.length + 1)]? with
  | some x => s.doomTx x line 1 true
  | none => { s with poison := setIns s.poison line }

/-- Whether a way of a bank is in service. -/
def State.wayIn (s : State) (cluster bank way : Nat) : Bool :=
  decide (cluster < 64 ∧ bank < 32 ∧ way < 16) &&
  !((s.clusters.getD cluster Cluster.reset).waysOut.contains (16 * bank + way))

/-- L2_ERROR (R326–R328): in a way in service, which holds lines of its bank only. DESIGN CHOICE: errors in dirty data and in tags
count for their way too, as R326 says of the others (log 140). -/
def execL2Error (cluster bank way : Nat) (kind : L2ErrorKind) (line : Nat) (s : State) : Result State :=
  if !s.wayIn cluster bank way || decide (bankOf line ≠ bank) then .next s else
  let key := 16 * bank + way
  let s1 := s.modCluster cluster fun k => { k with errors := tset k.errors key ((tget k.errors key).getD 0 + 1) }
  .next (match kind with
    | .correctable =>
      let s2 := s1.modCluster cluster fun k => { k with recent := noteTime k.recent key s.cycle }
      if 16 ≤ timesOf (s2.clusters.getD cluster Cluster.reset).recent key then s2.retireWay cluster bank way else s2
    | .uncorrectableClean persistent => if persistent then s1.retireWay cluster bank way else s1
    | .uncorrectableDirty persistent =>
      let s2 := s1.l2Poison cluster line
      if persistent then s2.retireWay cluster bank way else s2
    | .tag dirty => if dirty then s1.l2Poison cluster line else s1)

/-- BENES_PARITY_ERROR (R318): the pass is repeated and the error counted; a second failure marks the core. -/
def execBenesParityError (c : Nat) (again : Bool) (s : State) : Result State :=
  let s1 := s.modCore c fun k => { k with networkErrors := k.networkErrors + 1 }
  .next (if again then s1.markCore c else s1)

/-- PAGE_WALK (R324, R325, R397–R402): a walk reads the tables, sets A and D as the access needs and fills the TLBs; a fault
changes nothing. -/
def execPageWalk (c ctx : Nat) (va : BitVec 64) (k : AccessKind) (user : Bool) (s : State) : Result State :=
  if !canonical va then .next s
  else
    match s.walkFill c ctx va k user with
    | .ok (_, s') => .next s'
    | .error _ => .next s

/-- A translation held in a cluster's TLBs is dropped from all of them, so that the next access it served walks anew (R325). -/
def State.dropTlb (s : State) (cluster : Nat) (e : TlbEntry) : State :=
  let same := fun (y : TlbEntry) => decide (y.part = e.part ∧ y.asid = e.asid ∧ y.page = e.page ∧ y.size = e.size)
  let keep := fun (l : List TlbEntry) => l.filter fun y => !same y
  let s := s.modCluster cluster fun k => { k with tlb := keep k.tlb }
  (List.range 4).foldl (fun (s : State) i => s.modCore (4 * cluster + i) fun k => { k with tlb := keep k.tlb }) s

/-- TLB_PARITY_ERROR (R325): the entry struck, of a cluster's L2 TLB, of its walker's cache, or, above them, of one of its cores' L1
TLBs, is dropped, its translation walked again, and the error counted. -/
def execTlbParityError (cluster idx : Nat) (s : State) : Result State :=
  let k := s.clusters.getD cluster Cluster.reset
  let i := idx - l2TlbRoom
  let j := i - walkRoom
  let count := fun (s : State) => s.modCluster cluster fun k => { k with tlbErrors := k.tlbErrors + 1 }
  let drop := fun (e : Option TlbEntry) => match e with
    | none => s
    | some e => count (s.dropTlb cluster e)
  .next (if idx < l2TlbRoom then drop k.tlb[idx]?
    else if i < walkRoom then
      (if i < k.walks.length then (count s).modCluster cluster fun k => { k with walks := k.walks.eraseIdx i } else s)
    else if j < 4 * l1TlbRoom then drop ((s.core (4 * cluster + j / l1TlbRoom)).tlb[j % l1TlbRoom]?)
    else s)

/-! ## HBM (R408–R411, R416) -/

/-- The key of a channel. -/
def channelKey (c : Nat × Nat) : Nat := 32 * c.1 + c.2

/-- Poison one old version of a line. -/
def State.poisonOld (s : State) (line i : Nat) : State :=
  match tget s.lines line with
  | none => s
  | some v => { s with lines := tset s.lines line { v with chain := v.chain.modify i fun o => { o with poisoned := true } } }

/-- HBM_ERROR (R408, R423): corrected, rebuilt, or poison; counted per channel. In the memory-side cache a dirty line is poisoned and a
clean one read again. A rebuild is impossible once another channel of
the line's group has failed. -/
def execHbmError (line : Nat) (kind : HbmErrorKind) (s : State) : Result State :=
  let c := lineChannel line
  let key := channelKey c
  let s1 := { s with channelCounts := tset s.channelCounts key ((tget s.channelCounts key).getD 0 + 1) }
  let s2 := { s1 with channelErrors := noteTime s1.channelErrors key s.cycle }
  let lost := s.failedChannels.any fun d => decide (d.2 = c.2 ∧ d.1 ≠ c.1)
  .next (match kind with
    | .correctable => s1
    | .uncorrectable => if lost then { s2 with poison := setIns s2.poison line } else s2
    | .unrebuildable => { s2 with poison := setIns s2.poison line }
    | .oldVersion i => s.poisonOld line i
    | .cached dirty => if dirty then { s with poison := setIns s.poison line } else s)

/-- A channel fails (R409, R410). -/
def State.failChannel (s : State) (c : Nat × Nat) : State :=
  if s.failedChannels.contains c then s else { s with failedChannels := s.failedChannels ++ [c] }

/-- CHANNEL_FAIL (R409): 16 uncorrectable errors within the span. -/
def execChannelFail (stack chan : Nat) (s : State) : Result State :=
  if 16 ≤ timesOf s.channelErrors (channelKey (stack, chan)) then .next (s.failChannel (stack, chan)) else .next s

/-- COUNTED_LINE_EVICTION (R416): the line is written back normally and its count is discarded. -/
def execCountedLineEviction (line : Nat) (s : State) : Result State :=
  .next (if (tget s.counted line).isSome then s.writeBack line else s)

/-- THERMAL_LIMIT (R493): the die lowers its clock; CYCLE keeps its rate. -/
def execThermalLimit (d : Nat) (s : State) : Result State := .next (s.modDie d fun x => { x with slowed := true })

end Sys2Proof.Machine
end

