-- ==== Sys2Proof/Machine/Command.lean ====
section
/-! DEFINITION. How a firmware command is taken and answered (R479, R480): its issuer, the executive's mailbox, the response. -/
namespace Sys2Proof

/-- Whether an issuer is the host; the owner of the command's partition; its executive (R480). -/
def Cmd.byHost (c : Cmd) : Bool := decide (c.issuer = .host)
def Cmd.byOwner (c : Cmd) : Bool := decide (c.issuer = .owner c.part)
def Cmd.byExec (c : Cmd) : Bool := decide (c.issuer = .exec c.part)

/-- Whether a command is well formed (R479): its LENGTH, PART and zero bytes, and its payload. -/
def Cmd.wellFormed (c : Cmd) : Bool :=
  decide (c.length % 8 = 0 ∧ 32 ≤ c.length ∧ c.length ≤ 65536 ∧ c.part ≤ 16 ∧ c.zero = 0) && c.formed

end Sys2Proof

namespace Sys2Proof.Machine

/-- The status codes of a response (R479). -/
def stOk : Nat := 0
def stFormat : Nat := 1
def stDenied : Nat := 2
def stNoResource : Nat := 3
def stBusy : Nat := 4
def stSignature : Nat := 5
def stNotFound : Nat := 6

/-- What a command leaves: status, payload and state. -/
abbrev Answer := Nat × List (BitVec 64) × State

/-- The bytes of a response, header and payload (R479). -/
def responseLength (payload : List (BitVec 64)) : Nat := 32 + 8 * payload.length

/-- A response's message (R479): header and payload words. -/
def responseBytes (opcode part status : Nat) (tag : BitVec 64) (payload : List (BitVec 64)) : List (BitVec 8) :=
  leBytes 4 opcode ++ leBytes 4 (responseLength payload) ++ leBytes 8 tag.toNat ++ leBytes 2 part ++ leBytes 2 status ++
    List.replicate 12 0 ++ payload.flatMap fun w => leBytes 8 w.toNat

/-- Whether the executive's mailbox doorbell stands (R480). -/
def State.mailboxFull (s : State) (part : Nat) : Bool :=
  match s.partOf part with
  | none => false
  | some p => decide (leNat (memBytes s.mem p.mailbox 8) ≠ 0)

/-- Answer a command (R479, R480): in the executive's mailbox page, whose doorbell is then cleared, or to the session. -/
def State.respond (s : State) (cmd : Cmd) (opcode status : Nat) (payload : List (BitVec 64)) : State :=
  match cmd.issuer with
  | .exec part =>
    match s.partOf part with
    | none => s
    | some p =>
      let b := responseBytes opcode cmd.part status cmd.tag payload
      { s with mem := memPut (memPut s.mem (p.mailbox + 64) (b.take (4096 - 64))) p.mailbox (List.replicate 8 0),
               voided := s.voided.filter fun x => decide (x.1 ≠ part) }
  | _ => { s with responses := s.responses ++
      [{ opcode := opcode, length := responseLength payload, tag := cmd.tag, part := cmd.part, status := status,
         payload := payload }] }

/-- Whether a header in memory is that of a command (R479); its STATUS field is the response's. -/
def State.headerAt (s : State) (at_ : Nat) (c : Cmd) (opcode : Nat) : Bool :=
  let b := memBytes s.mem at_ 32
  let field := fun (off n : Nat) => leNat ((b.drop off).take n)
  decide (field 0 4 = opcode ∧ field 4 4 = c.length ∧ field 8 8 = c.tag.toNat ∧ field 0x10 2 = c.part ∧ field 0x14 12 = c.zero.toNat)

/-- Whether the command has been issued: the host's and the owner's have; the executive's has once its doorbell stands, and is
the one at offset 64 of its page (R480). -/
def State.cmdPending (s : State) (c : Cmd) (opcode : Nat) : Bool :=
  match c.issuer with
  | .exec part => s.mailboxFull part && (s.partOf part).any fun p => s.headerAt (p.mailbox + 64) c opcode
  | _ => s.ready

/-- Take a command (R479, R480): a malformed one is answered with status 1 and one from another issuer with status 2, and
neither does anything. -/
def command (c : Cmd) (opcode : Nat) (allowed : Bool) (f : State → Answer) (s : State) : Result State :=
  if !s.cmdPending c opcode then .next s
  else if !c.wellFormed then .next (s.respond c opcode stFormat [])
  else if !allowed then .next (s.respond c opcode stDenied [])
  else
    let (st, payload, s') := f s
    .next (s'.respond c opcode st payload)

/-- An answer with no payload. -/
def refuse (st : Nat) (s : State) : Answer := (st, [], s)
def accept (s : State) : Answer := (stOk, [], s)

/-- The partition a command names, which must exist. -/
def withPart (c : Cmd) (f : Partition → State → Answer) (s : State) : Answer :=
  match s.partOf c.part with
  | none => refuse stNotFound s
  | some p => f p s

/-- A context of the command's partition. -/
def withCtx (c : Cmd) (ctx : Nat) (f : Context → State → Answer) (s : State) : Answer :=
  match s.ctxOf ctx with
  | none => refuse stNotFound s
  | some k => if k.part = c.part then f k s else refuse stDenied s

end Sys2Proof.Machine
end

