-- ==== Sys2Proof/Machine/Debug.lean ====
section
/-! DEFINITION. Debug rights and their revocation (R455, R465), the debug commands (R456–R464), and the trace and sampling
records (R463, R464). -/
namespace Sys2Proof.Machine

/-! ## Rights -/

/-- Change every row of a context. -/
def State.modContextRows (s : State) (ctx : Nat) (f : Row → Row) : State :=
  let g := fun (k : Pack) => if k.ctx = ctx then { k with rows := k.rows.map f } else k
  { s with packs := s.packs.map g }

/-- Change a context. -/
def State.modContext (s : State) (ctx : Nat) (f : Context → Context) : State :=
  { s with contexts := s.contexts.map fun c => if c.num = ctx then f c else c }

/-- DEBUG_GRANT (R455, R480): the right changes at once. -/
def execDebugGrant (cmd : Cmd) (ctx : Nat) (s : State) : Result State :=
  command cmd 0x08 cmd.byOwner (withCtx cmd ctx fun _ s =>
    let s1 := s.modContext ctx fun c => { c with debugRight := true }
    accept (s1.modContextRows ctx fun w => { w with dbg := { w.dbg with right := true } })) s

/-- Release a row from a debug halt (R460): its writes take effect, in the order of R114; those of a row whose pack is saved take it as the
row resumes (R465). -/
def State.releaseHalt (s : State) (p r : Nat) : State :=
  if (s.row p r).dbg.halted then
    let s := s.modRow p r fun w => { w with dbg := { w.dbg with halted := false } }
    if (s.pack p).life = .resident then s.applyWrites p r else s
  else s

/-- The halts of a context's rows are released. -/
def State.releaseHalts (s : State) (ctx : Nat) : State :=
  (List.range s.packs.length).foldl (fun (s : State) p =>
    if (s.pack p).ctx = ctx then
      (List.range (s.pack p).rows.length).foldl (fun (s : State) r => s.releaseHalt p r) s
    else s) s

/-- Zero a buffer. -/
def State.zeroBuffer (s : State) (base size : Nat) : State :=
  { s with mem := memPut s.mem base (List.replicate size 0) }

/-- What a core holds under a context's right is discarded, its buffers zeroed (R465). -/
def State.dropDebug (s : State) (ctx : Nat) : State :=
  (List.range s.cores.length).foldl (fun (s : State) c =>
    let k := s.core c
    let s1 := match k.trace with
      | some t => if t.ctx = ctx then s.zeroBuffer t.set.base t.set.size else s
      | none => s
    let s2 := match k.sample with
      | some m => if m.ctx = ctx then s1.zeroBuffer m.set.base m.set.size else s1
      | none => s1
    s2.modCore c fun k =>
      { k with comparators := k.comparators.map fun x => x.filter fun y => decide (y.1 ≠ ctx),
               trace := k.trace.filter fun t => decide (t.ctx ≠ ctx),
               sample := k.sample.filter fun m => decide (m.ctx ≠ ctx) }) s

/-- The debug command that waits in an executive's mailbox, if it is on the context, is discarded (R465): once taken it does nothing and is
refused. The payload's layout is not given, so that the context it is on shows only then (log 134). -/
def State.dropCommand (s : State) (ctx : Nat) : State :=
  match (s.ctxOf ctx).bind fun c => s.partOf c.part with
  | none => s
  | some p =>
    if s.mailboxFull p.id && decide (leNat (memBytes s.mem (p.mailbox + 64) 4) = 0x0A) then { s with voided := (p.id, ctx) :: s.voided }
    else s

/-- The revocation of a context's right (R465), at one instant. -/
def State.revokeDebug (s : State) (ctx : Nat) : State :=
  let s1 := ((s.releaseHalts ctx).dropDebug ctx).dropCommand ctx
  let s2 := s1.modContext ctx fun c => { c with debugRight := false }
  (s2.modContextRows ctx fun w =>
    { w with dbg := { w.dbg with right := false, catch_ := false, halted := false } })

/-- DEBUG_REVOKE (R465, R480). -/
def execDebugRevoke (cmd : Cmd) (ctx : Nat) (s : State) : Result State :=
  command cmd 0x09 cmd.byOwner (withCtx cmd ctx fun _ s => accept (s.revokeDebug ctx)) s

/-! ## Debug commands -/

/-- A debug command on a context, whose right must stand and have stood since the command was issued (R465). -/
def withRight (cmd : Cmd) (ctx : Nat) (f : State → Answer) : State → Answer :=
  withCtx cmd ctx fun c s => if c.debugRight && !s.voided.contains (c.part, ctx) then f s else refuse stDenied s

/-- A debug command on a row of a pack that has not ended. -/
def withRow (cmd : Cmd) (p r : Nat) (f : State → Answer) (s : State) : Answer :=
  if s.packs.length ≤ p ∨ (s.pack p).rows.length ≤ r then refuse stNotFound s
  else withRight cmd (s.pack p).ctx f s

/-- Whether words are an in-order memory form (R192). -/
def inOrderEnc (e : Enc) : Bool :=
  (decide (e.op = 0x49) && decide (e.f ≤ 3)) || (decide (e.op = 0x4A) && decide (e.f = 0)) ||
  (decide (e.op = 0x4B) && decide (e.f = 0 ∨ e.f = 1 ∨ e.f = 4 ∨ e.f = 5 ∨ e.f = 6))

/-- The fields of the instruction at a code address of a context, if it can be read (R45, R46, R74). -/
def State.encAt (s : State) (ctx : Nat) (pc : BitVec 48) : Option Enc :=
  if pc.getLsbD 0 then
    match s.imgRead ctx 0 (va64 pc - 1) 4 with
    | none => none
    | some b =>
      let w := BitVec.ofNat 32 (leNat b)
      match (if w.getLsbD 2 then s.imgRead ctx 0 (va64 pc + 3) 4 else some []) with
      | none => none
      | some x => (formatOf ((w >>> 25).setWidth 7)).bind fun fmt => adtanFields fmt w (BitVec.ofNat 32 (leNat x))
  else
    match s.imgRead ctx 0 (va64 (lineAddr pc)) 64 with
    | none => none
    | some b =>
      let slot := pc.toNat / 2 % 32
      if slot = 0 ∨ lineCount b < slot then none
      else
        let raw := slotWords b slot
        let w : Words := { head := raw.setWidth 16, w1 := (raw >>> 16).setWidth 16, w2 := (raw >>> 32).setWidth 16,
                           w3 := (raw >>> 48).setWidth 16 }
        (formatOf ((w.head >>> 6).setWidth 7)).map fun fmt => fieldsOf fmt w

/-- Whether a comparator may be set (R456): ELEM other than ALL only at an in-order form. -/
def State.comparatorOk (s : State) (ctx : Nat) (c : Comparator) : Bool :=
  match c.elem with
  | none => true
  | some e => decide (e ≤ 8191) && (s.encAt ctx c.addr).any inOrderEnc

/-- DEBUG_CMD, a comparator (R456). -/
def execDebugSetComparator (cmd : Cmd) (ctx core idx : Nat) (cmp : Option Comparator) (s : State) : Result State :=
  command cmd 0x0A cmd.byExec (withRight cmd ctx fun s =>
    if 256 ≤ core ∨ 8 ≤ idx then refuse stNotFound s
    else if !(cmp.all fun c => s.comparatorOk ctx c) then refuse stFormat s
    else accept (s.modCore core fun k => { k with comparators := k.comparators.set idx (cmp.map fun c => (ctx, c)) })) s

/-- DEBUG_CMD, a halt at the row's next run boundary (R460). -/
def execDebugHalt (cmd : Cmd) (p r : Nat) (s : State) : Result State :=
  command cmd 0x0A cmd.byExec (withRow cmd p r fun s =>
    accept (s.modRow p r fun w => { w with dbg := { w.dbg with halted := true } })) s

/-- DEBUG_CMD, a release (R460). -/
def execDebugRelease (cmd : Cmd) (p r : Nat) (s : State) : Result State :=
  command cmd 0x0A cmd.byExec (withRow cmd p r fun s => accept (s.releaseHalt p r)) s

/-- Whether a row stands halted at a run boundary of each of its streams; a handler has stopped the strands' (R113). -/
def Row.atHalt (w : Row) : Bool :=
  w.dbg.halted && !w.thread.midRun && (w.status.intrap || w.strands.all fun t => !t.thread.midRun)

/-- The state with a row as its pack's image has it, where the pack is saved (R295, R460). -/
def State.haltView (s : State) (p r : Nat) : State :=
  let k := s.pack p
  match k.saved with
  | none => s
  | some v =>
    if k.life = .resident then s
    else
      match s.imgRead k.ctx k.core (va64 k.kaddr) v.size with
      | none => s
      | some b => s.resumeRow p r b v.width (s.row p r).context

/-- A halted row as its debugger reads it: with the debugger's own writes (R460). -/
def State.debugView (s : State) (p r : Nat) : State :=
  let (s, edits) := (s.haltView p r).debugPuts p r
  s.modRow p r fun w => { w with strands := w.strands.mapIdx fun k t => t.withEdit ((tget edits k).getD StrandEdit.none) }

/-- A halted row's strand part as its section names it (R293): everything, with the queue as it stands. -/
def Row.livePart (w : Row) : RowPart :=
  { strands := true, discard := false, entry := (w.recorded.map fun x => x.entry).getD 0, qcount := w.queueCount, at_ := 0 }

/-- A debugger's write is kept until release (R460). -/
def State.noteWrite (s : State) (p r : Nat) (acc : DebugAccess) : Answer :=
  accept (s.modRow p r fun w => { w with debugWrites := w.debugWrites ++ [acc] })

/-- The word at an offset of a queued-instruction record, whose layout is private (R294): `n` names the entry. -/
def queuedWord (n off : Nat) : BitVec 64 := leWord ((List.range 8).map fun i => Config.queuedRecordByte n (off + i))

/-- Read or write a word of a halted row's state in the layouts of R293 and R294. DESIGN CHOICE: a read sees the writes made
in the same halt; a queued-instruction record takes only its own words, since it carries its own check (log 127). -/
def State.debugAccess (s : State) (p r : Nat) (acc : DebugAccess) : Answer :=
  let w := s.row p r
  match acc with
  | .readRow off =>
    if off % 8 ≠ 0 ∨ 4096 ≤ off then refuse stFormat s
    else (stOk, [BitVec.ofNat 64 ((s.debugView p r).rowWord p r w.livePart (off / 8))], s)
  | .writeRow off _ =>
    if off % 8 ≠ 0 ∨ 4096 ≤ off then refuse stFormat s
    else if off = 0x208 then accept s
    else s.noteWrite p r acc
  | .readStrand k off =>
    if off % 8 ≠ 0 ∨ 1024 ≤ off then refuse stFormat s
    else if w.strands.length ≤ k then refuse stNotFound s
    else (stOk, [BitVec.ofNat 64 (((s.debugView p r).strand p r k).slotWord (off / 8))], s)
  | .writeStrand k off _ =>
    if off % 8 ≠ 0 ∨ 1024 ≤ off then refuse stFormat s
    else if w.strands.length ≤ k then refuse stNotFound s
    else s.noteWrite p r acc
  | .readLink q1 j off =>
    if off % 8 ≠ 0 ∨ 64 ≤ off then refuse stFormat s
    else if w.strands.length < j then refuse stNotFound s
    else (stOk, [linkWord (((s.debugView p r).row p r).link q1 j) (off / 8)], s)
  | .writeLink _ j off _ =>
    if off % 8 ≠ 0 ∨ 64 ≤ off then refuse stFormat s
    else if w.strands.length < j then refuse stNotFound s
    else s.noteWrite p r acc
  | .readQueued i off =>
    if off % 8 ≠ 0 ∨ 256 ≤ off then refuse stFormat s
    else if w.queueCount ≤ i then refuse stNotFound s
    else (stOk, [queuedWord (1000 * w.issueSeq + i) off], s)
  | .writeQueued i off v =>
    if off % 8 ≠ 0 ∨ 256 ≤ off then refuse stFormat s
    else if w.queueCount ≤ i then refuse stNotFound s
    else if v = queuedWord (1000 * w.issueSeq + i) off then accept s
    else refuse stDenied s

/-- DEBUG_CMD, state access (R460): the row must be halted. -/
def execDebugStateAccess (cmd : Cmd) (p r : Nat) (acc : DebugAccess) (s : State) : Result State :=
  command cmd 0x0A cmd.byExec (withRow cmd p r fun s =>
    if (s.row p r).atHalt then s.debugAccess p r acc else refuse stBusy s) s

/-- The records of a history that a response holds, ending with the newest (R462): the executive's mailbox page has room for 125
after its doorbell line and the header (R479, R480). -/
def newest (l : List HistRecord) : List HistRecord := l.drop (l.length - 125)

/-- DEBUG_CMD, the vector history (R461, R462): the records in SEQ order, the row undisturbed. -/
def execDebugHistoryRead (cmd : Cmd) (p r : Nat) (s : State) : Result State :=
  command cmd 0x0A cmd.byExec (withRow cmd p r fun s => (stOk, (newest (s.row p r).history).flatMap fun x => x.words, s)) s

/-- Whether a buffer lies in the partition's memory. -/
def State.bufferOwned (s : State) (part base size : Nat) : Bool :=
  decide (base + size ≤ localEnd) &&
  (List.range ((base + size) / 2 ^ 21 - base / 2 ^ 21 + 1)).all fun i =>
    decide (base + size ≤ (base / 2 ^ 21 + i) * 2 ^ 21) || s.owned part ((base / 2 ^ 21 + i) * 2 ^ 21)

/-- DEBUG_CMD, the trace comparator and its buffer (R463). -/
def execDebugTraceSet (cmd : Cmd) (ctx core : Nat) (set : Option TraceSet) (s : State) : Result State :=
  command cmd 0x0A cmd.byExec (withRight cmd ctx fun s =>
    if 256 ≤ core then refuse stNotFound s
    else if !(set.all fun t => s.bufferOwned cmd.part t.base t.size) then refuse stDenied s
    else accept (s.modCore core fun k =>
      { k with trace := set.map fun t => { ctx := ctx, set := t, written := 0, overflow := false } })) s

/-- DEBUG_CMD, the sampling period and its buffer (R464). -/
def execDebugSampleSet (cmd : Cmd) (ctx core : Nat) (set : Option SampleSet) (s : State) : Result State :=
  command cmd 0x0A cmd.byExec (withRight cmd ctx fun s =>
    if 256 ≤ core then refuse stNotFound s
    else if !(set.all fun t => decide (2 ^ 4 ≤ t.period ∧ t.period ≤ 2 ^ 20)) then refuse stFormat s
    else if !(set.all fun t => s.bufferOwned cmd.part t.base t.size) then refuse stDenied s
    else accept (s.modCore core fun k =>
      { k with sample := set.map fun t => { ctx := ctx, set := t, count := 0, due := [], written := 0 } })) s

/-! ## Records -/

/-- The four counts of a summary (R463). -/
def Summary.word (m : Summary) : BitVec 64 :=
  BitVec.ofNat 64 (m.runs % 2 ^ 16 + m.instrs % 2 ^ 16 * 2 ^ 16 + m.vectors % 2 ^ 16 * 2 ^ 32 + m.waits % 2 ^ 16 * 2 ^ 48)

/-- TRACE_SUMMARY (R463): a row with a right that is not the full-trace row writes its counts; the second word is not given. -/
def execTraceSummary (p r : Nat) (s : State) : Result State :=
  let c := (s.pack p).core
  let w := s.row p r
  if !s.lanesRun p r || !w.dbg.right || decide (s.fullTrace c = some (p, r)) then .next s
  else
    match (s.core c).trace with
    | none => .next s
    | some t =>
      if t.overflow then .next s
      else
        let s0 := s.modRow p r fun w => { w with summary := { runs := 0, instrs := 0, vectors := 0, waits := 0 } }
        .next (s0.traceRecord c t [w.summary.word, Config.freeWord s.nonce 9400])

/-- A lane group's entry of a sample (R464): the counts of cycles as measured, the elements completed there; 0 where the group
holds no element of the instruction. -/
def sampleEntry (mark timing : BitVec 64) : BitVec 64 :=
  if mark.getLsbD 63 then (timing &&& ~~~0xFFFF00000000#64) ||| ((mark &&& 0xFFFF#64) <<< 32) else 0

/-- SAMPLE_RECORD (R464): the oldest sample due is written with its four lane-group entries. -/
def execSampleRecord (c : Nat) (entries : List (BitVec 64)) (s : State) : Result State :=
  match (s.core c).sample with
  | none => .next s
  | some m =>
    match m.due with
    | [] => .next s
    | h :: l =>
      let words := h.take 4 ++ (List.range 4).map fun i => sampleEntry (h.getD (4 + i) 0) (entries.getD i 0)
      match s.appendRecord m.set.base m.set.size m.written words with
      | some s' => .next (s'.modCore c fun k => { k with sample := some { m with due := l, written := m.written + 64 } })
      | none => .next (s.modCore c fun k => { k with sample := some { m with due := l } })

end Sys2Proof.Machine
end

