-- ==== Sys2Proof/Machine/Patch.lean ====
section
/-! DEFINITION. The patch table (R78–R80): its layout, what matches, its substitutes, which images a load accepts; and whether
a thread may issue. -/
namespace Sys2Proof.Machine

/-! ## The patch table -/

/-- The 16-bit word at a byte offset of the patch image (R78). -/
def patchWord (img : List (BitVec 8)) (off : Nat) : BitVec 16 := lineWord (img.drop off) 0

/-- Whether entry `e` of the patch table matches (R79). -/
def patchMatches (img : List (BitVec 8)) (e : Nat) (strand : Bool) (head w1 : BitVec 16) : Bool :=
  let b := img.drop (128 * e)
  let apply := b.getD 9 0
  decide (b.getD 8 0 ≠ 0) && (if strand then apply.getLsbD 0 else apply.getLsbD 1) &&
  decide ((head ^^^ patchWord b 0) &&& patchWord b 4 &&& ~~~0x2000#16 = 0) &&
  decide ((w1 ^^^ patchWord b 2) &&& patchWord b 6 = 0)

/-- The first entry that matches (R79). -/
def patchFind (img : List (BitVec 8)) (strand : Bool) (head w1 : BitVec 16) : Option Nat :=
  if img.isEmpty then none else (List.range 256).find? fun e => patchMatches img e strand head w1

/-- COUNT of an entry (R78). -/
def patchCount (img : List (BitVec 8)) (e : Nat) : Nat := (img.getD (128 * e + 8) 0).toNat

/-- Substitute `j` of an entry with the fields CARRY copies from the matched words (R78). -/
def patchSub (img : List (BitVec 8)) (e j : Nat) (m : BitVec 64) : BitVec 64 :=
  let b := img.drop (128 * e + 16 + 12 * j)
  let carry := patchWord b 8
  let mh := m.setWidth 16
  let m1 := (m >>> 16).setWidth 16
  let pick := fun (c : Bool) (mask new old : BitVec 16) => if c then (old &&& ~~~mask) ||| (new &&& mask) else old
  let head := pick (carry.getLsbD 0) 0x003F mh (patchWord b 0)
  let w1 := pick (carry.getLsbD 1) 0xFC00 m1 (patchWord b 2)
  let w1 := pick (carry.getLsbD 2) 0x03F0 m1 w1
  let w1 := pick (carry.getLsbD 5) 0x003F m1 w1
  let w2 := if carry.getLsbD 3 then (m >>> 32).setWidth 16 else patchWord b 4
  let w3 := if carry.getLsbD 4 then (m >>> 48).setWidth 16 else patchWord b 6
  w3 ++ w2 ++ w1 ++ head

/-- The R68 layout of native words. -/
def wordsRaw (w : Words) : BitVec 64 := w.w3 ++ w.w2 ++ w.w1 ++ w.head

/-! ## Legal substitutes (R53–R58, R69–R72, R78) -/

/-- The operand checks of R72 beside the range of a field. -/
inductive OperandCheck where
  | rm | scopeS | scopeY | scopeD | types | stages | xb | old
  deriving DecidableEq, Repr

/-- What the encoding of an instruction admits: its kind, the bits each field may have, whether it has a guard and an
exception pair, its operand checks. -/
structure Shape where
  kind : Kind
  d : Nat := 0
  a : Nat := 0
  b : Nat := 0
  c : Nat := 0
  m : Nat := 0
  s : Nat := 0
  y : Nat := 0
  imm : Nat := 0
  guard : Bool := false
  exc : Bool := false
  checks : List OperandCheck := []
  deriving DecidableEq, Repr

/-- The shape of each function of each major (R69); major 0x00 numbers its functions in D. -/
def shapeOf (op : BitVec 7) (f : Nat) : Option Shape :=
  match op.toNat with
  | 0x00 =>
    if f = 0 then some { kind := .s }
    else if f = 1 then some { kind := .t }
    else if f = 2 then some { kind := .s }
    else if f = 3 then some { kind := .t }
    else if f = 4 then some { kind := .c }
    else if 5 ≤ f ∧ f ≤ 6 then some { kind := .s }
    else if 7 ≤ f ∧ f ≤ 10 then some { kind := .c }
    else none
  | 0x01 =>
    if f ≤ 15 then some { kind := .s, d := 0x3f, a := 0x3f, b := 0x3f }
    else none
  | 0x02 =>
    if f ≤ 7 then some { kind := .s, d := 0x3f, a := 0x3f, b := 0x3f }
    else none
  | 0x03 =>
    if f ≤ 8 then some { kind := .s, d := 0x3f, a := 0x3f }
    else none
  | 0x04 =>
    if f ≤ 3 then some { kind := .s, d := 0x3f, a := 0x3f, imm := 0x3fffff }
    else if 4 ≤ f ∧ f ≤ 7 then some { kind := .s, d := 0x3f, a := 0x3f, imm := 0x3f }
    else none
  | 0x05 =>
    if f = 0 then some { kind := .s, d := 0x3f, imm := 0x3fffffffff }
    else none
  | 0x06 =>
    if f = 0 then some { kind := .s, d := 0x3f, imm := 0x3fffff }
    else none
  | 0x07 =>
    if f = 0 then some { kind := .s, d := 0x3f, a := 0x3f, b := 0x3f, guard := true }
    else none
  | 0x08 =>
    if f = 0 then some { kind := .s, d := 0x3f, a := 0x3f, b := 0x3f, s := 0x3, guard := true }
    else none
  | 0x09 =>
    if f ≤ 5 then some { kind := .s, d := 0x1f, a := 0x3f, b := 0x3f }
    else none
  | 0x0A =>
    if f ≤ 5 then some { kind := .s, d := 0x1f, a := 0x3f, imm := 0x3fffff }
    else none
  | 0x0B =>
    if f ≤ 3 then some { kind := .s, d := 0x1f, a := 0x1f, b := 0x1f }
    else if 4 ≤ f ∧ f ≤ 5 then some { kind := .s, d := 0x1f, a := 0x1f }
    else none
  | 0x10 =>
    if f ≤ 6 then some { kind := .s, d := 0x3f, a := 0x3f, imm := 0x3fffff }
    else none
  | 0x11 =>
    if f ≤ 3 then some { kind := .s, d := 0x3f, a := 0x3f, imm := 0x3fffff }
    else none
  | 0x12 =>
    if f ≤ 3 then some { kind := .s, d := 0x3f, a := 0x3f, imm := 0x3fffff }
    else none
  | 0x13 =>
    if f ≤ 3 then some { kind := .s, d := 0x3f, a := 0x3f, imm := 0x3fffff }
    else none
  | 0x14 =>
    if f ≤ 3 then some { kind := .s, d := 0x3f, a := 0x3f, imm := 0x3fffff }
    else none
  | 0x18 =>
    if f = 0 then some { kind := .s, a := 0x3f, imm := 0x3fffff }
    else none
  | 0x19 =>
    if f = 0 then some { kind := .s, imm := 0x3fffffffff }
    else if f = 1 then some { kind := .s, d := 0x3f, imm := 0x3fffffffff }
    else if f = 2 then some { kind := .s, a := 0x3f }
    else if f = 3 then some { kind := .s, d := 0x3f, a := 0x3f }
    else if f = 4 then some { kind := .s, a := 0x3f }
    else none
  | 0x1A =>
    if f = 0 then some { kind := .t, imm := 0x3fffffffff }
    else if f = 1 then some { kind := .t, a := 0x3f }
    else if f = 2 then some { kind := .t, imm := 0x3fffffffff }
    else if f = 3 then some { kind := .t, a := 0x3f }
    else none
  | 0x1B =>
    if f ≤ 3 then some { kind := .t, d := 0x3f }
    else if 4 ≤ f ∧ f ≤ 7 then some { kind := .c, d := 0x1f }
    else none
  | 0x20 =>
    if f ≤ 3 then some { kind := .s, s := 0xf, d := 0x3f, a := 0x3f, b := 0x3f, guard := true, exc := true, checks := [.rm] }
    else if 4 ≤ f ∧ f ≤ 5 then some { kind := .s, d := 0x3f, a := 0x3f, b := 0x3f, guard := true, exc := true }
    else if f = 6 then some { kind := .s, s := 0xf, d := 0x3f, a := 0x3f, guard := true, exc := true, checks := [.rm] }
    else if 7 ≤ f ∧ f ≤ 8 then some { kind := .s, d := 0x3f, a := 0x3f, guard := true, exc := true }
    else none
  | 0x21 =>
    if f ≤ 3 then some { kind := .s, s := 0xf, d := 0x3f, a := 0x3f, b := 0x3f, guard := true, exc := true, checks := [.rm] }
    else if 4 ≤ f ∧ f ≤ 5 then some { kind := .s, d := 0x3f, a := 0x3f, b := 0x3f, guard := true, exc := true }
    else if f = 6 then some { kind := .s, s := 0xf, d := 0x3f, a := 0x3f, guard := true, exc := true, checks := [.rm] }
    else if 7 ≤ f ∧ f ≤ 8 then some { kind := .s, d := 0x3f, a := 0x3f, guard := true, exc := true }
    else none
  | 0x22 =>
    if f ≤ 2 then some { kind := .s, s := 0xf, d := 0x3f, a := 0x3f, b := 0x3f, c := 0x3f, guard := true, exc := true, checks := [.rm] }
    else if 4 ≤ f ∧ f ≤ 6 then some { kind := .s, s := 0xf, d := 0x3f, a := 0x3f, b := 0x3f, c := 0x3f, guard := true, exc := true, checks := [.rm] }
    else none
  | 0x23 =>
    if f ≤ 7 then some { kind := .s, d := 0x1f, a := 0x3f, b := 0x3f }
    else none
  | 0x24 =>
    if f ≤ 15 then some { kind := .s, s := 0xf, d := 0x3f, a := 0x3f, guard := true, exc := true, checks := [.rm] }
    else none
  | 0x28 =>
    if f ≤ 1 then some { kind := .s, d := 0x3f, a := 0x3f, b := 0x3f }
    else if f = 2 then some { kind := .s, a := 0x3f, b := 0x3f }
    else if f = 3 then some { kind := .s, d := 0x3f }
    else none
  | 0x30 =>
    if f ≤ 1 then some { kind := .c, imm := 0x3fffffffff }
    else if 2 ≤ f ∧ f ≤ 3 then some { kind := .c, a := 0x1f }
    else none
  | 0x31 =>
    if f = 0 then some { kind := .c, d := 0x1f, a := 0x1f, imm := 0x1f }
    else none
  | 0x32 =>
    if f = 0 then some { kind := .c, d := 0x1f, a := 0x1f }
    else none
  | 0x40 =>
    if f ≤ 13 then some { kind := .c, d := 0x3f, a := 0x3f, b := 0x3f, guard := true }
    else if 14 ≤ f ∧ f ≤ 15 then some { kind := .c, d := 0x3f, a := 0x3f, b := 0x3f, c := 0x1f, m := 0x1f, guard := true }
    else none
  | 0x41 =>
    if f ≤ 13 then some { kind := .c, d := 0x3f, a := 0x3f, b := 0x1f, guard := true }
    else if 14 ≤ f ∧ f ≤ 15 then some { kind := .c, d := 0x3f, a := 0x3f, b := 0x1f, c := 0x1f, m := 0x1f, guard := true }
    else none
  | 0x42 =>
    if f ≤ 3 then some { kind := .c, s := 0xf, y := 0x1, d := 0x3f, a := 0x3f, b := 0x3f, guard := true, exc := true, checks := [.rm] }
    else if 4 ≤ f ∧ f ≤ 5 then some { kind := .c, y := 0x1, d := 0x3f, a := 0x3f, b := 0x3f, guard := true, exc := true }
    else if f = 6 then some { kind := .c, s := 0xf, y := 0x1, d := 0x3f, a := 0x3f, guard := true, exc := true, checks := [.rm] }
    else if 7 ≤ f ∧ f ≤ 9 then some { kind := .c, s := 0xf, y := 0x1, d := 0x3f, a := 0x3f, b := 0x3f, c := 0x3f, guard := true, exc := true, checks := [.rm] }
    else if 10 ≤ f ∧ f ≤ 11 then some { kind := .c, y := 0x1, d := 0x3f, a := 0x3f, guard := true, exc := true }
    else none
  | 0x43 =>
    if f ≤ 5 then some { kind := .c, y := 0x2, d := 0x1f, a := 0x3f, b := 0x3f, guard := true, checks := [.xb] }
    else if 8 ≤ f ∧ f ≤ 11 then some { kind := .c, y := 0x2, d := 0x1f, a := 0x3f, b := 0x3f, guard := true, exc := true, checks := [.xb] }
    else none
  | 0x44 =>
    if f ≤ 3 then some { kind := .c, d := 0x1f, a := 0x1f, b := 0x1f, guard := true }
    else if 4 ≤ f ∧ f ≤ 7 then some { kind := .c, d := 0x1f, a := 0x1f, guard := true }
    else if 8 ≤ f ∧ f ≤ 10 then some { kind := .c, d := 0x1f, guard := true }
    else if f = 11 then some { kind := .c, a := 0x1f, guard := true }
    else none
  | 0x45 =>
    if f ≤ 2 then some { kind := .c, d := 0x1f, a := 0x1f }
    else none
  | 0x46 =>
    if f ≤ 1 then some { kind := .c, d := 0x3f, a := 0x3f, b := 0x1f, guard := true }
    else if f = 2 then some { kind := .c, d := 0x3f, a := 0x3f, b := 0x3f, guard := true }
    else if f = 3 then some { kind := .c, d := 0x3f, a := 0x1f, guard := true }
    else if 4 ≤ f ∧ f ≤ 5 then some { kind := .c, d := 0x3f, a := 0x3f, b := 0x1f }
    else if f = 6 then some { kind := .c, d := 0x1f, a := 0x3f, b := 0x1f }
    else if f = 7 then some { kind := .c, d := 0x3f, a := 0x1f, b := 0x1f }
    else none
  | 0x47 =>
    if f ≤ 3 then some { kind := .c, y := 0x1, d := 0x1f, a := 0x3f, b := 0x1f, guard := true }
    else if 4 ≤ f ∧ f ≤ 11 then some { kind := .c, d := 0x1f, a := 0x3f, b := 0x1f, guard := true }
    else none
  | 0x48 =>
    if f ≤ 15 then some { kind := .c, s := 0xf, d := 0x3f, a := 0x3f, guard := true, exc := true, checks := [.rm] }
    else none
  | 0x49 =>
    if f ≤ 3 then some { kind := .c, d := 0x3f, a := 0x1f, imm := 0x3fffff }
    else none
  | 0x4A =>
    if f = 0 then some { kind := .c, d := 0x3f, a := 0x1f, b := 0x1f, guard := true }
    else if 1 ≤ f ∧ f ≤ 3 then some { kind := .c, d := 0x3f, a := 0x1f, b := 0x3f, guard := true }
    else none
  | 0x4B =>
    if f = 0 then some { kind := .c, d := 0x3f, a := 0x1f, guard := true }
    else if f = 1 then some { kind := .c, d := 0x3f, a := 0x1f, b := 0x1f, guard := true }
    else if 2 ≤ f ∧ f ≤ 3 then some { kind := .c, d := 0x3f, a := 0x1f, b := 0x3f, guard := true }
    else if f = 4 then some { kind := .c, d := 0x3f, a := 0x1f, guard := true }
    else if f = 5 then some { kind := .c, d := 0x3f, a := 0x1f, b := 0x1f, guard := true }
    else if f = 6 then some { kind := .c, d := 0x3f, a := 0x1f, guard := true }
    else none
  | 0x4C =>
    if f ≤ 7 then some { kind := .c, y := 0x1, d := 0x3f, a := 0x1f, b := 0x3f, c := 0x3f, guard := true, checks := [.old] }
    else none
  | 0x50 =>
    if f = 0 then some { kind := .c, d := 0xf, a := 0x3f, b := 0x1f, y := 0x1ff, checks := [.types] }
    else none
  | 0x51 =>
    if f = 0 then some { kind := .c, d := 0xf, a := 0x3f, b := 0x1f, c := 0x1f, y := 0x17f, checks := [.types] }
    else none
  | 0x52 =>
    if f = 0 then some { kind := .c, d := 0xf }
    else if 1 ≤ f ∧ f ≤ 2 then some { kind := .c, d := 0xf, a := 0x1f }
    else if f = 3 then some { kind := .c, d := 0x3f, a := 0xf, s := 0xf }
    else if f = 4 then some { kind := .c, d := 0xf, a := 0x3f, s := 0xf }
    else if f = 5 then some { kind := .c, d := 0xf, a := 0x1f, m := 0x1f, s := 0xf }
    else none
  | 0x55 =>
    if f ≤ 1 then some { kind := .c, a := 0x1f, b := 0x1f, s := 0xf, guard := true, checks := [.scopeS] }
    else none
  | 0x56 =>
    if f = 0 then some { kind := .c, d := 0x7, a := 0x1f, b := 0x1f, c := 0x1f, y := 0x1f, checks := [.stages] }
    else if f = 1 then some { kind := .c, d := 0x7 }
    else if f = 2 then some { kind := .c, d := 0x1f, a := 0x7 }
    else if f = 3 then some { kind := .c, d := 0x7 }
    else none
  | 0x60 =>
    if f ≤ 8 then some { kind := .c, d := 0x1f, a := 0x1f, b := 0x1f, s := 0x3, y := 0xf, guard := true, checks := [.scopeY] }
    else if f = 9 then some { kind := .c, d := 0x1f, a := 0x1f, b := 0x1f, c := 0x1f, s := 0x3, y := 0xf, guard := true, checks := [.scopeY] }
    else if f = 10 then some { kind := .c, d := 0x1f, a := 0x1f, b := 0x1f, s := 0x3, y := 0xf, guard := true, checks := [.scopeY] }
    else none
  | 0x61 =>
    if f ≤ 3 then some { kind := .c, d := 0x1f, a := 0x1f, s := 0xf, guard := true, checks := [.scopeS] }
    else none
  | 0x62 =>
    if f ≤ 2 then some { kind := .c, d := 0x3f, checks := [.scopeD] }
    else none
  | 0x63 =>
    if f ≤ 2 then some { kind := .c, d := 0x3f }
    else none
  | 0x68 =>
    if f ≤ 2 then some { kind := .c, d := 0x1f }
    else if f = 3 then some { kind := .c, d := 0x1f, a := 0x1f }
    else if f = 4 then some { kind := .c, a := 0x1f }
    else none
  | 0x70 =>
    if f = 0 then some { kind := .c, d := 0x3f, a := 0x1f, s := 0xf, guard := true }
    else none
  | _ => none

/-- Whether fields pass one operand check (R8, R19, R53, R72, R218). -/
def encPasses (e : Enc) : OperandCheck → Bool
  | .rm => decide (e.s ≤ 5)
  | .scopeS => decide (e.s ≤ 5)
  | .scopeY => decide (e.y &&& 7 ≤ 5)
  | .scopeD => decide (e.d ≤ 5)
  | .types => decide (e.y &&& 7 ≤ 5 ∧ (e.y >>> 3) &&& 7 ≤ 5)
  | .stages => decide (2 ≤ e.y ∧ e.y ≤ 16)
  | .xb => decide (e.y.getLsbD 1 = true → e.b < 32)
  | .old => decide (e.y.getLsbD 0 = false → e.d = 0)

/-- Whether a field holds only bits that a mask admits. -/
def within (v mask : Nat) : Bool := decide (v &&& mask = v)

/-- The function number of fields: F, or D in major 0x00 (R69). -/
def encFunc (e : Enc) : Nat := if e.op = 0 then e.d.toNat else e.f.toNat

/-- Whether fields fit a shape (R53–R58, R72). -/
def Shape.fits (h : Shape) (e : Enc) : Bool :=
  (decide (e.op = 0 ∧ e.f = 0) || (decide (e.op ≠ 0) && within e.d.toNat h.d)) &&
  within e.a.toNat h.a && within e.b.toNat h.b && within e.c.toNat h.c && within e.s.toNat h.s &&
  within e.y.toNat h.y && within e.imm.toNat h.imm &&
  (if h.guard then !(decide (e.g = 0) && e.n) else decide (e.g = 0) && !e.n) &&
  (if h.exc then e.e || decide (e.m = 0) else !e.e && within e.m.toNat h.m) &&
  h.checks.all fun c => encPasses e c

/-- The shape of legal native words; none when they are not a legal instruction (R67, R69–R72). -/
def wordsShape (w : Words) : Option Shape :=
  match formatOf ((w.head >>> 6).setWidth 7) with
  | none => none
  | some fmt =>
    let e := fieldsOf fmt w
    let tailOk := decide ((w.head >>> 14).setWidth 2 = fmt.tail) && decide (fmt.tail < 3 → w.w3 = 0) &&
      decide (fmt.tail < 2 → w.w2 = 0) && decide (fmt.tail = 0 → w.w1 = 0)
    match shapeOf e.op (encFunc e) with
    | none => none
    | some h => if tailOk && h.fits e then some h else none

/-- Whether an S-kind instruction's integer registers exist in control code (R53): x0–x31. Major 0x28 names status
registers and trap codes in A and B. -/
def controlRegs (h : Shape) (e : Enc) : Bool :=
  decide (h.kind ≠ .s) ||
  ((decide (h.d ≠ 63) || decide (e.d < 32)) &&
   (decide (e.op = 0x28) ||
    ((decide (h.a ≠ 63) || decide (e.a < 32)) && (decide (h.b ≠ 63) || decide (e.b < 32)) &&
     (decide (h.c ≠ 63) || decide (e.c < 32)))))

/-- Whether an instruction transfers control or ends its thread (R78). -/
def wordsMove (w : Words) : Bool :=
  let e := fieldsOf .i w
  decide (e.op = 0x18 ∨ e.op = 0x19 ∨ e.op = 0x30 ∨ e.op = 0x31) || (decide (e.op = 0x1A) && decide (e.f ≤ 1)) ||
  (decide (e.op = 0) && decide (e.d = 1 ∨ e.d = 2 ∨ e.d = 3 ∨ e.d = 5 ∨ e.d = 6))

/-- Whether the T field of a head says that a format has the words a CARRY value names (R46, R78). -/
def carryFits (carry : BitVec 16) (head : BitVec 16) : Bool :=
  let t := head.toNat / 2 ^ 14
  (decide (carry &&& 0x26 = 0) || decide (1 ≤ t)) && (!carry.getLsbD 3 || decide (2 ≤ t)) &&
  (!carry.getLsbD 4 || decide (3 ≤ t))

/-- Whether substitute `j` of an entry, as stored, may stand in the table (R78). -/
def subOk (b : List (BitVec 8)) (j : Nat) : Bool :=
  let sb := b.drop (16 + 12 * j)
  let w : Words := { head := patchWord sb 0, w1 := patchWord sb 2, w2 := patchWord sb 4, w3 := patchWord sb 6 }
  let apply := b.getD 9 0
  match wordsShape w with
  | none => false
  | some h =>
    !runMark w.head && !wordsMove w && (!apply.getLsbD 0 || decide (h.kind = .s ∨ h.kind = .t)) &&
    (!apply.getLsbD 1 || (decide (h.kind = .s ∨ h.kind = .c) &&
      controlRegs h (fieldsOf ((formatOf ((w.head >>> 6).setWidth 7)).getD .z) w))) &&
    carryFits (patchWord sb 8) (patchWord b 0) && carryFits (patchWord sb 8) w.head

/-- Whether one entry of an image may be loaded (R78): its reserved bytes and bits zero, at most 8 substitutes, each
legal. -/
def entryOk (b : List (BitVec 8)) : Bool :=
  ((b.drop 10).take 6).all (fun x => decide (x = 0)) && ((b.drop 112).take 16).all (fun x => decide (x = 0)) &&
  decide (b.getD 9 0 < 4) && decide (b.getD 8 0 ≤ 8) &&
  (List.range 8).all (fun j =>
    let sb := b.drop (16 + 12 * j)
    decide (patchWord sb 8 < 64) && decide (patchWord sb 10 = 0)) &&
  (List.range (b.getD 8 0).toNat).all fun j => subOk b j

/-- Whether an image is a patch table that a load accepts (R78). -/
def patchImageOk (img : List (BitVec 8)) : Bool :=
  decide (img.length = 32768) && (List.range 256).all fun e => entryOk ((img.drop (128 * e)).take 128)

/-! ## Whether a thread may issue -/

/-- Whether a thread may issue (R113, R176, R285, R287, R385, R460): its row is live in a resident, started pack, not
stopped, not parked, not in a debug halt beyond its run, unless it is a control thread whose instruction has issued and waits with its
vector-queue entry; a strand also needs a state that issues and no handler. -/
def State.canIssue (s : State) (a : Agent) : Bool :=
  let (p, r) := a.pr
  let k := s.pack p
  let w := s.row p r
  decide (p < s.packs.length) && decide (r < k.rows.length) &&
  decide (k.life = .resident) && k.started && decide (w.life = .live) && !w.preempt.park &&
  ((!w.stopped && (!w.dbg.halted || (s.thread a).midRun)) ||
    ((s.thread a).waiting.any fun x => decide (x.1 = .slot))) &&
  match a with
  | .control .. => true
  | .strand _ _ j =>
    let t := s.strand p r j
    decide (j < w.strands.length) && !w.status.intrap && (decide (t.state = .lockstep) || decide (t.state = .loose))

end Sys2Proof.Machine
end

