-- ==== Sys2Proof/Machine/Sha.lean ====
section
/-! DEFINITION. SHA-256, which R81 and R478 name: the digest of a byte list. -/
namespace Sys2Proof.Machine

/-- The first half of the round constants. -/
def shaK0 : List (BitVec 32) :=
  [0x428A2F98, 0x71374491, 0xB5C0FBCF, 0xE9B5DBA5, 0x3956C25B, 0x59F111F1, 0x923F82A4, 0xAB1C5ED5,
   0xD807AA98, 0x12835B01, 0x243185BE, 0x550C7DC3, 0x72BE5D74, 0x80DEB1FE, 0x9BDC06A7, 0xC19BF174,
   0xE49B69C1, 0xEFBE4786, 0x0FC19DC6, 0x240CA1CC, 0x2DE92C6F, 0x4A7484AA, 0x5CB0A9DC, 0x76F988DA,
   0x983E5152, 0xA831C66D, 0xB00327C8, 0xBF597FC7, 0xC6E00BF3, 0xD5A79147, 0x06CA6351, 0x14292967]

/-- The second half of the round constants. -/
def shaK1 : List (BitVec 32) :=
  [0x27B70A85, 0x2E1B2138, 0x4D2C6DFC, 0x53380D13, 0x650A7354, 0x766A0ABB, 0x81C2C92E, 0x92722C85,
   0xA2BFE8A1, 0xA81A664B, 0xC24B8B70, 0xC76C51A3, 0xD192E819, 0xD6990624, 0xF40E3585, 0x106AA070,
   0x19A4C116, 0x1E376C08, 0x2748774C, 0x34B0BCB5, 0x391C0CB3, 0x4ED8AA4A, 0x5B9CCA4F, 0x682E6FF3,
   0x748F82EE, 0x78A5636F, 0x84C87814, 0x8CC70208, 0x90BEFFFA, 0xA4506CEB, 0xBEF9A3F7, 0xC67178F2]

/-- The initial hash value. -/
def shaInit : List (BitVec 32) :=
  [0x6A09E667, 0xBB67AE85, 0x3C6EF372, 0xA54FF53A, 0x510E527F, 0x9B05688C, 0x1F83D9AB, 0x5BE0CD19]

/-- The two message-schedule functions and the two compression functions of rotation. -/
def shaS0 (x : BitVec 32) : BitVec 32 := x.rotateRight 7 ^^^ x.rotateRight 18 ^^^ (x >>> 3)
def shaS1 (x : BitVec 32) : BitVec 32 := x.rotateRight 17 ^^^ x.rotateRight 19 ^^^ (x >>> 10)
def shaB0 (x : BitVec 32) : BitVec 32 := x.rotateRight 2 ^^^ x.rotateRight 13 ^^^ x.rotateRight 22
def shaB1 (x : BitVec 32) : BitVec 32 := x.rotateRight 6 ^^^ x.rotateRight 11 ^^^ x.rotateRight 25

/-- Extend the message schedule, newest word first, by `n` words. -/
def shaExtend : Nat → List (BitVec 32) → List (BitVec 32)
  | 0, w => w
  | n + 1, w => shaExtend n ((shaS1 (w.getD 1 0) + w.getD 6 0 + shaS0 (w.getD 14 0) + w.getD 15 0) :: w)

/-- The rounds of one block over words paired with their constants. -/
def shaRounds : List (BitVec 32 × BitVec 32) → List (BitVec 32) → List (BitVec 32)
  | (k, w) :: l, [a, b, c, d, e, f, g, h] =>
    let t1 := h + shaB1 e + ((e &&& f) ^^^ (~~~e &&& g)) + k + w
    let t2 := shaB0 a + ((a &&& b) ^^^ (a &&& c) ^^^ (b &&& c))
    shaRounds l [t1 + t2, a, b, c, d + t1, e, f, g]
  | _, h => h

/-- A big-endian 32-bit word of a byte list. -/
def beWord (b : List (BitVec 8)) (i : Nat) : BitVec 32 :=
  b.getD (4 * i) 0 ++ b.getD (4 * i + 1) 0 ++ b.getD (4 * i + 2) 0 ++ b.getD (4 * i + 3) 0

/-- One block of 64 bytes. -/
def shaBlock (h : List (BitVec 32)) (b : List (BitVec 8)) : List (BitVec 32) :=
  let w := (shaExtend 48 ((List.range 16).map (beWord b)).reverse).reverse
  List.zipWith (fun x y => x + y) h (shaRounds ((shaK0 ++ shaK1).zip w) h)

/-- `n` blocks. -/
def shaBlocks : Nat → List (BitVec 8) → List (BitVec 32) → List (BitVec 32)
  | 0, _, h => h
  | n + 1, b, h => shaBlocks n (b.drop 64) (shaBlock h (b.take 64))

/-- The padded message: a one bit, zeros and the length in bits. -/
def shaPad (b : List (BitVec 8)) : List (BitVec 8) :=
  b ++ 0x80 :: (List.replicate ((119 - b.length % 64) % 64) 0 ++ (leBytes 8 (8 * b.length)).reverse)

/-- The 32 bytes of the SHA-256 digest. -/
def sha256 (b : List (BitVec 8)) : List (BitVec 8) :=
  let p := shaPad b
  (shaBlocks (p.length / 64) p shaInit).flatMap fun w => (leBytes 4 w.toNat).reverse

/-- The digest as PATCHID numbers it (R81): byte 0 the least significant. -/
def shaNumber (b : List (BitVec 8)) : BitVec 256 := BitVec.ofNat 256 (leNat (sha256 b))

end Sys2Proof.Machine
end

