-- ==== Sys2Proof/Machine/Translate.lean ====
section
/-! DEFINITION. What makes native lines a translation of an Adtan function (R74, R77, R79, R451, R452): instruction by instruction they
do what the Adtan words do, with the patch table applied. DESIGN CHOICE: at an instruction for which native lines have no form the
thread goes on in Adtan (log 92). -/
namespace Sys2Proof.Machine

/-- One instruction of an Adtan function: its address and the next in sequence, both with bit 0 set (R75), and its format and fields,
which are those of its native equivalent (R74), if it has one. -/
structure AdtanStep where
  pc : BitVec 48
  npc : BitVec 48
  enc : Option (Format × Enc)
  deriving DecidableEq, Repr

/-- The instruction at the head of a function's bytes (R73, R74). -/
def adtanStep (pc : BitVec 48) (b : List (BitVec 8)) : AdtanStep :=
  let w := BitVec.ofNat 32 (leNat (b.take 4))
  let len := if w.getLsbD 2 && decide (8 ≤ b.length) then 8 else 4
  let enc := match formatOf ((w >>> 25).setWidth 7) with
    | none => none
    | some fmt =>
      if w.getLsbD 2 ≠ fmt.hasExt ∨ (fmt.hasExt ∧ len = 4) ∨ w.setWidth 2 ≠ 0#2 then none
      else (adtanFields fmt w (BitVec.ofNat 32 (leNat ((b.drop 4).take (len - 4))))).map fun e => (fmt, e)
  { pc := pc, npc := pc + BitVec.ofNat 48 len, enc := enc }

/-- The instructions of a function in sequence, at most `n`. -/
def adtanSteps : Nat → BitVec 48 → List (BitVec 8) → List AdtanStep
  | 0, _, _ => []
  | n + 1, pc, b =>
    if b.isEmpty then []
    else
      let x := adtanStep pc b
      x :: adtanSteps n x.npc (b.drop (x.npc - pc).toNat)

/-- The native instruction that stands for an Adtan one: the very words, or a transfer of some fields to a native address. -/
inductive Slot where
  | words (w : Words) (fmt : Format) (e : Enc)
  | goto (fmt : Format) (e : Enc) (target : BitVec 48)
  deriving DecidableEq, Repr

/-- The immediate of fields as a signed number (R51, R52). -/
def encImm (fmt : Format) (e : Enc) : BitVec 64 :=
  if fmt = .i then (e.imm.setWidth 22).signExtend 64 else e.imm.signExtend 64

/-- Whether an instruction names an address relative to its own, or writes a link, so that its native equivalent would not do the
same at another place (R75, R76, R136, R138, R139, R196). -/
def placeBound (e : Enc) : Bool :=
  (decide (e.op = 0x18)) || (decide (e.op = 0x19) && decide (e.f = 0 ∨ e.f = 1 ∨ e.f = 3)) ||
  (decide (e.op = 0x1A) && decide (e.f = 0 ∨ e.f = 2)) || (decide (e.op = 0x30) && decide (e.f ≤ 1))

/-- Whether an instruction is a transfer to an immediate target that writes no link: br, jmp and fetch (R135, R136, R138). -/
def plainTransfer (e : Enc) : Bool := decide (e.op = 0x18 ∨ (e.op = 0x19 ∧ e.f = 0) ∨ (e.op = 0x1A ∧ e.f = 0))

/-- Whether control never goes on to the next instruction in sequence. -/
def endsFlow (e : Enc) : Bool :=
  (decide (e.op = 0x19) && decide (e.f = 0 ∨ e.f = 2 ∨ e.f = 4)) || (decide (e.op = 0x1A) && decide (e.f ≤ 1)) ||
  (decide (e.op = 0) && decide (e.d = 1 ∨ e.d = 2 ∨ e.d = 3 ∨ e.d = 6))

/-- Whether control ends with a slot, and never goes on past it. -/
def Slot.ends : Slot → Bool
  | .words _ _ e => endsFlow e
  | .goto _ e _ => endsFlow e

/-- The native slot that does what an Adtan instruction does (R79, R451): that of the one substitute of the entry it matches; its own
words; or, for a transfer within the function, the transfer to where the map puts its target. Each ends its run, as Adtan is
interlocked (R64, R77). None where no one slot does it: an encoding with no native equivalent, several substitutes, a link or a leash that
names an Adtan address, a way out of the function. -/
def slotFor (img : List (BitVec 8)) (strand : Bool) (at_ : BitVec 48 → Option (BitVec 48)) (x : AdtanStep) : Option Slot :=
  let on := fun (q : Slot) => if q.ends || (at_ x.npc).isSome then some q else none
  x.enc.bind fun (fmt, e) =>
    let w := wordsOf fmt true e
    match patchFind img strand w.head w.w1 with
    | some n =>
      let q := rawWords (patchSub img n 0 (wordsRaw (wordsOf fmt false e)))
      let q : Words := { q with head := q.head ||| 0x2000 }
      (formatOf ((q.head >>> 6).setWidth 7)).bind fun fmt' =>
        let e' := fieldsOf fmt' q
        if patchCount img n ≠ 1 || placeBound e' || (patchFind img strand q.head q.w1).isSome then none else on (.words q fmt' e')
    | none =>
      if plainTransfer e then (at_ ((va64 x.pc + encImm fmt e).setWidth 48)).bind fun t => on (.goto fmt e t)
      else if placeBound e then none
      else on (.words w fmt e)

/-- The bytes of the line that an address of a translation lies in. -/
def transLine (tr : Translation) (pc : BitVec 48) : List (BitVec 8) :=
  (tr.lines.drop ((lineAddr pc).toNat - tr.dest)).take 64

/-- Whether an address names a slot of a translation's lines. -/
def transSlot (tr : Translation) (pc : BitVec 48) : Bool :=
  let n := pc.toNat / 2 % 32
  decide (tr.dest ≤ pc.toNat ∧ pc.toNat < tr.dest + tr.lines.length ∧ 1 ≤ n ∧ n ≤ lineCount (transLine tr pc))

/-- Whether the native instruction at an address is a slot's, with the run mark, and no entry of the table matches it. -/
def transHolds (tr : Translation) (img : List (BitVec 8)) (strand : Bool) (pc : BitVec 48) (x : Slot) : Bool :=
  let w := rawWords (slotWords (transLine tr pc) (pc.toNat / 2 % 32))
  transSlot tr pc && (patchFind img strand w.head w.w1).isNone &&
  match x with
  | .words v _ _ => decide (w = v)
  | .goto fmt e t =>
    let f := fieldsOf fmt w
    let imm := encImm fmt f
    decide (w = wordsOf fmt true f ∧ { f with imm := 0 } = { e with imm := 0 }) &&
    decide ((va64 (lineAddr pc) + (imm.sshiftRight 5) * 64 + 2 * (imm &&& 0x1F)).setWidth 48 = t)

/-- The next address after a slot of a translation in sequence (R48). -/
def transNext (tr : Translation) (pc : BitVec 48) : BitVec 48 :=
  if pc.toNat / 2 % 32 < lineCount (transLine tr pc) then pc + 2 else lineAddr pc + 66

/-- The native address that a translation's map gives for an Adtan one. -/
def transAt (tr : Translation) (pc : BitVec 48) : Option (BitVec 48) := (tr.map.find? fun m => m.1 = pc).map fun m => m.2

/-- Whether the lines are legal for a kind of thread, and do at every mapped address what the function does there, or leave it to
Adtan. -/
def transFaithful (tr : Translation) (img : List (BitVec 8)) (strand : Bool) (text : List (BitVec 8)) : Bool :=
  let l := adtanSteps tr.size (tr.start + 1) text
  ((List.range (tr.lines.length / 64)).all fun i => (lineReason ((tr.lines.drop (64 * i)).take 64) strand).isNone) &&
  decide (tr.map.map (fun m => m.1) = l.map fun x => x.pc) && decide ((tr.map.map fun m => m.2).Nodup) &&
  l.all fun x => (transAt tr x.pc).any fun n =>
    match slotFor img strand (transAt tr) x with
    | some q => transHolds tr img strand n q && (q.ends || decide (transAt tr x.npc = some (transNext tr n)))
    | none => transSlot tr n

/-- The instructions of a function that a translation leaves to Adtan. -/
def transExits (tr : Translation) (img : List (BitVec 8)) (strand : Bool) (text : List (BitVec 8)) : List (BitVec 48) :=
  ((adtanSteps tr.size (tr.start + 1) text).filter fun x => (slotFor img strand (transAt tr) x).isNone).map fun x => x.pc

end Sys2Proof.Machine
end

