-- ==== Sys2Proof/Machine/Code.lean ====
section
/-! DEFINITION. Loading the patch table and executing through it (R78–R81), and installing native translations of Adtan
functions (R451, R452). -/
namespace Sys2Proof.Machine

/-! ## PATCH_SUBSTITUTE (R80) -/

/-- A thread begins the substitutes of an entry in place of the instruction it fetched, unless a breakpoint stands there
(R458). -/
def State.beginSubs (s : State) (a : Agent) (e : Nat) : State :=
  s.modThread a fun t =>
    { t with patch := some { entry := e, next := 0, words := s.fetch.raw, npc := s.fetch.npc, mark := s.fetch.mark },
             waiting := none }

/-- PATCH_SUBSTITUTE (R79, R80): an instruction that matches an entry goes on as the entry's substitutes. -/
def execPatchSubstitute (e : Nat) (s : State) : Result State :=
  match s.issuer with
  | .control p r =>
    match s.breakpoint (.control p r) with
    | some j => .next (s.debugBreak p r 0x0E s.fetch.pc (BitVec.ofNat 64 (0x100 + j)) 0)
    | none => .next (s.beginSubs (.control p r) e)
  | .strand p r k =>
    .next (((s.groupOf p r k).foldl (fun (s : State) j =>
      match s.breakpoint (.strand p r j) with
      | some b => s.faultStrand p r j 0x0E (BitVec.ofNat 48 (0x100 + b))
      | none => s.beginSubs (.strand p r j) e) s).releaseAll p r)

/-! ## PATCH_LOAD (R78, R81) -/

/-- Every thread that exists. -/
def State.agents (s : State) : List Agent :=
  (List.range s.packs.length).flatMap fun p =>
    (List.range (s.pack p).rows.length).flatMap fun r =>
      .control p r :: (List.range (s.row p r).strands.length).map fun k => .strand p r k

/-- Whether a thread is executing (R81): it may issue and does not wait, or it stands between two substitutes. -/
def State.executing (s : State) (a : Agent) : Bool :=
  s.canIssue a && ((s.thread a).waiting.isNone || (s.thread a).patch.isSome)

/-- A thread's sequence in progress is given up, with a wait inside it: it restarts at substitute 0 of what then matches (R80, R81). -/
def Thread.dropSubs (t : Thread) : Thread :=
  if t.patch.isSome then { t with patch := none, waiting := none, begun := [] } else t

/-- The sequences in progress are given up. -/
def State.dropSubs (s : State) : State :=
  { s with packs := s.packs.map fun k =>
      { k with rows := k.rows.map fun w =>
          let w := if w.thread.patch.isSome then w.unslotted else w
          { w with thread := w.thread.dropSubs,
                   strands := w.strands.map fun t => { t with thread := t.thread.dropSubs, qblk := t.qblk && t.thread.patch.isNone } } } }

/-- A new table in force on every core, its digest in PATCHID, every translation discarded (R81, R452): a thread that stands in one goes on
in Adtan. -/
def State.loadPatch (s : State) (image : List (BitVec 8)) : State :=
  let s := (List.range s.packs.length).foldl (fun (s : State) p => s.packToAdtan p) s
  { s.dropSubs with patch := image, patchId := shaNumber image, built := [] }

/-- PATCH_LOAD (R78, R81, R480): waits until no thread executes. -/
def execPatchLoad (cmd : Cmd) (image : List (BitVec 8)) (signedBy : Signer) (s : State) : Result State :=
  if s.cmdPending cmd 0x0F && cmd.wellFormed && cmd.byHost && s.agents.any (fun a => s.executing a) then .next s
  else
    command cmd 0x0F cmd.byHost (fun s =>
      if signedBy ≠ .korlan then refuse stSignature s
      else if !patchImageOk image then refuse stFormat s
      else accept (s.loadPatch image)) s

/-! ## ADTAN_TRANSLATE (R451, R452) -/

/-- Whether a translation's map and lines fit its function and the context's translation area. -/
def Context.fits (c : Context) (tr : Translation) : Bool :=
  decide (tr.start.toNat % 4 = 0 ∧ tr.size % 4 = 0 ∧ 0 < tr.size) &&
  decide (tr.dest % 64 = 0 ∧ tr.lines.length % 64 = 0 ∧ 0 < tr.lines.length) &&
  decide (c.transBase.toNat ≤ tr.dest ∧ tr.dest + tr.lines.length ≤ c.transBase.toNat + c.transSize) &&
  tr.map.all fun m =>
    decide (tr.start.toNat < m.1.toNat ∧ m.1.toNat < tr.start.toNat + tr.size ∧ m.1.toNat % 4 = 1) &&
    decide (tr.dest ≤ m.2.toNat ∧ m.2.toNat < tr.dest + tr.lines.length ∧ m.2.toNat % 2 = 0)

/-- Write the lines of a translation through the context's executable pages; none where a line cannot be written. -/
def State.writeLines (s : State) (ctx : Nat) (dest : Nat) (lines : List (BitVec 8)) : Option State :=
  (List.range (lines.length / 64)).foldl (fun (acc : Option State) i =>
    match acc with
    | none => none
    | some s =>
      match s.translate ctx 0 (BitVec.ofNat 64 (dest + 64 * i)) .fetch false with
      | .error _ => none
      | .ok (xl, s') => if s'.poisoned xl then none else s'.engineWrite (.other (s.context ctx).part) xl ((lines.drop (64 * i)).take 64)) (some s)

/-- Whether a translation with a key is built already (R451): code bytes, virtual address, partition, PATCHID; STEPPING is
the device's. -/
def State.keyBuilt (s : State) (part : Nat) (start : BitVec 48) (code : BitVec 256) : Bool :=
  s.built.any fun b =>
    decide (b.start = start ∧ b.code = code ∧ b.digest = s.patchId ∧ (s.context b.ctx).part = part)

/-- Whether a thread of a context has executed an instruction of a function (R451). -/
def State.ranFunction (s : State) (ctx : Nat) (tr : Translation) : Bool :=
  s.ranAdtan.any fun x =>
    decide (ctx * 2 ^ 48 + tr.start.toNat < x.1 ∧ x.1 < ctx * 2 ^ 48 + tr.start.toNat + tr.size)

/-- Whether a thread is under way: it may issue now or later, held, waiting, stopped by a handler, parked, halted or saved. -/
def State.underWay (s : State) (a : Agent) : Bool :=
  let (p, r) := a.pr
  decide ((s.pack p).life ≠ .ended) && decide ((s.row p r).life = .live) &&
  match a with
  | .control .. => true
  | .strand _ _ k => decide ((s.strand p r k).state ≠ .idle)

/-- The addresses at which a thread goes on: its PC, and, while it handles a trap, where the trap returns. -/
def State.standsAt (s : State) (a : Agent) : List Nat :=
  match a with
  | .control p r =>
    let w := s.row p r
    w.thread.pc.toNat :: (if w.status.intrap then [w.trap.pc.toNat] else [])
  | .strand p r k => [(s.strand p r k).thread.pc.toNat]

/-- Whether some thread of a context stands in a function, in its Adtan bytes or its native lines (R453). -/
def State.inFunction (s : State) (b : Built) : Bool :=
  s.agents.any fun a =>
    decide ((s.pack a.pr.1).ctx = b.ctx) && s.underWay a &&
    (s.standsAt a).any fun pc => decide ((b.start.toNat ≤ pc ∧ pc < b.start.toNat + b.size) ∨ (b.dest ≤ pc ∧ pc < b.dest + b.len))

/-- What was noted of a function's Adtan instructions as they were executed is given up, as it is built anew (R453). -/
def State.renewAdtan (s : State) (ctx : Nat) (tr : Translation) : State :=
  { s with ranAdtan := s.ranAdtan.filter fun x =>
      !decide (ctx * 2 ^ 48 + tr.start.toNat < x.1 ∧ x.1 < ctx * 2 ^ 48 + tr.start.toNat + tr.size) }

/-- ADTAN_TRANSLATE (R79, R451, R453): once a function has been executed, the translator installs a translation that does what its
Adtan bytes do under the patch table, once per key and where it fits the area. One built from older bytes gives way when no thread
is left in it. -/
def execAdtanTranslate (ctx : Nat) (tr : Translation) (s : State) : Result State :=
  match s.ctxOf ctx with
  | none => .next s
  | some c =>
    match s.imgReads ctx 0 (va64 tr.start) tr.size with
    | (none, s) => .next s
    | (some b, s) =>
      let code := shaNumber b
      let strand := (lineWord tr.lines 0).getLsbD 10
      let older := fun (x : Built) => decide (x.ctx = ctx ∧ x.start = tr.start)
      let free := s.built.all fun x =>
        older x || decide (x.ctx ≠ ctx ∨ x.dest + x.len ≤ tr.dest ∨ tr.dest + tr.lines.length ≤ x.dest)
      if s.keyBuilt c.part tr.start code || !c.fits tr || !free || !s.ranFunction ctx tr || !transFaithful tr s.patch strand b ||
          (s.built.any fun x => older x && s.inFunction x) then .next s
      else
        match s.writeLines ctx tr.dest tr.lines with
        | none => .next s
        | some s' =>
          .next { s'.renewAdtan ctx tr with built := (s'.built.filter fun x => !older x) ++
                    [{ ctx := ctx, start := tr.start, size := tr.size, text := b, strand := strand, code := code,
                       digest := s.patchId, dest := tr.dest, len := tr.lines.length, map := tr.map,
                       exits := transExits tr s.patch strand b }] }

end Sys2Proof.Machine
end

