-- ==== Sys2Proof/Machine/Aes.lean ====
section
/-! DEFINITION. Memory encryption (R420): AES-256-XTS over 64-byte lines under a partition's key pair, and what HBM holds of a line.
PRESUMED: the cipher is FIPS 197's and the mode IEEE 1619's, which the manual names and does not repeat (log 101). -/
namespace Sys2Proof.Machine

/-- Multiplication by x, and by an element, in the cipher's field of 256 elements. -/
def gfTwice (a : BitVec 8) : BitVec 8 := (a <<< 1) ^^^ (if a.getLsbD 7 then 0x1B else 0)
def gfMul (a b : BitVec 8) : BitVec 8 :=
  ((List.range 8).foldl (fun (x : BitVec 8 × BitVec 8) i => (gfTwice x.1, if b.getLsbD i then x.2 ^^^ x.1 else x.2)) (a, 0)).2

/-- The inverse of an element, and 0 of 0: its 254th power. -/
def gfInv (a : BitVec 8) : BitVec 8 :=
  ((List.range 7).foldl (fun (x : BitVec 8 × BitVec 8) _ => let q := gfMul x.1 x.1; (q, gfMul x.2 q)) (a, 1)).2

/-- The substitution box. -/
def aesSub (a : BitVec 8) : BitVec 8 :=
  let b := gfInv a
  b ^^^ b.rotateLeft 1 ^^^ b.rotateLeft 2 ^^^ b.rotateLeft 3 ^^^ b.rotateLeft 4 ^^^ 0x63

/-- Bytes combined place by place. -/
def xorBytes (a b : List (BitVec 8)) : List (BitVec 8) := List.zipWith (fun x y => x ^^^ y) a b

/-- The key schedule: 60 words of 4 bytes from a key of 32 bytes, the last first while it grows. -/
def aesSchedule (key : List (BitVec 8)) : List (List (BitVec 8)) :=
  let first := (List.range 8).map fun i => (key.drop (4 * i)).take 4
  let grow := fun (l : List (List (BitVec 8)) × BitVec 8) (i : Nat) =>
    let last := l.1.headD []
    let t := if i % 8 = 0 then xorBytes ((last.drop 1 ++ last.take 1).map aesSub) [l.2, 0, 0, 0]
      else if i % 8 = 4 then last.map aesSub else last
    (xorBytes (l.1.getD 7 []) t :: l.1, if i % 8 = 0 then gfTwice l.2 else l.2)
  (((List.range 52).foldl (fun l i => grow l (i + 8)) (first.reverse, 1)).1).reverse

/-- ShiftRows and MixColumns on a block of 16 bytes, column by column. -/
def aesRows (b : List (BitVec 8)) : List (BitVec 8) :=
  (List.range 16).map fun i => b.getD ((i + 4 * (i % 4)) % 16) 0
def aesColumns (b : List (BitVec 8)) : List (BitVec 8) :=
  (List.range 16).map fun i =>
    let at_ := fun (k : Nat) => b.getD (i / 4 * 4 + (i + k) % 4) 0
    gfTwice (at_ 0) ^^^ gfTwice (at_ 1) ^^^ at_ 1 ^^^ at_ 2 ^^^ at_ 3

/-- One block encrypted under a key schedule. -/
def aesBlock (ks : List (List (BitVec 8))) (b : List (BitVec 8)) : List (BitVec 8) :=
  let roundKey := fun (i : Nat) => ((ks.drop (4 * i)).take 4).flatten
  (List.range 14).foldl (fun b i =>
    let c := aesRows (b.map aesSub)
    xorBytes (if i = 13 then c else aesColumns c) (roundKey (i + 1))) (xorBytes b (roundKey 0))

/-- The tweak of the next block: multiplied by x in the field of 2^128 elements, least significant byte first. -/
def tweakNext (t : List (BitVec 8)) : List (BitVec 8) :=
  let n := leNat t
  leBytes 16 ((2 * n % 2 ^ 128) ^^^ (if n.testBit 127 then 0x87 else 0))

/-- A key's bytes. -/
def keyBytes (k : BitVec 256) : List (BitVec 8) := leBytes 32 k.toNat

/-- A line under a key pair (R420): the tweak is PA[51:6], little-endian. -/
def xtsLine (key : BitVec 256 × BitVec 256) (line : Nat) (b : List (BitVec 8)) : List (BitVec 8) :=
  let ks := aesSchedule (keyBytes key.1)
  let t0 := aesBlock (aesSchedule (keyBytes key.2)) (leBytes 16 line)
  ((List.range 4).foldl (fun (x : List (BitVec 8) × List (BitVec 8)) i =>
    (x.1 ++ xorBytes (aesBlock ks (xorBytes ((b.drop (16 * i)).take 16) x.2)) x.2, tweakNext x.2)) ([], t0)).1

/-! ## What HBM holds (R407, R420) -/

/-- What HBM holds of a line (R415, R420): what the memory-side cache last wrote back of it, or else the scrub's zeros, under the key of the
granule's partition; none for a line of no partition. -/
def State.hbmHolds (s : State) (line : Nat) : Option (List (BitVec 8)) :=
  match (tget s.granules (64 * line / 2 ^ 21)).bind fun p => s.partOf p with
  | none => none
  | some p => some (xtsLine p.key line (s.hbmLine line))

/-- The stored bytes of a line as one number: those of a line of no partition are not given. -/
def State.stored (s : State) (line : Nat) : Nat :=
  match s.hbmHolds line with
  | some b => leNat b
  | none => Config.strayLine line

/-- The stripe that a line lies in, and the stack that holds a stripe's parity (R407). DESIGN CHOICE: stripe `t`'s parity is on stack
`t % 8`, and the data rows of each stack fill its other stripes in order: the manual gives the rotation and not its order (log 150). -/
def stripeOf (line : Nat) : Nat :=
  let n := line / 256
  let i := n % 7
  8 * (n / 7) + (if i < (lineChannel line).1 then i else i + 1)
def parityStack (t : Nat) : Nat := t % 8

/-- The data line that a stack other than the parity's holds of a stripe of parity group `c`. -/
def stripeLine (c t k : Nat) : Nat :=
  let j := t % 8
  256 * (7 * (t / 8) + (if j < k then j else j - 1)) + 64 * (k / 2) + 32 * (k % 2) + c

/-- The seven data lines of a stripe. -/
def stripeLines (c t : Nat) : List Nat := ((List.range 8).filter fun k => decide (k ≠ parityStack t)).map (stripeLine c t)

/-- The XOR of some lines as they are stored. -/
def State.xorStored (s : State) (l : List Nat) : Nat := l.foldr (fun x n => s.stored x ^^^ n) 0

/-- The parity of a stripe (R407): every write of a line replaces it with the line, one write of a stripe at a time, so that it is the XOR
of the stripe's stored lines whenever anything reads it; where two members are lost nothing does (R410). -/
def State.parity (s : State) (c t : Nat) : Nat := s.xorStored (stripeLines c t)

/-- A line rebuilt from the other seven members of its stripe (R408, R409). -/
def State.rebuilt (s : State) (line : Nat) : Nat :=
  let c := (lineChannel line).2
  let t := stripeOf line
  s.parity c t ^^^ s.xorStored ((stripeLines c t).erase line)

end Sys2Proof.Machine
end

