-- ==== Sys2Proof/Machine/Firmware.lean ====
section
/-! DEFINITION. Partitions, contexts and the firmware commands on them (R420, R423, R476, R480, R481), health and parameters,
reset (R492). -/
namespace Sys2Proof.Machine

/-! ## Scrubbing (R420, R423) -/

/-- Memory with a range reading zero. -/
def memErase (m : Memory) (lo hi : Nat) : Memory := m.filter fun c => decide (c.1 < lo ∨ hi ≤ c.1)

/-- Bytes of a granule (R395). -/
def granuleSize : Nat := 2 ^ 21

/-- The granules below the version store's (R423), which the firmware keeps at the top of local memory. -/
def State.usableGranules (s : State) : Nat := localEnd / granuleSize - localEnd / granuleSize * s.storeShare / 64

/-- A granule is scrubbed (R420): zeros, its poison cleared but for the lines R411 leaves poisoned, no cached copy, and the old
versions of the partition that owns it destroyed (R423). -/
def State.scrub (s : State) (g : Nat) : State :=
  let lo := g * granuleSize
  let hi := lo + granuleSize
  let owner := tget s.granules g
  let outside := fun (line : Nat) => decide (64 * line < lo ∨ hi ≤ 64 * line)
  let ofOwner := fun (line : Nat) => decide (owner ≠ none ∧ tget s.granules (64 * line / granuleSize) = owner)
  { s with
    mem := memErase s.mem lo hi, poison := s.poison.filter outside,
    lines := (s.lines.filter fun x => outside x.1).map fun x => if ofOwner x.1 then (x.1, { x.2 with chain := [] }) else x,
    counted := s.counted.filter fun x => outside x.1,
    hbm := s.hbm.filter fun x => outside x.1,
    cores := s.cores.map fun k =>
      { k with l1 := k.l1.filter fun e => outside (e.pa / 64) || e.bytes.isEmpty,
               l1Bad := k.l1Bad.filter fun w => outside (8 * w / 64) } }

/-! ## The end of contexts and partitions (R476) -/

/-- A record that waits at its gate is taken as a launch that has ended (R389). -/
def State.cutHead (s : State) (h : Head) : State :=
  let s1 : State := { s with heads := s.heads.filter fun x => decide (x ≠ h), pendingEnd := (h.ctx, h.lid) :: s.pendingEnd }
  s1.takeLaunch h.ctx h.q h.lid h.rec_ false

/-- Every launch of a context ends with code 4 (R389, R476). -/
def State.endContext (s : State) (ctx : Nat) : State :=
  let s1 := (List.range s.launches.length).foldl (fun (s : State) l =>
    if (s.launch l).ctx = ctx then s.endLaunch l else s) s
  (s1.heads.filter fun h => decide (h.ctx = ctx)).foldl (fun (s : State) h => s.cutHead h) s1

/-- A context is gone: its launches have ended, and nothing of it acts any more. -/
def State.dropContext (s : State) (ctx : Nat) : State :=
  let s1 := (s.endContext ctx).revokeDebug ctx
  { s1 with
    contexts := s1.contexts.filter fun c => decide (c.num ≠ ctx),
    copies := s1.copies.map fun t =>
      if (s1.pack t.pack).ctx = ctx then { t with life := .done, left := [], regs := { t.regs with arr := false } } else t,
    pendingEnd := s1.pendingEnd.filter fun x => decide (x.1 ≠ ctx),
    built := s1.built.filter fun b => decide (b.ctx ≠ ctx),
    ranAdtan := s1.ranAdtan.filter fun x => decide (x.1 / 2 ^ 48 ≠ ctx) }

/-- The contexts of a partition. -/
def State.contextsOf (s : State) (part : Nat) : List Nat :=
  (s.contexts.filter fun c => decide (c.part = part)).map fun c => c.num

/-- ERROR (R476): every context of the partition is ended with code 4. -/
def State.partError (s : State) (part : Nat) : State :=
  ((s.contextsOf part).foldl (fun (s : State) c => s.endContext c) s).modPart part fun p => { p with tdisp := .error }

/-- The granules of a partition. -/
def State.granulesOf (s : State) (part : Nat) : List Nat :=
  (s.granules.filter fun x => decide (x.2 = part)).map fun x => x.1

/-- STOP_INTERFACE (R476): contexts ended, granules scrubbed, snapshots closed, CONFIG_UNLOCKED. -/
def State.stopPartition (s : State) (part : Nat) : State :=
  let s1 := (s.contextsOf part).foldl (fun (s : State) c => s.dropContext c) s
  let s2 := (s1.granulesOf part).foldl (fun (s : State) g => s.scrub g) s1
  let s3 : State := { s2 with snapshots := s2.snapshots.filter fun e => decide (e.part ≠ part) }
  s3.modPart part fun p => { p with tdisp := .unlocked, execDigest := none }

/-- STOP_INTERFACE (R476). -/
def execStopInterface (part : Nat) (s : State) : Result State :=
  match s.partOf part with
  | none => .next s
  | some _ => .next (s.stopPartition part)

/-- LOCK_INTERFACE (R476): CONFIG_UNLOCKED to CONFIG_LOCKED. -/
def execLockInterface (part : Nat) (s : State) : Result State :=
  .next (s.modPart part fun p => if p.tdisp = .unlocked then { p with tdisp := .locked } else p)

/-- START_INTERFACE (R476): CONFIG_LOCKED to RUN. -/
def execStartInterface (part : Nat) (s : State) : Result State :=
  .next (s.modPart part fun p => if p.tdisp = .locked then { p with tdisp := .run } else p)

/-! ## Partitions and granules (R420, R476, R480) -/

/-- Refuse a change to a partition's configuration (R476): a locked one moves to ERROR. -/
def refuseFrozen (p : Partition) (s : State) : Answer :=
  refuse stDenied (if p.tdisp = .locked ∨ p.tdisp = .run then s.partError p.id else s)

/-- A key that the security processor draws. -/
def State.freeKey (s : State) (slot : Nat) : BitVec 256 :=
  let w := fun i => Config.freeWord s.nonce (slot + i)
  w 0 ++ w 1 ++ w 2 ++ w 3

/-- PART_CREATE (R373, R374, R420, R480): a partition 1 … 16 that does not exist, with a new key; it joins the rotation of every link's free
slots. -/
def execPartCreate (cmd : Cmd) (slotShare snapShare : Nat) (ownerKey : Option (BitVec 256)) (mailbox : Nat) (s : State) :
    Result State :=
  command cmd 0x01 cmd.byHost (fun s =>
    if cmd.part = 0 ∨ 16 < cmd.part ∨ mailbox % 4096 ≠ 0 then refuse stFormat s
    else
      match s.partOf cmd.part with
      | some p => refuseFrozen p s
      | none =>
        let p : Partition :=
          { id := cmd.part, tdisp := .unlocked, slotShare := slotShare, snapShare := snapShare, ownerKey := ownerKey,
            mailbox := mailbox, swapn := none, execDigest := none, key := (s.freeKey 9500, s.freeKey 9504) }
        accept { s.sweepConns.editRotation cmd.part (some slotShare) with partitions := s.partitions ++ [p], partMade := true }) s

/-- A partition is destroyed (R480): as STOP_INTERFACE; its granules, sessions and key are gone. -/
def State.destroyPartition (s : State) (part : Nat) : State :=
  let s1 := s.stopPartition part
  { s1.sweepConns.editRotation part none with
    granules := s1.granules.filter fun x => decide (x.2 ≠ part),
    sessions := s1.sessions.filter fun x => decide (x.part ≠ part),
    partitions := s1.partitions.filter fun p => decide (p.id ≠ part) }

/-- PART_DESTROY (R480). -/
def execPartDestroy (cmd : Cmd) (s : State) : Result State :=
  command cmd 0x02 cmd.byHost (withPart cmd fun p s => accept (s.destroyPartition p.id)) s

/-- Granules by number from a base address and a count. -/
def granuleList (base count : Nat) : List Nat := (List.range count).map fun i => base / granuleSize + i

/-- GRANULE_ASSIGN (R420, R476, R480): each granule is scrubbed before the command completes. -/
def execGranuleAssign (cmd : Cmd) (base count : Nat) (s : State) : Result State :=
  command cmd 0x03 cmd.byHost (withPart cmd fun p s =>
    if base % granuleSize ≠ 0 ∨ localEnd < base + count * granuleSize then refuse stFormat s
    else if p.tdisp ≠ .unlocked then refuseFrozen p s
    else
      let l := granuleList base count
      if s.usableGranules < base / granuleSize + count ∨ l.any (fun g => (tget s.granules g).isSome) then
        refuse stNoResource s
      else
        accept (l.foldl (fun (s : State) g => { (s.scrub g) with granules := tset s.granules g p.id }) s)) s

/-- GRANULE_REMOVE (R420, R476, R480): each granule is scrubbed. -/
def execGranuleRemove (cmd : Cmd) (base count : Nat) (s : State) : Result State :=
  command cmd 0x04 cmd.byHost (withPart cmd fun p s =>
    if base % granuleSize ≠ 0 ∨ localEnd < base + count * granuleSize then refuse stFormat s
    else if p.tdisp ≠ .unlocked then refuseFrozen p s
    else
      let l := granuleList base count
      if l.any (fun g => decide (tget s.granules g ≠ some p.id)) then refuse stNotFound s
      else
        accept (l.foldl (fun (s : State) g =>
          let s1 := s.scrub g
          { s1 with granules := tdel s1.granules g }) s)) s

/-- EXEC_LOAD (R476, R480): an executive signed under the owner key, or Korlan's where there is none, is measured. -/
def execExecLoad (cmd : Cmd) (image : List (BitVec 8)) (signedBy : Signer) (s : State) : Result State :=
  command cmd 0x05 (cmd.byHost || cmd.byOwner) (withPart cmd fun p s =>
    let want := match p.ownerKey with
      | some k => Signer.owner k
      | none => .korlan
    if p.tdisp = .run ∨ p.tdisp = .error then refuse stDenied s
    else if signedBy ≠ want then refuse stSignature s
    else accept (s.modPart p.id fun p => { p with execDigest := some (shaNumber image) })) s

/-! ## Contexts (R377, R481) -/

/-- A queue descriptor at an address (R377). -/
def State.descriptor (s : State) (at_ : Nat) : QueueDesc :=
  let w := s.physWord (at_ + 8)
  { base := s.physWord at_ % 2 ^ 48 / 4096 * 4096, owner := w.testBit 9, enable := w.testBit 8, log2 := w % 32 }

/-- The lowest context number that no context and no launch still to complete bears. -/
def State.freeContext (s : State) : Option Nat :=
  (List.range 65536).find? fun n =>
    (s.contexts.all fun c => decide (c.num ≠ n)) && s.launches.all fun l => l.completed || decide (l.ctx ≠ n)

/-- The context a block describes (R481). -/
def State.contextAt (s : State) (num part block : Nat) : Context :=
  let w := fun i => BitVec.ofNat 64 (s.physWord (block + i))
  { num := num, part := part, root := w 0x00, haddr := (w 0x08).setWidth 48 &&& ~~~1#48, kennelBase := w 0x10,
    kennelSize := (w 0x18).toNat, transBase := w 0x20, transSize := (w 0x28).toNat, block := block, debugRight := false,
    queues := (List.range 64).map fun q => s.descriptor (block + 0x800 + 32 * q) }

/-- CTX_CREATE (R480, R481): the block is read once; the answer is the context's number. -/
def execCtxCreate (cmd : Cmd) (block : Nat) (s : State) : Result State :=
  command cmd 0x06 cmd.byExec (withPart cmd fun p s =>
    if block % 4096 ≠ 0 then refuse stFormat s
    else if p.tdisp = .error ∨ !s.owned p.id block then refuse stDenied s
    else if (List.range 64).any (fun i => s.linePoisoned (block / 64 + i)) ||
        (memBytes s.mem (block + 0x30) 0x7D0).any (fun b => decide (b ≠ 0)) then refuse stFormat s
    else
      match s.freeContext with
      | none => refuse stNoResource s
      | some n => (stOk, [BitVec.ofNat 64 n], { s with contexts := s.contexts ++ [s.contextAt n p.id block] })) s

/-- CTX_DESTROY (R480). -/
def execCtxDestroy (cmd : Cmd) (ctx : Nat) (s : State) : Result State :=
  command cmd 0x07 cmd.byExec (withCtx cmd ctx fun _ s => accept (s.dropContext ctx)) s

/-- LAUNCH_END (R389): a launch that has been taken, one whose record waits at its gate, or one still in its queue. -/
def execLaunchEnd (cmd : Cmd) (ctx : Nat) (lid : BitVec 32) (s : State) : Result State :=
  command cmd 0x12 cmd.byExec (withCtx cmd ctx fun _ s =>
    let is := fun (l : Launch) => decide (l.ctx = ctx ∧ l.lid = lid)
    match s.launches.findIdx? fun l => is l && !l.completed with
    | some l => accept (s.endLaunch l)
    | none =>
      match s.heads.find? fun h => decide (h.ctx = ctx ∧ h.lid = lid) with
      | some h => accept (s.cutHead h)
      | none =>
        if lid = 0 ∨ s.launches.any is then refuse stNotFound s
        else accept { s with pendingEnd := (ctx, lid) :: s.pendingEnd.filter fun x => decide (x ≠ (ctx, lid)) }) s

/-! ## Poison, health and parameters (R298, R388, R411, R423, R480) -/

/-- POISON_CLEAR (R411, R480): zeros are written to the line and its poison is cleared. -/
def execPoisonClear (cmd : Cmd) (line : Nat) (s : State) : Result State :=
  command cmd 0x0D cmd.byExec (withPart cmd fun p s =>
    if !s.owned p.id (64 * line) then refuse stDenied s
    else if s.lostLine line then refuse stNoResource s
    else accept { s with mem := memErase s.mem (64 * line) (64 * line + 64), poison := setDel s.poison line }) s

/-- Runs of consecutive numbers in a rising list, as first and length. -/
def runsOf : List Nat → List (Nat × Nat)
  | [] => []
  | a :: l =>
    match runsOf l with
    | (b, n) :: r => if b = a + 1 then (a, n + 1) :: r else (a, 1) :: (b, n) :: r
    | [] => [(a, 1)]

/-- The ranges of poisoned lines that a test of granules admits (R411), each as first line, number of lines and the lines from one to the
next: runs of neighbours, then, of each failed channel that R410 leaves without its lines, those of each run of granules. -/
def State.poisonRanges (s : State) (f : Nat → Bool) : List (Nat × Nat × Nat) :=
  let perGranule := granuleSize / 64
  let lost := s.failedChannels.filter fun c => s.failedChannels.any fun d => decide (d.2 = c.2 ∧ d.1 ≠ c.1)
  let granules := if lost.isEmpty then [] else runsOf ((List.range (localEnd / granuleSize)).filter f)
  ((runsOf (s.poison.filter fun x => f (x / perGranule))).map fun r => (r.1, r.2, 1)) ++
  lost.flatMap fun c => granules.map fun g => (perGranule * g.1 + 64 * (c.1 / 2) + 32 * (c.1 % 2) + c.2, perGranule / 256 * g.2, 256)

/-- The bits of a set of small numbers. -/
def maskOf (l : List Nat) : BitVec 64 := l.foldl (fun m i => m ||| BitVec.ofNat 64 (2 ^ i)) 0

/-- The words of HEALTH for a core: errors, lanes, service, scratchpad units, parity errors of the instruction cache. -/
def Core.health (k : Core) : List (BitVec 64) :=
  [BitVec.ofNat 64 k.icacheErrors, BitVec.ofNat 64 (k.corrected % 2 ^ 32 + k.uncorrected % 2 ^ 32 * 2 ^ 32), k.retire ++ k.healthy,
   BitVec.ofNat 64 ((if k.disabled then 1 else 0) + (if k.marked then 2 else 0) + k.networkErrors % 2 ^ 32 * 2 ^ 32),
   maskOf k.unitsOut]

/-- The words of HEALTH for a cluster: how many ways of its slice have errors, TLB errors, the retired ways, then each way's errors
by 16·bank + way (R326). -/
def Cluster.health (k : Cluster) : List (BitVec 64) :=
  BitVec.ofNat 64 (k.errors.length + k.tlbErrors % 2 ^ 31 * 2 ^ 32 + (if k.failed then 2 ^ 63 else 0)) ::
  ((List.range 8).map fun i => maskOf ((k.waysOut.filter fun w => decide (w / 64 = i)).map fun w => w % 64)) ++
  k.errors.map fun x => BitVec.ofNat 64 (x.1 * 2 ^ 32 + x.2 % 2 ^ 32)

/-- The link status word (R485). -/
def State.linkWord (s : State) (i : Nat) : BitVec 64 :=
  let l := s.links.getD i Link.reset
  let sess := (s.sessions.filter fun x => decide (x.route.head? = some i)).length
  BitVec.ofNat 64 (Nat.min l.retries (2 ^ 32 - 1) * 2 ^ 32 + Nat.min sess 15 * 16 + l.width.toNat * 4 + l.state.toNat)

/-- The words of HEALTH for a channel: its errors, bit 63 set once it has failed. -/
def State.channelWord (s : State) (i : Nat) : BitVec 64 :=
  BitVec.ofNat 64 ((tget s.channelCounts i).getD 0 % 2 ^ 63 + (if s.failedChannels.contains (i / 32, i % 32) then 2 ^ 63 else 0))

/-- The words of HEALTH for a die: routers failed, and router errors. -/
def Die.health (d : Die) : BitVec 64 :=
  BitVec.ofNat 64 ((maskOf d.routersFailed).toNat % 2 ^ 32 + (d.routerErrors.foldl (fun n x => n + x.2.length) 0) % 2 ^ 32 * 2 ^ 32)

/-- What HEALTH reports of units out of service and of poison (R327, R392, R393, R410, R411, R485): the failed channels of each stack, the
cores marked or out of service, the dies, the links, then the poisoned ranges that a test admits, their number first. -/
def State.healthFirst (s : State) (f : Nat → Bool) : List (BitVec 64) :=
  let ranges := s.poisonRanges f
  ((List.range 8).map fun k => maskOf ((s.failedChannels.filter fun c => decide (c.1 = k)).map fun c => c.2)) ++
  ((List.range 4).map fun i => maskOf ((List.range 64).filter fun c =>
    let k := s.core (64 * i + c)
    k.disabled || k.marked)) ++
  s.dies.map Die.health ++ (List.range 16).map s.linkWord ++
  (BitVec.ofNat 64 ranges.length :: ranges.flatMap fun r => [BitVec.ofNat 64 (64 * r.1), BitVec.ofNat 64 r.2.1, BitVec.ofNat 64 (64 * r.2.2)])

/-- What it reports after that (R166, R183, R296, R298, R326, R327, R408, R409): what each core, cluster and channel counts and has out of
service. -/
def State.healthCounts (s : State) : List (BitVec 64) :=
  s.cores.flatMap Core.health ++ s.clusters.flatMap Cluster.health ++ (List.range 256).map s.channelWord

/-- Words that are not zero, each after its place. -/
def sparse (l : List (BitVec 64)) : List (BitVec 64) :=
  (l.mapIdx fun i w => (i, w)).flatMap fun x => if x.2 = 0 then [] else [BitVec.ofNat 64 x.1, x.2]

/-- What HEALTH reports. DESIGN CHOICE: what is out of service and what is poisoned comes first, so that it reaches an executive, whose page
holds 500 words; then the counts, for the host in their places, for an executive those that are not zero (log 83). -/
def State.healthWords (s : State) (host : Bool) (part : Nat) : List (BitVec 64) :=
  s.healthFirst (fun g => host || decide (tget s.granules g = some part)) ++
  (if host then s.healthCounts else sparse s.healthCounts)

/-- HEALTH (R480): the executive sees only its partition's poisoned ranges. A response has at most 65,536 bytes (R479), an executive's what its
mailbox page has room for. -/
def execHealth (cmd : Cmd) (s : State) : Result State :=
  command cmd 0x0B (cmd.byHost || cmd.byExec) (fun s =>
    (stOk, (s.healthWords cmd.byHost cmd.part).take (if cmd.byHost then 8188 else 500), s)) s

/-- SET_PARAM (R298, R388, R423, R480). -/
def execSetParam (cmd : Cmd) (par : Param) (s : State) : Result State :=
  let allowed := match par with
    | .swapnPart _ => cmd.byExec
    | _ => cmd.byHost
  command cmd 0x10 allowed (fun s =>
    match par with
    | .swapn d v =>
      if 8 ≤ d then refuse stNotFound s
      else if v < 2 ^ 10 ∨ 2 ^ 40 < v then refuse stFormat s
      else accept (s.modDie d fun x => { x with swapn := v })
    | .swapnPart v =>
      withPart cmd (fun p s =>
        if v < 2 ^ 10 ∨ 2 ^ 40 < v then refuse stFormat s
        else accept (s.modPart p.id fun p => { p with swapn := some v })) s
    | .laneRetire n => if n = 0 then refuse stFormat s else accept { s with laneRetire := n }
    | .versionStore n =>
      if 16 < n then refuse stFormat s
      else if s.partMade then refuse stDenied s
      else accept { s with storeShare := n }) s

/-! ## Commands that are none (R480) -/

/-- The security processor takes a command whose opcode is none of those listed: it is refused with status 1. -/
def State.takeUnlisted (s : State) (c : Cmd) (opcode : Nat) : State :=
  if 1 ≤ opcode && opcode ≤ 0x12 then s
  else
    match command c opcode true (refuse stFormat) s with
    | .next s' => s'
    | _ => s

/-! ## Reset (R480, R492) -/

/-- The device right after a reset, what it has already sent and the turns to come kept; its cycle counter starts again. -/
def State.afterReset (s : State) (up : Bool) : State :=
  { State.reset with
    turn := s.turn, sched := s.sched, nonce := s.nonce, issuer := s.issuer, linkOut := s.linkOut,
    responses := s.responses, hostReads := s.hostReads, romMeasured := up, ready := up }

/-- PACKAGE_RESET (R492): fuses read, HBM and links trained, the version store reserved, the ROM measured. -/
def execPackageReset (s : State) : Result State := .next (s.afterReset true)

/-- RESET (R480): every partition is destroyed first; the bring-up of R492 is the next turn. -/
def execReset (cmd : Cmd) (s : State) : Result State :=
  command cmd 0x0E cmd.byHost (fun s =>
    let s1 := (s.partitions.map fun p => p.id).foldl (fun (s : State) p => s.destroyPartition p) s
    let s2 := s1.afterReset false
    accept { s2 with sched := .hw .packageReset :: s2.sched }) s

end Sys2Proof.Machine
end

