-- ==== Sys2Proof/Machine/Fabric.lean ====
section
/-! DEFINITION. The host port, SPDM and the Belyen links (R421, R473–R478, R482–R486). -/
namespace Sys2Proof.Machine

/-! ## Host attachment (R474, R475) -/

/-- Whether a host access to some bytes is performed (R474): they lie in granules of a partition in RUN whose interface the stream
is bound to; a stream is named by that partition's number. -/
def State.hostMay (s : State) (stream pa n : Nat) : Bool :=
  decide (pa + n ≤ localEnd) && ((s.partOf stream).any fun p => decide (p.tdisp = .run)) &&
  (List.range n).all fun i => s.owned stream (pa + i)

/-- Whether a line that some bytes touch is poisoned. -/
def State.bytesPoisoned (s : State) (pa n : Nat) : Bool := (List.range n).any fun i => s.linePoisoned ((pa + i) / 64)

/-- A write of bytes at their lines' homes, cut at lines. -/
def State.homeWrite (s : State) (pa : Nat) (b : List (BitVec 8)) : State :=
  (pageCuts (BitVec.ofNat 64 pa) b (b.length / 64 + 2)).foldl (fun (s : State) x => s.writeMem x.1.toNat x.2) s

/-- One counted read of each line that some bytes touch. DESIGN CHOICE: the host's reads and a peer's count, of which R415 says nothing
(log 145). -/
def State.homeRead (s : State) (pa n : Nat) : State :=
  (((List.range n).map fun i => (pa + i) / 64).eraseDups).foldl (fun (s : State) l => s.countRead l) s

/-- HOST_MEM_ACCESS (R474): a read that is not performed returns poison, a write that is not is dropped. -/
def execHostMemAccess (stream pa : Nat) (acc : HostAccess) (s : State) : Result State :=
  match acc with
  | .read n =>
    let bad := !s.hostMay stream pa n || s.bytesPoisoned pa n
    let r : HostRead := { pa := pa, bytes := if bad then [] else memBytes s.mem pa n, poisoned := bad }
    let s1 := if s.hostMay stream pa n then s.homeRead pa n else s
    .next { s1 with hostReads := s1.hostReads ++ [r] }
  | .write b => .next (if s.hostMay stream pa b.length then s.homeWrite pa b else s)

/-- DOORBELL (R377, R475): a write to offset 0 of a partition's page makes the front end read the named descriptor again. -/
def execDoorbell (part off : Nat) (value : BitVec 64) (s : State) : Result State :=
  let ctx := value.toNat % 2 ^ 16
  let q := value.toNat / 2 ^ 16 % 64
  match s.ctxOf ctx with
  | none => .next s
  | some c =>
    let at_ := c.descAt q
    if off ≠ 0 ∨ c.part ≠ part ∨ s.linePoisoned (at_ / 64) then .next s
    else
      let d := s.descriptor at_
      .next (s.modContext ctx fun c => { c with queues := (List.range 64).map fun i => if i = q then d else c.queue i })

/-! ## SPDM and measurements (R477, R478) -/

/-- A digest as four words. -/
def digestWords (d : BitVec 256) : List (BitVec 64) := (List.range 4).map fun i => (d >>> (64 * i)).setWidth 64

/-- The units that fuses disable, as numbers: cores, channels, lanes. -/
def fuseData : List Nat :=
  deviceFamily :: Config.fuseStep.toNat :: (List.range 256).map (fun c => if Config.fuseDisabled c then 1 else 0) ++
  Config.fuseChannels.map (fun x => 32 * x.1 + x.2) ++ (List.range 256).map fun c => (Config.fuseHealthy c).toNat

/-- A partition's configuration as numbers (R478, index 5). -/
def State.partData (s : State) (p : Partition) : List Nat :=
  p.slotShare :: p.snapShare :: (match p.ownerKey with
    | some k => [1, k.toNat]
    | none => [0]) ++ s.granulesOf p.id

/-- The six measurements of a partition, at this moment (R478). -/
def State.measurements (s : State) (p : Partition) : List (BitVec 256) :=
  [Config.measure 1 [], Config.measure 2 fuseData, s.patchId, p.execDigest.getD (Config.measure 4 []),
   Config.measure 5 (s.partData p),
   Config.measure 6 (s.storeShare :: (p.swapn.getD 0) :: (s.dies.take 8).map fun d => d.swapn)]

/-- The DMTF type of the value at each index (PRESUMED: DSP0274; log 130): immutable ROM, mutable firmware, hardware or
firmware configuration, each as a digest. -/
def measureType (i : Nat) : Nat := if i = 1 then 0 else if i = 2 then 2 else if i ≤ 4 then 1 else 3

/-- A digest as a DMTF measurement block (R478): index, the DMTF specification, size, value type, value size, digest. -/
def measureBlock (i : Nat) (d : BitVec 256) : List (BitVec 8) :=
  leBytes 1 i ++ leBytes 1 1 ++ leBytes 2 35 ++ leBytes 1 (measureType i) ++ leBytes 2 32 ++ (digestWords d).flatMap fun w => leBytes 8 w.toNat

/-- Bytes as words, the last filled up with zeros. -/
def bytesWords (b : List (BitVec 8)) : List (BitVec 64) :=
  (List.range ((b.length + 7) / 8)).map fun i => leWord ((b.drop (8 * i)).take 8)

/-- The measurement record of a partition: its blocks by index. -/
def State.measureRecord (s : State) (p : Partition) : List (BitVec 64) :=
  bytesWords ((s.measurements p).mapIdx fun i d => measureBlock (i + 1) d).flatten

/-- A response of the device over DOE, which is to no firmware command. -/
def State.answer (s : State) (part status : Nat) (payload : List (BitVec 64)) : State :=
  { s with responses := s.responses ++
      [{ opcode := 0, length := 8 * payload.length, tag := 0, part := part, status := status, payload := payload }] }

/-- GET_MEASUREMENTS (R478, R492). -/
def execGetMeasurements (part : Nat) (s : State) : Result State :=
  if !s.ready then .next s
  else
    match s.partOf part with
    | none => .next (s.answer part stNotFound [])
    | some p => .next (s.answer part stOk (s.measureRecord p))

/-- A signature of 7,856 bytes (R477). -/
def State.signature (s : State) : List (BitVec 64) :=
  (List.range 982).map fun i => leWord ((List.range 8).map fun j => Config.signatureByte s.nonce (8 * i + j))

/-- The answer to an SPDM request (R477): SPDM 1.3, SHA-256 alone, one ExtAsym entry 0x00 / 0x8001 and no BaseAsymAlgo. -/
def State.spdmAnswer (s : State) : SpdmRequest → List (BitVec 64)
  | .getVersion => [0x13]
  | .getCapabilities => [Config.spdmCapabilities]
  | .negotiateAlgorithms => [1, 0, 0x80010000]
  | .getCertificate => Config.certificate
  | .challenge => s.signature
  | .keyExchange => s.signature

/-- SPDM_REQUEST (R477, R492): answered once the bring-up has ended. -/
def execSpdmRequest (req : SpdmRequest) (s : State) : Result State :=
  if !s.ready then .next s else .next (s.answer 0 stOk (s.spdmAnswer req))

/-! ## Links going down (R486) -/

/-- Whether an element goes over a window that is lost. -/
def overLost (lost : List Nat) (xl : Xlate) : Bool := decide (xl.tdev ≠ 0) && lost.contains xl.tdev

/-- A load in flight completes with poisoned data. -/
def loseLoad (lost : List Nat) (n : Nat) (acc : List ElemAcc) : List ElemAcc :=
  acc.map fun x => if overLost lost x.xl && x.landed.isNone then
    { x with landed := some (Config.freeWord n (9600 + x.e)), bad := true } else x

/-- The queued work after its windows are lost, and the first dropped store. -/
def loseOp (lost : List Nat) (n : Nat) : VOp → VOp × Option Xlate
  | .load k vd acc => (.load k vd (loseLoad lost n acc), none)
  | .loadX k vd acc st => (.loadX k vd (loseLoad lost n acc) st, none)
  | .store k vd acc =>
    (.store k vd (acc.filter fun x => !overLost lost x.xl), (acc.find? fun x => overLost lost x.xl).map fun x => x.xl)
  | .storeX vd acc st =>
    (.storeX vd (acc.filter fun x => !overLost lost x.xl) st, (acc.find? fun x => overLost lost x.xl).map fun x => x.xl)
  | op => (op, none)

/-- A row whose windows are lost: its queued accesses and held posts (R486), each dropped write a machine check. -/
def State.loseRow (s : State) (p r : Nat) (lost : List Nat) : State :=
  let w := s.row p r
  let ops := w.vq.map fun x => (x, loseOp lost s.nonce x.op)
  let dropped := (ops.filterMap fun x => x.2.2) ++ ((w.posts.filter fun x => overLost lost x.xl).map fun x => x.xl)
  let s1 := s.modRow p r fun w =>
    { w with vq := ops.map fun x => { x.1 with op := x.2.1 },
             posts := w.posts.filter fun x => !overLost lost x.xl }
  dropped.foldl (fun (s : State) xl => s.machineCheck p r (syndrome 6 false 0 xl.pa) 0) s1

/-- A write that may be on its way: whose it is, and where it goes. -/
def LinkMsg.posted : LinkMsg → Option (Sender × Nat × Nat)
  | .write by_ t pa _ => some (by_, t, pa)
  | .atomic by_ t pa _ _ _ _ => some (by_, t, pa)
  | _ => none

/-- A message that has arrived: nobody waits for it. -/
def LinkMsg.arrived (part : Nat) : LinkMsg → LinkMsg
  | .write _ t pa b => .write (.other part) t pa b
  | .atomic _ t pa f w b c => .atomic (.other part) t pa f w b c
  | m => m

/-- Whose write has been dropped (R486): the owning row takes a machine check; a transfer, whose element it was, fails with COPYERR cause
0x07. -/
def State.lostWrite (s : State) (x : Sender × Nat × Nat) : State :=
  match x.1 with
  | .row p r => s.machineCheck p r (syndrome 6 false 0 x.2.2) 0
  | .copy p r tid =>
    let s := s.copyFailed p r tid 0x07
    { s with copies := s.copies.map fun t =>
        if t.pack = p ∧ t.row = r ∧ t.tid = tid ∧ t.life = .started then { t with left := [], cause := some (t.cause.getD 0x07) } else t }
  | .other _ => s

/-- The core that a sender's writes come from. -/
def State.senderCore (s : State) : Sender → Option Nat
  | .row p _ => some (s.pack p).core
  | .copy p _ _ => some (s.pack p).core
  | .other _ => none

/-- The writes of a partition still on their way over lost windows, the last sent first: those that are dropped, and the messages that stay.
Those of one core to one TDEV arrive in the order sent (R484), so that a write sent before one that has arrived has arrived. DESIGN CHOICE:
which of them are still on their way, the manual leaves to timing (log 151). -/
def State.onTheWay (s : State) (part : Nat) (lost : List Nat) :
    List (LinkMsg × Nat) → List (Option Nat × Nat) → List (Sender × Nat × Nat) × List LinkMsg
  | [], _ => ([], [])
  | (m, i) :: l, there =>
    match m.posted with
    | none => let x := s.onTheWay part lost l there; (x.1, m :: x.2)
    | some (by_, t, pa) =>
      if s.partOfSender by_ ≠ part ∨ !lost.contains t then let x := s.onTheWay part lost l there; (x.1, m :: x.2)
      else
        let route := (s.senderCore by_, t)
        if there.contains route || route.1.isNone || decide (s.pick (9700 + i) 2 = 0) then
          let x := s.onTheWay part lost l (route :: there)
          (x.1, m.arrived part :: x.2)
        else
          let x := s.onTheWay part lost l there
          ((by_, t, pa) :: x.1, x.2)

/-- The writes still on their way over lost windows are dropped (R486). -/
def State.loseSent (s : State) (part : Nat) (lost : List Nat) : State :=
  let (dropped, kept) := s.onTheWay part lost (s.linkOut.zipIdx.reverse) []
  dropped.reverse.foldl State.lostWrite { s with linkOut := kept.reverse }

/-- What waits for a session's next key is never sent (R486). -/
def State.loseWaiting (s : State) (x : Session) : State :=
  (x.waiting.filterMap LinkMsg.posted).foldl State.lostWrite s

/-- Transfers whose timeline lies in a lost window: the addition is dropped, a machine check to the row that issued them (R486). -/
def State.loseTimelines (s : State) (part : Nat) (lost : List Nat) : State :=
  (List.range s.copies.length).foldl (fun (s : State) i =>
    match s.copies[i]? with
    | none => s
    | some t =>
      match t.tl with
      | none => s
      | some xl =>
        if overLost lost xl && decide ((s.pack t.pack).part = part) then
          let s1 := if t.life = .done then s else s.machineCheck t.pack t.row (syndrome 6 false 0 xl.pa) 0
          s1.setCopy i { t with tl := none }
        else s) s

/-- The windows of one partition that are lost. -/
def State.loseWindows (s : State) (part : Nat) (lost : List Nat) : State :=
  let s1 := (s.agents.filter fun a => decide ((s.pack a.pr.1).part = part)).foldl (fun (s : State) a =>
    match a with
    | .control p r => s.loseRow p r lost
    | .strand .. => s) s
  (s1.loseTimelines part lost).loseSent part lost

/-- A link goes down (R486): every TDEV routed over it loses its session. -/
def State.linkFails (s : State) (l : Nat) : State :=
  let gone := s.sessions.filter fun x => decide (x.route.head? = some l)
  let s1 : State :=
    { s with links := s.links.modify l fun k => { k with state := 0, width := 0, recent := [], tagFails := 0, group := 0 },
             sessions := s.sessions.filter fun x => decide (x.route.head? ≠ some l) }
  let s2 := ((gone.map fun x => x.part).eraseDups).foldl (fun (s : State) part =>
    s.loseWindows part ((gone.filter fun x => decide (x.part = part)).map fun x => x.tdev)) s1
  gone.foldl State.loseWaiting s2

/-- LINK_DOWN (R486). -/
def execLinkDown (link : Nat) (s : State) : Result State := .next (s.linkFails link)

/-- FAIL_UNIT (R298, R409, R480): a lane or core is marked, a channel or link fails. -/
def execFailUnit (cmd : Cmd) (unit : FailUnit) (s : State) : Result State :=
  command cmd 0x0C cmd.byHost (fun s =>
    match unit with
    | .lane c l => if 256 ≤ c ∨ 32 ≤ l then refuse stNotFound s else accept (s.markLane c l)
    | .channel k c => if 8 ≤ k ∨ 32 ≤ c then refuse stNotFound s else accept (s.failChannel (k, c))
    | .core c => if 256 ≤ c then refuse stNotFound s else accept (s.markCore c)
    | .link l => if 16 ≤ l then refuse stNotFound s else accept (s.linkFails l)) s

/-! ## Sessions, keys and flits (R482–R484) -/

/-- LINK_SESSION (R484): the peer is checked, the route fixed, and the link brought up again if it was down. `route` is the link
and the forwarding devices. -/
def execLinkSession (cmd : Cmd) (tdev : Nat) (route : List Nat) (digestOk : Bool) (s : State) : Result State :=
  command cmd 0x11 cmd.byOwner (withPart cmd fun p s =>
    if tdev = 0 ∨ 128 ≤ tdev then refuse stFormat s
    else
      match route.head? with
      | none => refuse stFormat s
      | some l =>
        if 16 ≤ l then refuse stNotFound s
        else if p.tdisp = .error then refuse stDenied s
        else if !digestOk then refuse stSignature s
        else
          let up := fun (k : Link) => if k.state = 0 then { k with state := 2, width := 2, seq := 0, group := 0, credits := 0 } else k
          accept { s with
            links := s.links.modify l up,
            sessions := (s.sessions.filter fun x => decide (x.tdev ≠ tdev ∨ x.part ≠ p.id)) ++
              [{ tdev := tdev, part := p.id, route := route, epoch := 0 }] }) s

/-- KEY_UPDATE (R483): the session of a TDEV gets its next key, and what waited for it is sent. -/
def execKeyUpdate (tdev : Nat) (s : State) : Result State :=
  .next { s with
    linkOut := s.linkOut ++ (s.sessions.filter fun x => decide (x.tdev = tdev)).flatMap fun x => x.waiting,
    sessions := s.sessions.map fun x =>
      if x.tdev = tdev then { x with epoch := x.epoch + 1, sent := x.waiting.length, taken := 0, waiting := [] } else x }

/-- The cycles of 1 ms at the nominal rate (R186, R482). -/
def linkSpan : Nat := 1050000

/-- A retry of a link (R482): 64 within 1 ms drop it to four lanes, and take it down at four lanes. -/
def State.linkRetry (s : State) (l : Nat) : State :=
  let k := s.links.getD l Link.reset
  let recent := s.cycle :: k.recent.filter fun c => decide (s.cycle < c + linkSpan)
  let k1 := { k with retries := Nat.min (k.retries + 1) (2 ^ 32 - 1), recent := recent }
  if recent.length < 64 then { s with links := s.links.set l k1 }
  else if k.width = 2 then { s with links := s.links.set l { k1 with width := 1, recent := [] } }
  else ({ s with links := s.links.set l k1 } : State).linkFails l

/-- A field of a flit's header (R482): `n` bytes at `off`. -/
def flitField (flit : List (BitVec 8)) (off n : Nat) : Nat := leNat ((flit.drop off).take n)
def flitType (flit : List (BitVec 8)) : Nat := flitField flit 0 1
def flitSeq (flit : List (BitVec 8)) : Nat := flitField flit 1 4
def flitCredits (flit : List (BitVec 8)) : Nat := flitField flit 5 2

/-- Whether a flit arrives whole (R482): its CRC-64 is right. DESIGN CHOICE: a flit whose header's last byte is not zero is retried as one
whose CRC is bad (log 110). -/
def flitWhole (flit : List (BitVec 8)) : Bool :=
  decide (flit.length = 256) && decide (leWord (flit.drop 248) = Config.crc64 (flit.take 248)) && decide (flitField flit 7 1 = 0)

/-- Whether a flit ends its group (R483): its type says so, or it is the sixteenth. -/
def flitEnds (k : Link) (flit : List (BitVec 8)) : Bool := decide (16 ≤ k.group + 1) || Config.flitLast (flitType flit)

/-- The session whose key a flit is under (R483). -/
def flitSession (link : Nat) (flit : List (BitVec 8)) (x : Session) : Bool :=
  decide (x.route.head? = some link ∧ x.tdev = Config.flitTdev flit)

/-- A group ends with its last flit (R483): its tag is right, and its key not exhausted, or it is discarded whole and retried from its first
flit; a second failure takes the link down. -/
def State.endGroup (s : State) (link : Nat) (flit : List (BitVec 8)) (tagOk : Bool) : State :=
  let k := s.links.getD link Link.reset
  let mine := flitSession link flit
  if tagOk && s.sessions.all fun x => !mine x || decide (x.taken < keyGroups) then
    { s with links := s.links.set link { k with group := 0, tagFails := 0 },
             sessions := s.sessions.map fun x => if mine x then { x with taken := x.taken + 1 } else x }
  else if k.tagFails = 0 then
    ({ s with links := s.links.set link { k with seq := k.seq - k.group, group := 0, tagFails := 1 } } : State).linkRetry link
  else s.linkFails link

/-- LINK_FLIT_RECEIVE (R482, R483): a flit is taken once and in order, one that does not arrive whole is retried; it returns credits, and
belongs to a group of 1 to 16 flits, whose tag the last of them carries. -/
def execLinkFlitReceive (link : Nat) (flit : List (BitVec 8)) (tagOk : Bool) (s : State) : Result State :=
  let k := s.links.getD link Link.reset
  if 16 ≤ link ∨ k.state ≠ 2 then .next s
  else if !flitWhole flit then .next (s.linkRetry link)
  else if flitSeq flit ≠ k.seq % 2 ^ 32 then .next s
  else
    let s1 : State := { s with links := s.links.set link { k with seq := k.seq + 1, credits := k.credits + flitCredits flit, group := k.group + 1 } }
    .next (if flitEnds k flit then s1.endGroup link flit tagOk else s1)

/-! ## Accesses that arrive (R421) -/

/-- The atomic an S value names on the link, in the order of R349. -/
def amoOf (f : BitVec 4) : Option AmoFn :=
  [AmoFn.add, .and, .or, .xor, .max, .min, .maxu, .minu, .swap, .cas, .fadd][f.toNat]?

/-- The partition that serves accesses arriving from a TDEV. -/
def State.servedBy (s : State) (tdev : Nat) : Option Nat :=
  (s.sessions.find? fun x => decide (x.tdev = tdev)).map fun x => x.part

/-- Whether an arriving access of some bytes is performed: in granules of the session's partition, which runs. -/
def State.remoteMay (s : State) (tdev pa n : Nat) : Bool :=
  match s.servedBy tdev with
  | none => false
  | some part => s.hostMay part pa n

/-- A physical address of plain local memory. -/
def localXlate (pa : Nat) : Xlate :=
  { pa := pa, r := true, w := true, x := false, u := false, vers := false, repl := false, nc := true, tdev := 0 }

/-- An answer to a peer leaves. -/
def State.reply (s : State) (tdev : Nat) (m : LinkMsg) : State := s.send ((s.servedBy tdev).getD 0) m

/-- REMOTE_ACCESS (R421): performed at this device's home, under the target partition; one that may not be is answered with an
error. -/
def execRemoteAccess (tdev pa : Nat) (acc : RemoteOp) (s : State) : Result State :=
  match acc with
  | .read n =>
    if s.remoteMay tdev pa n then
      let bad := s.bytesPoisoned pa n
      .next ((s.homeRead pa n).reply tdev (.response tdev pa (if bad then [] else memBytes s.mem pa n) bad))
    else .next (s.reply tdev (.error tdev pa))
  | .write b => if s.remoteMay tdev pa b.length then .next (s.homeWrite pa b) else .next (s.reply tdev (.error tdev pa))
  | .atomic f w32 b c =>
    let w := if w32 then 4 else 8
    match amoOf f with
    | none => .next (s.reply tdev (.error tdev pa))
    | some f =>
      if !s.remoteMay tdev pa w || decide (pa % w ≠ 0) then .next (s.reply tdev (.error tdev pa))
      else
        match s.atomicAt ((s.servedBy tdev).getD 0) 0 (localXlate pa) f w b c false with
        | .done old _ s' => .next (s'.reply tdev (.response tdev pa (leBytes w old.toNat) false))
        | _ => .next (s.reply tdev (.response tdev pa [] true))

end Sys2Proof.Machine
end

