-- ==== Sys2Proof/Machine/Fetch.lean ====
section
/-! DEFINITION. From a thread's turn to the instruction it executes: is an asynchronous event due (R112, R278), its code line
(R47, R50, R406), the patch table's match (R79, R80), decoding (R67). -/
namespace Sys2Proof.Machine

/-! ## Events due -/

/-- The asynchronous event due at a control thread (R112, R278): a machine check, then a strand fault, at a run boundary
outside a handler. -/
noncomputable def State.dueEvent (s : State) (a : Agent) : Option Instr :=
  match a with
  | .strand .. => none
  | .control p r =>
    let w := s.row p r
    if !s.atBoundary p r then none
    else if w.mcheck.isSome then some (.machineCheck p r)
    else if w.pendingStrand.isSome then some (.strandFaultTrap p r)
    else none

/-! ## Fetch -/

/-- What a thread's turn comes to: an instruction with its latch, or a trap already taken. -/
inductive Fetched where
  | instr (i : Instr) (s : State)
  | trapped (s : State)

/-- A trap found before any instruction executes (R47, R406): on the control thread, or on every member of a group. -/
def State.fetchTrap (s : State) (a : Agent) (cause : BitVec 8) (val : BitVec 64) : State :=
  match a with
  | .control p r => s.takeTrap p r cause (s.thread a).pc val 0
  | .strand p r k =>
    let s := { s with fetch := { s.fetch with pc := (s.thread a).pc } }
    ((s.groupOf p r k).foldl (fun s j => s.faultStrand p r j cause (val.setWidth 48)) s).releaseAll p r

/-- Give a line snapshot to every member of the stream (R50). -/
def State.keepLine (s : State) (a : Agent) (l : Line) : State :=
  match a with
  | .control .. => s.modThread a fun t => { t with line := some l }
  | .strand p r k =>
    (s.groupOf p r k).foldl (fun s j => s.modThread (.strand p r j) fun t => { t with line := some l }) s

/-- A stream in Adtan code is in no native line, so it enters one anew (R47, R50). -/
def State.dropLine (s : State) (a : Agent) : State :=
  match a with
  | .control .. => s.modThread a fun t => { t with line := none }
  | .strand p r k => (s.groupOf p r k).foldl (fun s j => s.modThread (.strand p r j) fun t => { t with line := none }) s

/-- The bytes of a line as a thread enters it: as they stand, or as it read them early (R449). -/
def State.lineEntered (s : State) (a : Agent) (la : BitVec 48) (b : List (BitVec 8)) : List (BitVec 8) × State :=
  let mine := fun (e : Early) => decide (e.agent = a ∧ e.base = none ∧ e.va = la)
  match s.early.find? mine with
  | some e => if s.pick (9800 + agentSlot a) 2 = 0 then (e.bytes, s) else (b, s.forget mine)
  | none => (b, s)

/-- The line a thread executes from: its snapshot, or the line entered now, which must be readable and legal (R47, R50,
R406); the error is the cause and value of the trap, with the state. -/
def State.enterLine (s : State) (a : Agent) : Except (BitVec 8 × BitVec 64 × State) (Line × State) :=
  let pc := (s.thread a).pc
  let la := lineAddr pc
  match (s.thread a).line.filter fun l => decide (l.addr = la) with
  | some l => .ok (l, s)
  | none =>
    match s.fetchBytes a (s.userMode a) (va64 la) 64 with
    | .error (c, s') => .error (c, va64 pc, s')
    | .ok (b, s) =>
      let (b, s) := s.lineEntered a la b
      .ok ({ addr := la, bytes := b }, s)

/-- The instruction that words decode to; an encoding outside the map is the illegal instruction (R67, R69, R70). -/
noncomputable def instrOf (raw : BitVec 64) (d : Except Reject Instr) : Instr :=
  match d with
  | .ok i => i
  | .error _ => .illegalInstruction raw

/-- Latch what is executing. -/
def State.latch (s : State) (a : Agent) (f : Fetch) : State := { s with issuer := a, fetch := f }

/-- The next address after a native slot (R48). -/
def nativeNext (b : List (BitVec 8)) (pc : BitVec 48) : BitVec 48 :=
  if pc.toNat / 2 % 32 < lineCount b then pc + 2 else lineAddr pc + 66

/-- Fetch from a native line (R45–R50), the patch table first (R79). DESIGN CHOICE: a control thread that comes to slot 0 or a
slot above the line's N takes trap 0x03 with its own address, as R114 gives for a strand (log 122). -/
noncomputable def State.fetchNative (s : State) (a : Agent) : Fetched :=
  let pc := (s.thread a).pc
  match s.enterLine a with
  | .error (c, v, s') => .trapped (s'.fetchTrap a c v)
  | .ok (l, s') =>
    match lineReason l.bytes (isStrand a) with
    | some n => .trapped (s'.fetchTrap a 0x02 (va64 l.addr + BitVec.ofNat 64 n))
    | none =>
      let slot := pc.toNat / 2 % 32
      if slot = 0 ∨ lineCount l.bytes < slot then .trapped (s'.fetchTrap a 0x03 (va64 pc))
      else
        let raw := slotWords l.bytes slot
        let w := rawWords raw
        let f : Fetch := { raw := raw, pc := pc, npc := nativeNext l.bytes pc, mark := runMark w.head,
                           adtan := false, sub := false, lastSub := false }
        let s' := (s'.keepLine a l).latch a f
        match patchFind s'.patch (isStrand a) w.head w.w1 with
        | some e => .instr (.patchSubstitute e) s'
        | none => .instr (instrOf raw (decode w)) s'

/-- The place of a thread's Adtan instruction among those that have been executed. -/
def State.adtanKey (s : State) (a : Agent) : Nat := (s.pack a.pr.1).ctx * 2 ^ 48 + (s.thread a).pc.toNat

/-- An Adtan instruction of a context is executed: the translator takes note of it, as it was first executed (R451, R453). -/
def State.noteAdtan (s : State) (a : Agent) (raw : BitVec 64) : State :=
  if (tget s.ranAdtan (s.adtanKey a)).isSome then s else { s with ranAdtan := tset s.ranAdtan (s.adtanKey a) raw }

/-- Four bytes of Adtan code as a thread fetches them: as they stand, or as it read them early (R449). -/
def State.fetchWord (s : State) (a : Agent) (va : BitVec 64) : Access (BitVec 32 × State) :=
  match s.fetchBytes a (s.userMode a) va 4 with
  | .error c => .error c
  | .ok (b, s) =>
    let mine := fun (e : Early) => decide (e.agent = a ∧ e.base = none ∧ e.va = lineAddr (va.setWidth 48))
    match s.early.find? mine with
    | some e =>
      if s.pick (9800 + agentSlot a) 2 = 0 then .ok (BitVec.ofNat 32 (leNat ((e.bytes.drop (va.toNat % 64)).take 4)), s)
      else .ok (BitVec.ofNat 32 (leNat b), s.forget mine)
    | none => .ok (BitVec.ofNat 32 (leNat b), s)

/-- An Adtan instruction that a program has changed since it was executed first: which of the two is executed is open (R453). -/
def State.oldOrNew (s : State) (a : Agent) (raw : BitVec 64) : BitVec 64 :=
  match tget s.ranAdtan (s.adtanKey a) with
  | some old => if old ≠ raw ∧ s.pick (9420 + agentSlot a) 2 = 0 then old else raw
  | none => raw

/-- The Adtan word of a thread with its extension, in the order of R68. -/
def State.fetchPair (s : State) (a : Agent) (va : BitVec 64) : Access (BitVec 64 × State) :=
  match s.fetchWord a va with
  | .error c => .error c
  | .ok (w, s) =>
    if w.getLsbD 2 then
      match s.fetchWord a (va + 4) with
      | .error c => .error c
      | .ok (x, s) => .ok (x ++ w, s)
    else .ok (w.setWidth 64, s)

/-- Fetch an Adtan word and its extension (R73–R75), the patch table applied to its native equivalent (R79). DESIGN CHOICE: a
word of a reserved major has no native equivalent and never matches; any other is matched by its fields (log 123). -/
noncomputable def State.fetchAdtan (s : State) (a : Agent) : Fetched :=
  let pc := (s.thread a).pc
  if pc.getLsbD 1 then .trapped (s.fetchTrap a 0x03 (va64 pc))
  else
    match s.fetchPair a (va64 pc - 1) with
    | .error (c, s1) => .trapped (s1.fetchTrap a c (va64 pc))
    | .ok (now, s1) =>
      let raw := s1.oldOrNew a now
      let w : BitVec 32 := raw.setWidth 32
      let ext : BitVec 32 := (raw >>> 32).setWidth 32
      let f : Fetch := { raw := raw, pc := pc, npc := pc + (if w.getLsbD 2 then 8 else 4), mark := false,
                         adtan := true, sub := false, lastSub := false }
      let s2 := ((s1.noteAdtan a raw).dropLine a).latch a f
      let native := match formatOf ((w >>> 25).setWidth 7) with
        | none => none
        | some fmt => (adtanFields fmt w ext).map fun e => wordsOf fmt false e
      let entry := match native with
        | none => none
        | some n => (patchFind s2.patch (isStrand a) n.head n.w1).map fun e => (e, n)
      match entry with
      | some (e, n) => .instr (.patchSubstitute e) { s2 with fetch := { f with raw := wordsRaw n } }
      | none => .instr (instrOf raw (decodeAdtan w ext)) s2

/-- The next substitute of a matched instruction (R79, R80). DESIGN CHOICE: TRAPVAL of trap 0x01 or 0x0B at a substitute is the
substitute's own words (log 124). -/
noncomputable def State.fetchSub (s : State) (a : Agent) (q : PatchRun) : Fetched :=
  let raw := patchSub s.patch q.entry q.next q.words
  let pc := (s.thread a).pc
  let f : Fetch := { raw := raw, pc := pc, npc := q.npc, mark := q.mark, adtan := pc.getLsbD 0, sub := true,
                     lastSub := decide (patchCount s.patch q.entry ≤ q.next + 1) }
  .instr (instrOf raw (decode (rawWords raw))) (s.latch a f)

/-- A stream moved to another address of the same place in its code. -/
def State.movePc (s : State) (a : Agent) (pc : BitVec 48) : State :=
  match a with
  | .control .. => s.modThread a fun t => { t with pc := pc, line := none }
  | .strand p r k =>
    (s.groupOf p r k).foldl (fun s j => s.modThread (.strand p r j) fun t => { t with pc := pc, line := none }) s

/-- Where a stream goes on in Adtan, if it has come in a native translation to an instruction left to Adtan (R452). -/
def State.exitAt (s : State) (a : Agent) : Option (BitVec 48) :=
  match s.adtanOf (s.pack a.pr.1).ctx (isStrand a) (s.thread a).pc with
  | some (pc, true) => some pc
  | _ => none

/-- What a thread executes on its turn: an instruction that waits with its vector-queue entry has been fetched (R170, R172, R174). -/
noncomputable def State.fetchFor (s : State) (a : Agent) : Fetched :=
  match (s.thread a).waiting with
  | some (.slot, f) => .instr (instrOf f.raw f.decoded) (s.latch a f)
  | _ =>
    match (s.thread a).patch with
    | some q => s.fetchSub a q
    | none =>
      match s.exitAt a with
      | some pc => (s.movePc a pc).fetchAdtan a
      | none => if (s.thread a).pc.getLsbD 0 then s.fetchAdtan a else s.fetchNative a

/-- Time passes and the next turn comes (the model's own schedule). -/
def State.advance (s : State) : State :=
  { s with
    turn := (match s.sched with
      | t :: _ => t
      | [] => .thread s.issuer),
    sched := s.sched.drop 1, nonce := s.nonce + 1, cycle := s.cycle + Config.cyclesTaken s.nonce }

/-- The latch for a thread named by a turn that cannot issue: its turn passes. -/
def State.passTurn (s : State) (a : Agent) : State := { s with issuer := a }

/-- A line that holds one instruction's words at slot 1 (R45, R46). -/
def lineOf (strand : Bool) (w : Words) : List (BitVec 8) :=
  let head : BitVec 16 := 0x0800 + (if strand then 0x0400 else 0)
  let t := w.head.toNat / 2 ^ 14
  let tail := ([w.w1, w.w2, w.w3].take t).flatMap fun x => leBytes 2 x.toNat
  leBytes 2 head.toNat ++ leBytes 2 w.head.toNat ++ List.replicate (60 - 2 * t) 0 ++ tail

end Sys2Proof.Machine
end

