-- ==== Sys2Proof/Machine/Dispatch.lean ====
section
/-! DEFINITION. One arm per instruction: each calls its meaning. -/
namespace Sys2Proof.Machine

def exec (i : Instr) (s : State) : Host.Outcome State Fault Refusal :=
  match i with
  | .nop => Sys2Proof.Machine.execNop s
  | .stop => Sys2Proof.Machine.execStop s
  | .halt => Sys2Proof.Machine.execHalt s
  | .heel => Sys2Proof.Machine.execHeel s
  | .rwait => Sys2Proof.Machine.execRwait s
  | .brk => Sys2Proof.Machine.execBrk s
  | .tret => Sys2Proof.Machine.execTret s
  | .vdrainLd => Sys2Proof.Machine.execVdrainLd s
  | .vdrainSt => Sys2Proof.Machine.execVdrainSt s
  | .vdrain => Sys2Proof.Machine.execVdrain s
  | .txabort => Sys2Proof.Machine.execTxabort s
  | .add d a b => Sys2Proof.Machine.execAdd d a b s
  | .sub d a b => Sys2Proof.Machine.execSub d a b s
  | .and d a b => Sys2Proof.Machine.execAnd d a b s
  | .or d a b => Sys2Proof.Machine.execOr d a b s
  | .xor d a b => Sys2Proof.Machine.execXor d a b s
  | .andn d a b => Sys2Proof.Machine.execAndn d a b s
  | .sll d a b => Sys2Proof.Machine.execSll d a b s
  | .srl d a b => Sys2Proof.Machine.execSrl d a b s
  | .sra d a b => Sys2Proof.Machine.execSra d a b s
  | .rol d a b => Sys2Proof.Machine.execRol d a b s
  | .min d a b => Sys2Proof.Machine.execMin d a b s
  | .max d a b => Sys2Proof.Machine.execMax d a b s
  | .minu d a b => Sys2Proof.Machine.execMinu d a b s
  | .maxu d a b => Sys2Proof.Machine.execMaxu d a b s
  | .addw d a b => Sys2Proof.Machine.execAddw d a b s
  | .subw d a b => Sys2Proof.Machine.execSubw d a b s
  | .mul d a b => Sys2Proof.Machine.execMul d a b s
  | .mulh d a b => Sys2Proof.Machine.execMulh d a b s
  | .mulhu d a b => Sys2Proof.Machine.execMulhu d a b s
  | .div d a b => Sys2Proof.Machine.execDiv d a b s
  | .divu d a b => Sys2Proof.Machine.execDivu d a b s
  | .rem d a b => Sys2Proof.Machine.execRem d a b s
  | .remu d a b => Sys2Proof.Machine.execRemu d a b s
  | .mulw d a b => Sys2Proof.Machine.execMulw d a b s
  | .clz d a => Sys2Proof.Machine.execClz d a s
  | .ctz d a => Sys2Proof.Machine.execCtz d a s
  | .popc d a => Sys2Proof.Machine.execPopc d a s
  | .bswap d a => Sys2Proof.Machine.execBswap d a s
  | .brev d a => Sys2Proof.Machine.execBrev d a s
  | .sxb d a => Sys2Proof.Machine.execSxb d a s
  | .sxh d a => Sys2Proof.Machine.execSxh d a s
  | .sxw d a => Sys2Proof.Machine.execSxw d a s
  | .zxw d a => Sys2Proof.Machine.execZxw d a s
  | .addi d a imm => Sys2Proof.Machine.execAddi d a imm s
  | .andi d a imm => Sys2Proof.Machine.execAndi d a imm s
  | .ori d a imm => Sys2Proof.Machine.execOri d a imm s
  | .xori d a imm => Sys2Proof.Machine.execXori d a imm s
  | .slli d a sh => Sys2Proof.Machine.execSlli d a sh s
  | .srli d a sh => Sys2Proof.Machine.execSrli d a sh s
  | .srai d a sh => Sys2Proof.Machine.execSrai d a sh s
  | .roli d a sh => Sys2Proof.Machine.execRoli d a sh s
  | .li d imm => Sys2Proof.Machine.execLi d imm s
  | .lhi d imm => Sys2Proof.Machine.execLhi d imm s
  | .sel gd d a b => Sys2Proof.Machine.execSel gd d a b s
  | .adda gd d a b sh => Sys2Proof.Machine.execAdda gd d a b sh s
  | .ceq pd a b => Sys2Proof.Machine.execCeq pd a b s
  | .cne pd a b => Sys2Proof.Machine.execCne pd a b s
  | .clt pd a b => Sys2Proof.Machine.execClt pd a b s
  | .cge pd a b => Sys2Proof.Machine.execCge pd a b s
  | .cltu pd a b => Sys2Proof.Machine.execCltu pd a b s
  | .cgeu pd a b => Sys2Proof.Machine.execCgeu pd a b s
  | .ceqi pd a imm => Sys2Proof.Machine.execCeqi pd a imm s
  | .cnei pd a imm => Sys2Proof.Machine.execCnei pd a imm s
  | .clti pd a imm => Sys2Proof.Machine.execClti pd a imm s
  | .cgei pd a imm => Sys2Proof.Machine.execCgei pd a imm s
  | .cltui pd a imm => Sys2Proof.Machine.execCltui pd a imm s
  | .cgeui pd a imm => Sys2Proof.Machine.execCgeui pd a imm s
  | .pand pd pa pb => Sys2Proof.Machine.execPand pd pa pb s
  | .por pd pa pb => Sys2Proof.Machine.execPor pd pa pb s
  | .pxor pd pa pb => Sys2Proof.Machine.execPxor pd pa pb s
  | .pandn pd pa pb => Sys2Proof.Machine.execPandn pd pa pb s
  | .pnot pd pa => Sys2Proof.Machine.execPnot pd pa s
  | .pmov pd pa => Sys2Proof.Machine.execPmov pd pa s
  | .ld8 d a imm => Sys2Proof.Machine.execLd8 d a imm s
  | .ld16 d a imm => Sys2Proof.Machine.execLd16 d a imm s
  | .ld32 d a imm => Sys2Proof.Machine.execLd32 d a imm s
  | .ld64 d a imm => Sys2Proof.Machine.execLd64 d a imm s
  | .ld8s d a imm => Sys2Proof.Machine.execLd8s d a imm s
  | .ld16s d a imm => Sys2Proof.Machine.execLd16s d a imm s
  | .ld32s d a imm => Sys2Proof.Machine.execLd32s d a imm s
  | .st8 d a imm => Sys2Proof.Machine.execSt8 d a imm s
  | .st16 d a imm => Sys2Proof.Machine.execSt16 d a imm s
  | .st32 d a imm => Sys2Proof.Machine.execSt32 d a imm s
  | .st64 d a imm => Sys2Proof.Machine.execSt64 d a imm s
  | .ldl8 d a imm => Sys2Proof.Machine.execLdl8 d a imm s
  | .ldl16 d a imm => Sys2Proof.Machine.execLdl16 d a imm s
  | .ldl32 d a imm => Sys2Proof.Machine.execLdl32 d a imm s
  | .ldl64 d a imm => Sys2Proof.Machine.execLdl64 d a imm s
  | .stl8 d a imm => Sys2Proof.Machine.execStl8 d a imm s
  | .stl16 d a imm => Sys2Proof.Machine.execStl16 d a imm s
  | .stl32 d a imm => Sys2Proof.Machine.execStl32 d a imm s
  | .stl64 d a imm => Sys2Proof.Machine.execStl64 d a imm s
  | .ldv8 d a imm => Sys2Proof.Machine.execLdv8 d a imm s
  | .ldv16 d a imm => Sys2Proof.Machine.execLdv16 d a imm s
  | .ldv32 d a imm => Sys2Proof.Machine.execLdv32 d a imm s
  | .ldv64 d a imm => Sys2Proof.Machine.execLdv64 d a imm s
  | .br neg pa imm => Sys2Proof.Machine.execBr neg pa imm s
  | .jmp imm => Sys2Proof.Machine.execJmp imm s
  | .call d imm => Sys2Proof.Machine.execCall d imm s
  | .jmpr a => Sys2Proof.Machine.execJmpr a s
  | .callr d a => Sys2Proof.Machine.execCallr d a s
  | .ret a => Sys2Proof.Machine.execRet a s
  | .fetch imm => Sys2Proof.Machine.execFetch imm s
  | .fetchr a => Sys2Proof.Machine.execFetchr a s
  | .leash imm => Sys2Proof.Machine.execLeash imm s
  | .leashr a => Sys2Proof.Machine.execLeashr a s
  | .qsendQ0 d => Sys2Proof.Machine.execQsendQ0 d s
  | .qsendQ1 d => Sys2Proof.Machine.execQsendQ1 d s
  | .qrecvQ0 d => Sys2Proof.Machine.execQrecvQ0 d s
  | .qrecvQ1 d => Sys2Proof.Machine.execQrecvQ1 d s
  | .xqpushQ0 xd => Sys2Proof.Machine.execXqpushQ0 xd s
  | .xqpushQ1 xd => Sys2Proof.Machine.execXqpushQ1 xd s
  | .xqpopQ0 xd => Sys2Proof.Machine.execXqpopQ0 xd s
  | .xqpopQ1 xd => Sys2Proof.Machine.execXqpopQ1 xd s
  | .queueWaitComplete t => Sys2Proof.Machine.execQueueWaitComplete t s
  | .faddS gd ex rm d a b => Sys2Proof.Machine.execFaddS gd ex rm d a b s
  | .fsubS gd ex rm d a b => Sys2Proof.Machine.execFsubS gd ex rm d a b s
  | .fmulS gd ex rm d a b => Sys2Proof.Machine.execFmulS gd ex rm d a b s
  | .fdivS gd ex rm d a b => Sys2Proof.Machine.execFdivS gd ex rm d a b s
  | .fminS gd ex d a b => Sys2Proof.Machine.execFminS gd ex d a b s
  | .fmaxS gd ex d a b => Sys2Proof.Machine.execFmaxS gd ex d a b s
  | .fsqrtS gd ex rm d a => Sys2Proof.Machine.execFsqrtS gd ex rm d a s
  | .fabsS gd ex d a => Sys2Proof.Machine.execFabsS gd ex d a s
  | .fnegS gd ex d a => Sys2Proof.Machine.execFnegS gd ex d a s
  | .faddD gd ex rm d a b => Sys2Proof.Machine.execFaddD gd ex rm d a b s
  | .fsubD gd ex rm d a b => Sys2Proof.Machine.execFsubD gd ex rm d a b s
  | .fmulD gd ex rm d a b => Sys2Proof.Machine.execFmulD gd ex rm d a b s
  | .fdivD gd ex rm d a b => Sys2Proof.Machine.execFdivD gd ex rm d a b s
  | .fminD gd ex d a b => Sys2Proof.Machine.execFminD gd ex d a b s
  | .fmaxD gd ex d a b => Sys2Proof.Machine.execFmaxD gd ex d a b s
  | .fsqrtD gd ex rm d a => Sys2Proof.Machine.execFsqrtD gd ex rm d a s
  | .fabsD gd ex d a => Sys2Proof.Machine.execFabsD gd ex d a s
  | .fnegD gd ex d a => Sys2Proof.Machine.execFnegD gd ex d a s
  | .ffmaS gd ex rm d a b c => Sys2Proof.Machine.execFfmaS gd ex rm d a b c s
  | .ffmsS gd ex rm d a b c => Sys2Proof.Machine.execFfmsS gd ex rm d a b c s
  | .ffnmaS gd ex rm d a b c => Sys2Proof.Machine.execFfnmaS gd ex rm d a b c s
  | .ffmaD gd ex rm d a b c => Sys2Proof.Machine.execFfmaD gd ex rm d a b c s
  | .ffmsD gd ex rm d a b c => Sys2Proof.Machine.execFfmsD gd ex rm d a b c s
  | .ffnmaD gd ex rm d a b c => Sys2Proof.Machine.execFfnmaD gd ex rm d a b c s
  | .feqS pd a b => Sys2Proof.Machine.execFeqS pd a b s
  | .fltS pd a b => Sys2Proof.Machine.execFltS pd a b s
  | .fleS pd a b => Sys2Proof.Machine.execFleS pd a b s
  | .funordS pd a b => Sys2Proof.Machine.execFunordS pd a b s
  | .feqD pd a b => Sys2Proof.Machine.execFeqD pd a b s
  | .fltD pd a b => Sys2Proof.Machine.execFltD pd a b s
  | .fleD pd a b => Sys2Proof.Machine.execFleD pd a b s
  | .funordD pd a b => Sys2Proof.Machine.execFunordD pd a b s
  | .cvtF64F32 gd ex rm d a => Sys2Proof.Machine.execCvtF64F32 gd ex rm d a s
  | .cvtF32F64 gd ex rm d a => Sys2Proof.Machine.execCvtF32F64 gd ex rm d a s
  | .cvtF32I64 gd ex rm d a => Sys2Proof.Machine.execCvtF32I64 gd ex rm d a s
  | .cvtI64F32 gd ex rm d a => Sys2Proof.Machine.execCvtI64F32 gd ex rm d a s
  | .cvtF64I64 gd ex rm d a => Sys2Proof.Machine.execCvtF64I64 gd ex rm d a s
  | .cvtI64F64 gd ex rm d a => Sys2Proof.Machine.execCvtI64F64 gd ex rm d a s
  | .cvtBf16F32 gd ex rm d a => Sys2Proof.Machine.execCvtBf16F32 gd ex rm d a s
  | .cvtF32Bf16 gd ex rm d a => Sys2Proof.Machine.execCvtF32Bf16 gd ex rm d a s
  | .cvtFp16F32 gd ex rm d a => Sys2Proof.Machine.execCvtFp16F32 gd ex rm d a s
  | .cvtF32Fp16 gd ex rm d a => Sys2Proof.Machine.execCvtF32Fp16 gd ex rm d a s
  | .cvtE4m3F32 gd ex rm d a => Sys2Proof.Machine.execCvtE4m3F32 gd ex rm d a s
  | .cvtF32E4m3 gd ex rm d a => Sys2Proof.Machine.execCvtF32E4m3 gd ex rm d a s
  | .cvtE5m2F32 gd ex rm d a => Sys2Proof.Machine.execCvtE5m2F32 gd ex rm d a s
  | .cvtF32E5m2 gd ex rm d a => Sys2Proof.Machine.execCvtF32E5m2 gd ex rm d a s
  | .cvtLgF32 gd ex rm d a => Sys2Proof.Machine.execCvtLgF32 gd ex rm d a s
  | .cvtF32Lg gd ex rm d a => Sys2Proof.Machine.execCvtF32Lg gd ex rm d a s
  | .getsr d a b => Sys2Proof.Machine.execGetsr d a b s
  | .setsr d a b => Sys2Proof.Machine.execSetsr d a b s
  | .cpgo d => Sys2Proof.Machine.execCpgo d s
  | .trap a b => Sys2Proof.Machine.execTrap a b s
  | .rdcyc d => Sys2Proof.Machine.execRdcyc d s
  | .rfetch imm => Sys2Proof.Machine.execRfetch imm s
  | .rfetchIdem imm => Sys2Proof.Machine.execRfetchIdem imm s
  | .rfetchr xa => Sys2Proof.Machine.execRfetchr xa s
  | .rfetchrIdem xa => Sys2Proof.Machine.execRfetchrIdem xa s
  | .setvl xd xa vt => Sys2Proof.Machine.execSetvl xd xa vt s
  | .launch xd xa => Sys2Proof.Machine.execLaunch xd xa s
  | .vadd gd vd va vb => Sys2Proof.Machine.execVadd gd vd va vb s
  | .vsub gd vd va vb => Sys2Proof.Machine.execVsub gd vd va vb s
  | .vmul gd vd va vb => Sys2Proof.Machine.execVmul gd vd va vb s
  | .vmulh gd vd va vb => Sys2Proof.Machine.execVmulh gd vd va vb s
  | .vand gd vd va vb => Sys2Proof.Machine.execVand gd vd va vb s
  | .vor gd vd va vb => Sys2Proof.Machine.execVor gd vd va vb s
  | .vxor gd vd va vb => Sys2Proof.Machine.execVxor gd vd va vb s
  | .vsll gd vd va vb => Sys2Proof.Machine.execVsll gd vd va vb s
  | .vsrl gd vd va vb => Sys2Proof.Machine.execVsrl gd vd va vb s
  | .vsra gd vd va vb => Sys2Proof.Machine.execVsra gd vd va vb s
  | .vmin gd vd va vb => Sys2Proof.Machine.execVmin gd vd va vb s
  | .vmax gd vd va vb => Sys2Proof.Machine.execVmax gd vd va vb s
  | .vminu gd vd va vb => Sys2Proof.Machine.execVminu gd vd va vb s
  | .vmaxu gd vd va vb => Sys2Proof.Machine.execVmaxu gd vd va vb s
  | .vadc gd vd va vb mc mm => Sys2Proof.Machine.execVadc gd vd va vb mc mm s
  | .vsbc gd vd va vb mc mm => Sys2Proof.Machine.execVsbc gd vd va vb mc mm s
  | .vaddVx gd vd va xb => Sys2Proof.Machine.execVaddVx gd vd va xb s
  | .vsubVx gd vd va xb => Sys2Proof.Machine.execVsubVx gd vd va xb s
  | .vmulVx gd vd va xb => Sys2Proof.Machine.execVmulVx gd vd va xb s
  | .vmulhVx gd vd va xb => Sys2Proof.Machine.execVmulhVx gd vd va xb s
  | .vandVx gd vd va xb => Sys2Proof.Machine.execVandVx gd vd va xb s
  | .vorVx gd vd va xb => Sys2Proof.Machine.execVorVx gd vd va xb s
  | .vxorVx gd vd va xb => Sys2Proof.Machine.execVxorVx gd vd va xb s
  | .vsllVx gd vd va xb => Sys2Proof.Machine.execVsllVx gd vd va xb s
  | .vsrlVx gd vd va xb => Sys2Proof.Machine.execVsrlVx gd vd va xb s
  | .vsraVx gd vd va xb => Sys2Proof.Machine.execVsraVx gd vd va xb s
  | .vminVx gd vd va xb => Sys2Proof.Machine.execVminVx gd vd va xb s
  | .vmaxVx gd vd va xb => Sys2Proof.Machine.execVmaxVx gd vd va xb s
  | .vminuVx gd vd va xb => Sys2Proof.Machine.execVminuVx gd vd va xb s
  | .vmaxuVx gd vd va xb => Sys2Proof.Machine.execVmaxuVx gd vd va xb s
  | .vadcVx gd vd va xb mc mm => Sys2Proof.Machine.execVadcVx gd vd va xb mc mm s
  | .vsbcVx gd vd va xb mc mm => Sys2Proof.Machine.execVsbcVx gd vd va xb mc mm s
  | .vfadd gd ex rm fp16 vd va vb => Sys2Proof.Machine.execVfadd gd ex rm fp16 vd va vb s
  | .vfsub gd ex rm fp16 vd va vb => Sys2Proof.Machine.execVfsub gd ex rm fp16 vd va vb s
  | .vfmul gd ex rm fp16 vd va vb => Sys2Proof.Machine.execVfmul gd ex rm fp16 vd va vb s
  | .vfdiv gd ex rm fp16 vd va vb => Sys2Proof.Machine.execVfdiv gd ex rm fp16 vd va vb s
  | .vfmin gd ex fp16 vd va vb => Sys2Proof.Machine.execVfmin gd ex fp16 vd va vb s
  | .vfmax gd ex fp16 vd va vb => Sys2Proof.Machine.execVfmax gd ex fp16 vd va vb s
  | .vfsqrt gd ex rm fp16 vd va => Sys2Proof.Machine.execVfsqrt gd ex rm fp16 vd va s
  | .vfma gd ex rm fp16 vd va vb vc => Sys2Proof.Machine.execVfma gd ex rm fp16 vd va vb vc s
  | .vfms gd ex rm fp16 vd va vb vc => Sys2Proof.Machine.execVfms gd ex rm fp16 vd va vb vc s
  | .vfnma gd ex rm fp16 vd va vb vc => Sys2Proof.Machine.execVfnma gd ex rm fp16 vd va vb vc s
  | .vfabs gd ex fp16 vd va => Sys2Proof.Machine.execVfabs gd ex fp16 vd va s
  | .vfneg gd ex fp16 vd va => Sys2Proof.Machine.execVfneg gd ex fp16 vd va s
  | .vceq gd xb md va b => Sys2Proof.Machine.execVceq gd xb md va b s
  | .vcne gd xb md va b => Sys2Proof.Machine.execVcne gd xb md va b s
  | .vclt gd xb md va b => Sys2Proof.Machine.execVclt gd xb md va b s
  | .vcge gd xb md va b => Sys2Proof.Machine.execVcge gd xb md va b s
  | .vcltu gd xb md va b => Sys2Proof.Machine.execVcltu gd xb md va b s
  | .vcgeu gd xb md va b => Sys2Proof.Machine.execVcgeu gd xb md va b s
  | .vfeq gd ex xb md va b => Sys2Proof.Machine.execVfeq gd ex xb md va b s
  | .vflt gd ex xb md va b => Sys2Proof.Machine.execVflt gd ex xb md va b s
  | .vfle gd ex xb md va b => Sys2Proof.Machine.execVfle gd ex xb md va b s
  | .vfunord gd ex xb md va b => Sys2Proof.Machine.execVfunord gd ex xb md va b s
  | .mand gd md ma mb => Sys2Proof.Machine.execMand gd md ma mb s
  | .mor gd md ma mb => Sys2Proof.Machine.execMor gd md ma mb s
  | .mxor gd md ma mb => Sys2Proof.Machine.execMxor gd md ma mb s
  | .mandn gd md ma mb => Sys2Proof.Machine.execMandn gd md ma mb s
  | .mnot gd md ma => Sys2Proof.Machine.execMnot gd md ma s
  | .mmov gd md ma => Sys2Proof.Machine.execMmov gd md ma s
  | .mshl gd md ma => Sys2Proof.Machine.execMshl gd md ma s
  | .mshr gd md ma => Sys2Proof.Machine.execMshr gd md ma s
  | .mset gd md => Sys2Proof.Machine.execMset gd md s
  | .mclr gd md => Sys2Proof.Machine.execMclr gd md s
  | .mrdd gd md => Sys2Proof.Machine.execMrdd gd md s
  | .mwrd gd ma => Sys2Proof.Machine.execMwrd gd ma s
  | .mpop xd ma => Sys2Proof.Machine.execMpop xd ma s
  | .mffs xd ma => Sys2Proof.Machine.execMffs xd ma s
  | .mfls xd ma => Sys2Proof.Machine.execMfls xd ma s
  | .vslideup gd vd va xb => Sys2Proof.Machine.execVslideup gd vd va xb s
  | .vslidedn gd vd va xb => Sys2Proof.Machine.execVslidedn gd vd va xb s
  | .vperm gd vd va vb => Sys2Proof.Machine.execVperm gd vd va vb s
  | .vbcast gd vd xa => Sys2Proof.Machine.execVbcast gd vd xa s
  | .vcompress vd va mb => Sys2Proof.Machine.execVcompress vd va mb s
  | .vexpand vd va mb => Sys2Proof.Machine.execVexpand vd va mb s
  | .vext xd va xb => Sys2Proof.Machine.execVext xd va xb s
  | .vins vd xa xb => Sys2Proof.Machine.execVins vd xa xb s
  | .vredoFadd gd fp16 xd va xb => Sys2Proof.Machine.execVredoFadd gd fp16 xd va xb s
  | .vredtFadd gd fp16 xd va xb => Sys2Proof.Machine.execVredtFadd gd fp16 xd va xb s
  | .vredFmax gd fp16 xd va xb => Sys2Proof.Machine.execVredFmax gd fp16 xd va xb s
  | .vredFmin gd fp16 xd va xb => Sys2Proof.Machine.execVredFmin gd fp16 xd va xb s
  | .vredAdd gd xd va xb => Sys2Proof.Machine.execVredAdd gd xd va xb s
  | .vredAnd gd xd va xb => Sys2Proof.Machine.execVredAnd gd xd va xb s
  | .vredOr gd xd va xb => Sys2Proof.Machine.execVredOr gd xd va xb s
  | .vredXor gd xd va xb => Sys2Proof.Machine.execVredXor gd xd va xb s
  | .vredMax gd xd va xb => Sys2Proof.Machine.execVredMax gd xd va xb s
  | .vredMin gd xd va xb => Sys2Proof.Machine.execVredMin gd xd va xb s
  | .vredMaxu gd xd va xb => Sys2Proof.Machine.execVredMaxu gd xd va xb s
  | .vredMinu gd xd va xb => Sys2Proof.Machine.execVredMinu gd xd va xb s
  | .vcvtF64F32 gd ex rm vd va => Sys2Proof.Machine.execVcvtF64F32 gd ex rm vd va s
  | .vcvtF32F64 gd ex rm vd va => Sys2Proof.Machine.execVcvtF32F64 gd ex rm vd va s
  | .vcvtF32I64 gd ex rm vd va => Sys2Proof.Machine.execVcvtF32I64 gd ex rm vd va s
  | .vcvtI64F32 gd ex rm vd va => Sys2Proof.Machine.execVcvtI64F32 gd ex rm vd va s
  | .vcvtF64I64 gd ex rm vd va => Sys2Proof.Machine.execVcvtF64I64 gd ex rm vd va s
  | .vcvtI64F64 gd ex rm vd va => Sys2Proof.Machine.execVcvtI64F64 gd ex rm vd va s
  | .vcvtBf16F32 gd ex rm vd va => Sys2Proof.Machine.execVcvtBf16F32 gd ex rm vd va s
  | .vcvtF32Bf16 gd ex rm vd va => Sys2Proof.Machine.execVcvtF32Bf16 gd ex rm vd va s
  | .vcvtFp16F32 gd ex rm vd va => Sys2Proof.Machine.execVcvtFp16F32 gd ex rm vd va s
  | .vcvtF32Fp16 gd ex rm vd va => Sys2Proof.Machine.execVcvtF32Fp16 gd ex rm vd va s
  | .vcvtE4m3F32 gd ex rm vd va => Sys2Proof.Machine.execVcvtE4m3F32 gd ex rm vd va s
  | .vcvtF32E4m3 gd ex rm vd va => Sys2Proof.Machine.execVcvtF32E4m3 gd ex rm vd va s
  | .vcvtE5m2F32 gd ex rm vd va => Sys2Proof.Machine.execVcvtE5m2F32 gd ex rm vd va s
  | .vcvtF32E5m2 gd ex rm vd va => Sys2Proof.Machine.execVcvtF32E5m2 gd ex rm vd va s
  | .vcvtLgF32 gd ex rm vd va => Sys2Proof.Machine.execVcvtLgF32 gd ex rm vd va s
  | .vcvtF32Lg gd ex rm vd va => Sys2Proof.Machine.execVcvtF32Lg gd ex rm vd va s
  | .vld vd xa imm => Sys2Proof.Machine.execVld vd xa imm s
  | .vldff vd xa imm => Sys2Proof.Machine.execVldff vd xa imm s
  | .vldv vd xa imm => Sys2Proof.Machine.execVldv vd xa imm s
  | .vldsp vd xa imm => Sys2Proof.Machine.execVldsp vd xa imm s
  | .vlds gd vd xa xb => Sys2Proof.Machine.execVlds gd vd xa xb s
  | .vldx gd vd xa vb => Sys2Proof.Machine.execVldx gd vd xa vb s
  | .vldl gd vd xa vb => Sys2Proof.Machine.execVldl gd vd xa vb s
  | .vldxv gd vd xa vb => Sys2Proof.Machine.execVldxv gd vd xa vb s
  | .vst gd vd xa => Sys2Proof.Machine.execVst gd vd xa s
  | .vsts gd vd xa xb => Sys2Proof.Machine.execVsts gd vd xa xb s
  | .vstx gd vd xa vb => Sys2Proof.Machine.execVstx gd vd xa vb s
  | .vstl gd vd xa vb => Sys2Proof.Machine.execVstl gd vd xa vb s
  | .vstmc gd vd xa => Sys2Proof.Machine.execVstmc gd vd xa s
  | .vstrc gd vd xa xb => Sys2Proof.Machine.execVstrc gd vd xa xb s
  | .vstsp gd vd xa => Sys2Proof.Machine.execVstsp gd vd xa s
  | .vamoAdd gd old vd xa vb vc => Sys2Proof.Machine.execVamoAdd gd old vd xa vb vc s
  | .vamoAnd gd old vd xa vb vc => Sys2Proof.Machine.execVamoAnd gd old vd xa vb vc s
  | .vamoOr gd old vd xa vb vc => Sys2Proof.Machine.execVamoOr gd old vd xa vb vc s
  | .vamoXor gd old vd xa vb vc => Sys2Proof.Machine.execVamoXor gd old vd xa vb vc s
  | .vamoMax gd old vd xa vb vc => Sys2Proof.Machine.execVamoMax gd old vd xa vb vc s
  | .vamoMin gd old vd xa vb vc => Sys2Proof.Machine.execVamoMin gd old vd xa vb vc s
  | .vamoSwap gd old vd xa vb vc => Sys2Proof.Machine.execVamoSwap gd old vd xa vb vc s
  | .vamoFadd gd old vd xa vb vc => Sys2Proof.Machine.execVamoFadd gd old vd xa vb vc s
  | .mma zd va xb ta tb keep brace clear => Sys2Proof.Machine.execMma zd va xb ta tb keep brace clear s
  | .mmaff zd va xb xc ta tb keep clear => Sys2Proof.Machine.execMmaff zd va xb xc ta tb keep clear s
  | .zclr zd => Sys2Proof.Machine.execZclr zd s
  | .zld zd xa => Sys2Proof.Machine.execZld zd xa s
  | .zst zd xa => Sys2Proof.Machine.execZst zd xa s
  | .zrd vd za q => Sys2Proof.Machine.execZrd vd za q s
  | .zwr zd va q => Sys2Proof.Machine.execZwr zd va q s
  | .zcvt zd xa src tgt => Sys2Proof.Machine.execZcvt zd xa src tgt s
  | .tlwait gd xa xb sc => Sys2Proof.Machine.execTlwait gd xa xb sc s
  | .tlwaitReturn p r => Sys2Proof.Machine.execTlwaitReturn p r s
  | .tlpost gd xa xb sc => Sys2Proof.Machine.execTlpost gd xa xb sc s
  | .tlpostApply p r => Sys2Proof.Machine.execTlpostApply p r s
  | .ringdef n xa xb xc stages => Sys2Proof.Machine.execRingdef n xa xb xc stages s
  | .ringarr n => Sys2Proof.Machine.execRingarr n s
  | .ringgen xd n => Sys2Proof.Machine.execRinggen xd n s
  | .ringfree n => Sys2Proof.Machine.execRingfree n s
  | .ringArrivalCount p r => Sys2Proof.Machine.execRingArrivalCount p r s
  | .ringStallEnd p r => Sys2Proof.Machine.execRingStallEnd p r s
  | .amoAdd gd xd xa xb ord sc w32 => Sys2Proof.Machine.execAmoAdd gd xd xa xb ord sc w32 s
  | .amoAnd gd xd xa xb ord sc w32 => Sys2Proof.Machine.execAmoAnd gd xd xa xb ord sc w32 s
  | .amoOr gd xd xa xb ord sc w32 => Sys2Proof.Machine.execAmoOr gd xd xa xb ord sc w32 s
  | .amoXor gd xd xa xb ord sc w32 => Sys2Proof.Machine.execAmoXor gd xd xa xb ord sc w32 s
  | .amoMax gd xd xa xb ord sc w32 => Sys2Proof.Machine.execAmoMax gd xd xa xb ord sc w32 s
  | .amoMin gd xd xa xb ord sc w32 => Sys2Proof.Machine.execAmoMin gd xd xa xb ord sc w32 s
  | .amoMaxu gd xd xa xb ord sc w32 => Sys2Proof.Machine.execAmoMaxu gd xd xa xb ord sc w32 s
  | .amoMinu gd xd xa xb ord sc w32 => Sys2Proof.Machine.execAmoMinu gd xd xa xb ord sc w32 s
  | .amoSwap gd xd xa xb ord sc w32 => Sys2Proof.Machine.execAmoSwap gd xd xa xb ord sc w32 s
  | .amoCas gd xd xa xb xc ord sc w32 => Sys2Proof.Machine.execAmoCas gd xd xa xb xc ord sc w32 s
  | .amoFadd gd xd xa xb ord sc w32 => Sys2Proof.Machine.execAmoFadd gd xd xa xb ord sc w32 s
  | .lda gd xd xa sc => Sys2Proof.Machine.execLda gd xd xa sc s
  | .lda32 gd xd xa sc => Sys2Proof.Machine.execLda32 gd xd xa sc s
  | .strl gd xd xa sc => Sys2Proof.Machine.execStrl gd xd xa sc s
  | .strl32 gd xd xa sc => Sys2Proof.Machine.execStrl32 gd xd xa sc s
  | .fence sc => Sys2Proof.Machine.execFence sc s
  | .fenceAcq sc => Sys2Proof.Machine.execFenceAcq sc s
  | .fenceRel sc => Sys2Proof.Machine.execFenceRel sc s
  | .barArrive n => Sys2Proof.Machine.execBarArrive n s
  | .barWait n => Sys2Proof.Machine.execBarWait n s
  | .barSync n => Sys2Proof.Machine.execBarSync n s
  | .barArrivalCount p r => Sys2Proof.Machine.execBarArrivalCount p r s
  | .barWaitReturn p r => Sys2Proof.Machine.execBarWaitReturn p r s
  | .txbegin xd => Sys2Proof.Machine.execTxbegin xd s
  | .txcommit xd => Sys2Proof.Machine.execTxcommit xd s
  | .snopen xd => Sys2Proof.Machine.execSnopen xd s
  | .snclose xd xa => Sys2Proof.Machine.execSnclose xd xa s
  | .snset xa => Sys2Proof.Machine.execSnset xa s
  | .xdred gd vd xa op => Sys2Proof.Machine.execXdred gd vd xa op s
  | .xdredComplete p r peers => Sys2Proof.Machine.execXdredComplete p r peers s
  | .xdredTimeout p r => Sys2Proof.Machine.execXdredTimeout p r s
  | .runLimit t => Sys2Proof.Machine.execRunLimit t s
  | .release p r leash => Sys2Proof.Machine.execRelease p r leash s
  | .strandFaultTrap p r => Sys2Proof.Machine.execStrandFaultTrap p r s
  | .machineCheck p r => Sys2Proof.Machine.execMachineCheck p r s
  | .vqueueExecute p r => Sys2Proof.Machine.execVqueueExecute p r s
  | .rfetchTakeEffect p r => Sys2Proof.Machine.execRfetchTakeEffect p r s
  | .rwaitComplete p r => Sys2Proof.Machine.execRwaitComplete p r s
  | .copyStart j => Sys2Proof.Machine.execCopyStart j s
  | .copyComplete j => Sys2Proof.Machine.execCopyComplete j s
  | .preemptWithdraw p => Sys2Proof.Machine.execPreemptWithdraw p s
  | .setvlSave p => Sys2Proof.Machine.execSetvlSave p s
  | .forcedSave p discard => Sys2Proof.Machine.execForcedSave p discard s
  | .packResume => Sys2Proof.Machine.execPackResume s
  | .coreQuiesce core => Sys2Proof.Machine.execCoreQuiesce core s
  | .secdedError core err => Sys2Proof.Machine.execSecdedError core err s
  | .laneGroupGate core grp => Sys2Proof.Machine.execLaneGroupGate core grp s
  | .laneGroupWake core grp => Sys2Proof.Machine.execLaneGroupWake core grp s
  | .stripAheadHint p r => Sys2Proof.Machine.execStripAheadHint p r s
  | .l2Error cluster bank way kind line => Sys2Proof.Machine.execL2Error cluster bank way kind line s
  | .benesParityError core again => Sys2Proof.Machine.execBenesParityError core again s
  | .pageWalk core ctx va kind user => Sys2Proof.Machine.execPageWalk core ctx va kind user s
  | .tlbParityError cluster idx => Sys2Proof.Machine.execTlbParityError cluster idx s
  | .hbmError line kind => Sys2Proof.Machine.execHbmError line kind s
  | .channelFail stack chan => Sys2Proof.Machine.execChannelFail stack chan s
  | .slotTableEdit die edit => Sys2Proof.Machine.execSlotTableEdit die edit s
  | .routerParityError die router port slot => Sys2Proof.Machine.execRouterParityError die router port slot s
  | .launchRecordTake ctx q => Sys2Proof.Machine.execLaunchRecordTake ctx q s
  | .launchSelect => Sys2Proof.Machine.execLaunchSelect s
  | .packPlace => Sys2Proof.Machine.execPackPlace s
  | .swapExpiry die => Sys2Proof.Machine.execSwapExpiry die s
  | .launchComplete l => Sys2Proof.Machine.execLaunchComplete l s
  | .crumbReclaim line => Sys2Proof.Machine.execCrumbReclaim line s
  | .ospecCommit p => Sys2Proof.Machine.execOspecCommit p s
  | .adtanTranslate ctx tr => Sys2Proof.Machine.execAdtanTranslate ctx tr s
  | .sampleRecord core entries => Sys2Proof.Machine.execSampleRecord core entries s
  | .traceSummary p r => Sys2Proof.Machine.execTraceSummary p r s
  | .doorbell part off value => Sys2Proof.Machine.execDoorbell part off value s
  | .hostMemAccess stream pa acc => Sys2Proof.Machine.execHostMemAccess stream pa acc s
  | .partCreate cmd slotShare snapShare ownerKey mailbox => Sys2Proof.Machine.execPartCreate cmd slotShare snapShare ownerKey mailbox s
  | .partDestroy cmd => Sys2Proof.Machine.execPartDestroy cmd s
  | .granuleAssign cmd base count => Sys2Proof.Machine.execGranuleAssign cmd base count s
  | .granuleRemove cmd base count => Sys2Proof.Machine.execGranuleRemove cmd base count s
  | .execLoad cmd image signedBy => Sys2Proof.Machine.execExecLoad cmd image signedBy s
  | .ctxCreate cmd block => Sys2Proof.Machine.execCtxCreate cmd block s
  | .ctxDestroy cmd ctx => Sys2Proof.Machine.execCtxDestroy cmd ctx s
  | .debugGrant cmd ctx => Sys2Proof.Machine.execDebugGrant cmd ctx s
  | .debugRevoke cmd ctx => Sys2Proof.Machine.execDebugRevoke cmd ctx s
  | .debugSetComparator cmd ctx core idx cmp => Sys2Proof.Machine.execDebugSetComparator cmd ctx core idx cmp s
  | .debugHalt cmd p r => Sys2Proof.Machine.execDebugHalt cmd p r s
  | .debugRelease cmd p r => Sys2Proof.Machine.execDebugRelease cmd p r s
  | .debugStateAccess cmd p r acc => Sys2Proof.Machine.execDebugStateAccess cmd p r acc s
  | .debugHistoryRead cmd p r => Sys2Proof.Machine.execDebugHistoryRead cmd p r s
  | .debugTraceSet cmd ctx core set => Sys2Proof.Machine.execDebugTraceSet cmd ctx core set s
  | .debugSampleSet cmd ctx core set => Sys2Proof.Machine.execDebugSampleSet cmd ctx core set s
  | .health cmd => Sys2Proof.Machine.execHealth cmd s
  | .failUnit cmd unit => Sys2Proof.Machine.execFailUnit cmd unit s
  | .poisonClear cmd line => Sys2Proof.Machine.execPoisonClear cmd line s
  | .reset cmd => Sys2Proof.Machine.execReset cmd s
  | .patchLoad cmd image signedBy => Sys2Proof.Machine.execPatchLoad cmd image signedBy s
  | .setParam cmd par => Sys2Proof.Machine.execSetParam cmd par s
  | .linkSession cmd tdev route digestOk => Sys2Proof.Machine.execLinkSession cmd tdev route digestOk s
  | .launchEnd cmd ctx lid => Sys2Proof.Machine.execLaunchEnd cmd ctx lid s
  | .getMeasurements part => Sys2Proof.Machine.execGetMeasurements part s
  | .stopInterface part => Sys2Proof.Machine.execStopInterface part s
  | .keyUpdate tdev => Sys2Proof.Machine.execKeyUpdate tdev s
  | .linkFlitReceive link flit tagOk => Sys2Proof.Machine.execLinkFlitReceive link flit tagOk s
  | .linkDown link => Sys2Proof.Machine.execLinkDown link s
  | .thermalLimit die => Sys2Proof.Machine.execThermalLimit die s
  | .packageReset => Sys2Proof.Machine.execPackageReset s
  | .illegalInstruction raw => Sys2Proof.Machine.execIllegalInstruction raw s
  | .patchSubstitute entry => Sys2Proof.Machine.execPatchSubstitute entry s
  | .writeBecomesVisible core idx => Sys2Proof.Machine.execWriteBecomesVisible core idx s
  | .countedLineEviction line => Sys2Proof.Machine.execCountedLineEviction line s
  | .lockInterface part => Sys2Proof.Machine.execLockInterface part s
  | .startInterface part => Sys2Proof.Machine.execStartInterface part s
  | .spdmRequest req => Sys2Proof.Machine.execSpdmRequest req s
  | .remoteAccess tdev pa acc => Sys2Proof.Machine.execRemoteAccess tdev pa acc s

end Sys2Proof.Machine
end

