-- ==== Sys2Proof/Machine/Engine.lean ====
section
/-! DEFINITION. What the hardware does on its own between the events of the opcode table: accesses out of their program order (R334),
translations before those of an instruction's other elements (R405), data that arrive in part (R171, R250). -/
namespace Sys2Proof.Machine

/-! ## Loads that a thread goes past (R334) -/

/-- A scalar load or store of memory or of scratchpad, an atomic, acquire or release apart. -/
structure PlainAccess where
  kind : AccessKind
  sp : Bool
  n : Nat
  signed : Bool
  reg : BitVec 6
  base : BitVec 6
  imm : BitVec 22
  deriving DecidableEq, Repr

/-- The plain load or store that an instruction is. -/
def plainOf (i : Instr) : Option PlainAccess :=
  let ld := fun n signed d a imm => some (PlainAccess.mk .read false n signed d a imm)
  let st := fun n d a imm => some (PlainAccess.mk .write false n false d a imm)
  let ldl := fun n d a imm => some (PlainAccess.mk .read true n false d a imm)
  let stl := fun n d a imm => some (PlainAccess.mk .write true n false d a imm)
  match i with
  | .ld8 d a imm => ld 1 false d a imm
  | .ld16 d a imm => ld 2 false d a imm
  | .ld32 d a imm => ld 4 false d a imm
  | .ld64 d a imm => ld 8 false d a imm
  | .ld8s d a imm => ld 1 true d a imm
  | .ld16s d a imm => ld 2 true d a imm
  | .ld32s d a imm => ld 4 true d a imm
  | .st8 d a imm => st 1 d a imm
  | .st16 d a imm => st 2 d a imm
  | .st32 d a imm => st 4 d a imm
  | .st64 d a imm => st 8 d a imm
  | .ldl8 d a imm => ldl 1 d a imm
  | .ldl16 d a imm => ldl 2 d a imm
  | .ldl32 d a imm => ldl 4 d a imm
  | .ldl64 d a imm => ldl 8 d a imm
  | .stl8 d a imm => stl 1 d a imm
  | .stl16 d a imm => stl 2 d a imm
  | .stl32 d a imm => stl 4 d a imm
  | .stl64 d a imm => stl 8 d a imm
  | _ => none

/-- Where a thread's plain access reads or writes local memory or, through no ring, scratchpad; none where it may not. -/
def State.plainAt (s : State) (a : Agent) (x : PlainAccess) : Option (Nat ⊕ (Bool × Nat)) :=
  let va := s.ea a x.base x.imm
  if x.sp then
    match s.localPlace a va x.n with
    | .at_ foll off none => some (.inr (foll, off))
    | _ => none
  else
    match s.translateFor a va x.kind with
    | .ok (xl, _) => if xl.tdev = 0 then some (.inl xl.pa) else none
    | .error _ => none

/-- Whether an instruction of a thread that uses some registers leaves the loads it went past where they are. -/
def Thread.apart (t : Thread) (l : List RegName) : Bool := t.late.all fun x => !l.contains (.int x.dest)

/-- Whether a thread performs an instruction before the loads that it went past (R334, R335, R345): it computes on other registers,
branches, or loads or stores other registers at other bytes. -/
def State.passes (s : State) (a : Agent) (i : Instr) : Bool :=
  let t := s.thread a
  match i with
  | .br .. | .jmp .. => true
  | _ =>
    match computes i, plainOf i with
    | some l, _ => t.apart l
    | none, some x => t.apart [.int x.reg, .int x.base] && (s.plainAt a x).any fun at_ => t.late.all fun y => !y.meets at_ x.n
    | none, none => false

/-- The threads of a stream. -/
def State.streamOfAgent (s : State) (a : Agent) : List Agent :=
  match a with
  | .control .. => [a]
  | .strand p r k => (s.groupOf p r k).map fun j => .strand p r j

/-- A stream comes to an instruction: it performs the loads it went past, but where the instruction passes them. -/
def State.comesTo (s : State) (a : Agent) (i : Instr) : State :=
  (s.streamOfAgent a).foldl (fun (s : State) t =>
    if (s.thread t).late.isEmpty || s.passes t i then s else s.performLates t) s

/-- The loads that the threads of a stream went past are performed by the end of their run (R61, R62). -/
def State.settleRuns (s : State) (l : List Agent) : State :=
  l.foldl (fun (s : State) t => if (s.thread t).run.count = 0 then s.performLates t else s) s

/-- The loads that a row's strands went past are performed: its control thread or its lanes act on their registers (R113, R191). -/
def State.performStrands (s : State) (p r : Nat) : State :=
  (List.range (s.row p r).strands.length).foldl (fun (s : State) k => s.performLates (.strand p r k)) s

/-- Every load that some thread went past is performed. -/
def State.performAll (s : State) : State :=
  if s.packs.all fun k => k.rows.all fun w => w.thread.late.isEmpty && w.strands.all fun t => t.thread.late.isEmpty then s
  else s.agents.foldl (fun (s : State) a => s.performLates a) s

/-- A stream goes past the load that it comes to. -/
noncomputable def State.deferLoad (s : State) (a : Agent) : State :=
  match s.dueEvent a, s.fetchFor a with
  | none, .instr i s1 =>
    match plainOf i with
    | some { kind := .read, sp, n, signed, reg, base, imm } =>
      let l := s1.streamOfAgent a
      let s2 := s1.comesTo a i
      let f := if sp then localStep true n reg base imm else loadStep true n signed false reg base imm
      match issue (Form.s [reg, base]) noGuard f s2 with
      | .next t => (s2.consumed t a i).settleRuns l
      | _ => s
    | _ => s
  | _, _ => s

/-! ## Translations before those of the other elements (R405) -/

/-- The access of element `e` of a vector instruction to generic memory, if it has one: kind and address. A piece of an mmaff's tile is
named by its address over 64. -/
def elemAccess (i : Instr) (s : State) (a : Agent) (e : Nat) : Option (AccessKind × BitVec 64) :=
  let (p, r) := a.pr
  let c := s.vctx p r
  let w := s.row p r
  let on := fun (gd : Guard) => (activeElems w.strands (c.wv w.width) c.vl gd).contains e
  let unit := fun (gd : Guard) (k : AccessKind) (xa : BitVec 5) (imm : BitVec 22) =>
    if on gd && decide (c.vstart ≤ e) then some (k, unitAddr xa imm s a c e) else none
  let stride := fun (gd : Guard) (k : AccessKind) (xa xb : BitVec 5) =>
    if on gd && decide (c.vstart ≤ e) then some (k, strideAddr xa xb s a c e) else none
  let index := fun (gd : Guard) (k : AccessKind) (xa : BitVec 5) (vb : BitVec 6) =>
    if (unmarked w c gd).contains e && w.caughtUp then some (k, indexAddr xa vb s a c w e) else none
  match i with
  | .vld _ xa imm | .vldff _ xa imm | .vldv _ xa imm => unit noGuard .read xa imm
  | .vlds gd _ xa xb => stride gd .read xa xb
  | .vst gd _ xa | .vstmc gd _ xa | .vstrc gd _ xa _ => unit gd .write xa 0
  | .vsts gd _ xa xb => stride gd .write xa xb
  | .vldx gd _ xa vb | .vldxv gd _ xa vb => index gd .read xa vb
  | .vstx gd _ xa vb => index gd .write xa vb
  | .vamoAdd gd _ _ xa vb _ | .vamoAnd gd _ _ xa vb _ | .vamoOr gd _ _ xa vb _ | .vamoXor gd _ _ xa vb _ |
    .vamoMax gd _ _ xa vb _ | .vamoMin gd _ _ xa vb _ | .vamoSwap gd _ _ xa vb _ | .vamoFadd gd _ _ xa vb _ =>
    index gd .readWrite xa vb
  | .mmaff _ _ xb xc _ tb _ _ =>
    let addr := (s.xr a xb).toNat
    let req := s.xr a xc
    let size := 64 * (matType tb).bytes
    let k0 := req.toNat / 256 % 256
    if !requestBad req && decide (addr % 64 = 0 ∧ addr + k0 * size ≤ 64 * e ∧ 64 * e < addr + (k0 + req.toNat % 256) * size) then
      some (.read, BitVec.ofNat 64 (64 * e))
    else none
  | _ => none

/-- A control thread's next vector instruction translates element `e` now, whatever the order of its elements: what it found stands when the
instruction comes to it. -/
noncomputable def State.beginElem (s : State) (a : Agent) (e : Nat) : State :=
  match s.dueEvent a, s.fetchFor a with
  | none, .instr i s1 =>
    match elemAccess i s1 a e with
    | none => s
    | some (k, va) =>
      if misaligned va 1 || !canonical va || (s.thread a).begun.any (fun b => decide (b.e = e)) then s
      else
        let note := fun (s : State) (x : Xlate ⊕ BitVec 8) =>
          s.modThread a fun t => { t with begun := t.begun ++ [{ e := e, kind := k, va := va, res := x }] }
        match s.translateFor a va k with
        | .error c => note s (.inr c)
        | .ok (xl, s2) => note s2 (.inl xl)
  | _, _ => s

/-! ## The hardware's own turns -/

/-- A turn of the hardware's own. -/
noncomputable def State.engineTurn (s : State) (e : Engine) : State :=
  match e with
  | .sample p r k => s.sampleStrand p r k
  | .reveal core i => s.reveal core i
  | .writeBack line => s.writeBack line
  | .early a base va => if s.canIssue a then s.readEarly a base va else s
  | .earlyLocal a base va => if s.canIssue a then s.readEarlyLocal a base va else s
  | .defer a => if s.canIssue a then s.deferLoad a else s
  | .perform a => s.performLate a
  | .begin_ a e => if s.canIssue a then (s.performLates a).beginElem a e else s
  | .land p r => (s.performStrands p r).land p r
  | .words p r => (s.performStrands p r).headWords p r
  | .unlisted c op => s.performAll.takeUnlisted c op

end Sys2Proof.Machine
end

