-- ==== Sys2Proof/Machine/Turn.lean ====
section
/-! DEFINITION. What one turn of the machine does: the turn's thread executes its next instruction, or the turn's hardware
event happens, or the hardware does something on its own; then the next turn comes. -/
namespace Sys2Proof.Machine

/-- Change the next state of an outcome. -/
def mapNext (o : Result State) (f : State → State) : Result State :=
  match o with
  | .next s => .next (f s)
  | .fault x => .fault x
  | .refused x => .refused x

/-- An outcome with the next turn. -/
def andAdvance (o : Result State) : Result State := mapNext o State.advance

/-- Whether a thread's turn finishes the instruction that it waits in with its vector-queue entry, in a row that issues nothing more
(R287, R460). -/
def State.lastIssued (s : State) (a : Agent) : Bool :=
  let w := s.row a.pr.1 a.pr.2
  ((s.thread a).waiting.any fun x => decide (x.1 = .slot)) && (w.stopped || w.dbg.halted)

/-- What follows the instruction that a stream has executed: it consumed poisoned registers (R296), the loads that it went past are
performed by the end of its run (R61), and a row that issues nothing more ends it (R287, R460). `before` is the state it began in. -/
def State.finishInstr (before after : State) (a : Agent) (i : Instr) : State :=
  let s := before.consumed after a i
  (if before.lastIssued a then s.endRun a false else s).settleRuns (before.streamOfAgent a)

/-- A stream executes an instruction. -/
noncomputable def runInstr (a : Agent) (i : Instr) (s : State) : Result State :=
  let s := s.comesTo a i
  mapNext (exec i s) fun t => s.finishInstr t a i

/-- What a thread's turn finds of its row: a control thread's follows what its strands have issued (R113). -/
def State.readyRow (s : State) (a : Agent) : State :=
  match a with
  | .control p r => s.performStrands p r
  | .strand .. => s

/-- A thread's turn: an event due at it, else its next instruction (R48, R278). -/
noncomputable def threadTurn (a : Agent) (s : State) : Result State :=
  let s := s.readyRow a
  match s.dueEvent a with
  | some i => exec i s
  | none =>
    match s.fetchFor a with
    | .instr i s' => runInstr a i s'
    | .trapped s' => .next (s'.settleRuns (s.streamOfAgent a))

/-- What a hardware event or command finds of the threads: they have performed the loads they went past, but for an event that another
core or an engine could see come first (R334). -/
def State.readyFor (s : State) (i : Instr) : State :=
  match i with
  | .writeBecomesVisible .. => s
  | .copyStart .. => s
  | .copyComplete .. => s
  | .tlpostApply .. => s
  | .vqueueExecute p r => s.performStrands p r
  | _ => s.performAll

/-- One turn. -/
noncomputable def takeTurn (s : State) : Result State :=
  match s.turn with
  | .hw i => andAdvance (exec i (s.readyFor i))
  | .engine e => .next (s.engineTurn e).advance
  | .thread a => if s.canIssue a then andAdvance (threadTurn a s) else .next (s.passTurn a).advance

end Sys2Proof.Machine
end

