-- ==== Sys2Proof/Machine/Step.lean ====
section
/-! DEFINITION. One step of the machine, and the state in which the next step fetches a given word. -/
namespace Sys2Proof.Machine

/-- One step: the turn that is due. -/
noncomputable def step (s : State) : Host.Outcome State Fault Refusal := takeTurn s

/-- The state with one instruction where the next step fetches it: granule 1 given to partition 1, an identity mapping
of the first GiB, context 0, a pack of one row of 16 strands placed on core 0, a code line at 0x30_0000 holding the
instruction at slot 1, and a handler line at 0x30_0040. Strand code is given to strand 0 of the row in LOCKSTEP. The lines
must be readable, so no channel has failed. -/
noncomputable def State.withFetchWord (s : State) (nbits w : Nat) : State :=
  let words := wordsOfNat (w % 2 ^ nbits)
  let strand := match decode words with
    | .ok i => decide (i.kind = .t)
    | .error _ => false
  let p := s.packs.length
  let width : Width := { braced := false, req := 16, grant := 16 }
  let row := Row.placed 0x300002 16 width 0x300042 false false 0 s.nonce 0
  let strand0 : Strand := { Strand.idle with thread := Thread.start 0x300002, state := .lockstep }
  let row := if strand then { row with strands := strand0 :: row.strands.drop 1 } else row
  let pack : Pack :=
    { Pack.none with life := .resident, launch := s.launches.length, ctx := 0, part := 1, units := 1,
                     tiles := 16, ringCount := 8, rows := [row], started := true }
  let launch : Launch :=
    { Launch.none with lid := 1, rec_ := List.replicate 16 0, nextPack := 1, refused := false, completed := false }
  let ctx : Context := { Context.none with num := 0, part := 1, root := 0x200000, haddr := 0x300042 }
  let part : Partition :=
    { id := 1, tdisp := .run, slotShare := 0, snapShare := 4096, ownerKey := none, mailbox := 0x3FF000,
      swapn := none, execDigest := none, key := (0, 0) }
  let mem := memPut s.mem 0x200000 (leBytes 8 0x201001)
  let mem := memPut mem 0x201000 (leBytes 8 0xDF)
  let mem := memPut mem 0x300000 (lineOf strand words)
  let mem := memPut mem 0x300040 (lineOf false { head := 0 })
  { s with
    failedChannels := [], turn := .thread (if strand then .strand p 0 0 else .control p 0), mem := mem,
    granules := tset s.granules 1 1, partitions := part :: s.partitions, contexts := ctx :: s.contexts,
    packs := s.packs ++ [pack], launches := s.launches ++ [launch] }

end Sys2Proof.Machine
end

