-- ==== Sys2Proof/Safety.lean ====
section
/-! DEFINITION. The terms in which claims speak of a run: a thread at its instruction, where it goes on, and what stays as it
was. -/
namespace Sys2Proof.Machine

/-- Whether a constructor stands for words of the opcode map: neither an event or command nor one of the two front-end rows
that every thread can meet (R67, R80). -/
def isWord (i : Instr) : Bool :=
  match i with
  | .illegalInstruction _ => false
  | .patchSubstitute _ => false
  | i => decide (i.kind ≠ .hw)

/-- The memory of the package and the scratchpad of every pack are in their canonical form. -/
def Canonical (s : State) : Prop := s.mem.wf = true ∧ ∀ k ∈ s.packs, k.lead.sp.wf = true ∧ k.foll.sp.wf = true

/-! ## A thread at its instruction -/

/-- The places an agent names exist. -/
def State.has (s : State) : Agent → Prop
  | .control p r => p < s.packs.length ∧ r < (s.pack p).rows.length
  | .strand p r k => p < s.packs.length ∧ r < (s.pack p).rows.length ∧ k < (s.row p r).strands.length

/-- A strand that is its stream's only member and has no store performed while its group waited; true of a control thread
(R100, R437). -/
def State.alone (s : State) : Agent → Prop
  | .control .. => True
  | .strand p r k =>
    s.groupOf p r k = [k] ∧ ((s.strand p r k).state = .lockstep ∨ (s.strand p r k).state = .loose) ∧
    ∀ f, (s.strand p r k).thread.waiting ≠ some (.stored, f)

/-- A thread whose turn it is, at an instruction that no comparator matches (R457). -/
structure Ready (s : State) (a : Agent) : Prop where
  issuer : s.issuer = a
  has : s.has a
  alone : s.alone a
  free : s.breakpoint a = none

/-! ## What stays -/

/-- A trace setting without how far the trace has come. -/
def TraceState.rest (t : TraceState) : TraceState := { t with written := 0, overflow := false }

/-- A core without how far its trace has come (R463). -/
def Core.rest (c : Core) : Core := { c with trace := c.trace.map TraceState.rest }

/-- A die without when a resident row last issued (R388). -/
def Die.rest (d : Die) : Die := { d with lastIssue := 0 }

/-- A state without memory, packs and the reads performed early (R334). -/
def State.rest (s : State) : State :=
  { s with mem := [], packs := [], early := [], cores := s.cores.map Core.rest, dies := s.dies.map Die.rest }

/-- A pack without its rows. -/
def Pack.rest (k : Pack) : Pack := { k with rows := [] }

/-- A strand without what completing an instruction may change of the row's strands: place and run, registers, leash and
state (R101–R103), the marks of a wait and of a breakpoint. -/
def Strand.rest (t : Strand) : Strand :=
  { t with
    thread := Thread.start 0, g := Vector.replicate 64 0, p := Vector.replicate 32 0, qblk := false, skip := false,
    leash := 0, state := .idle, group := 0, bad := [] }

/-- A row without its registers and without what completing an instruction changes: the event counts of R463, RUNLONG (R63),
which registers are poisoned; for the control thread its place and run, the interlock in force (R65) and the breakpoint not to match again. -/
def Row.rest (w : Row) (a : Agent) : Row :=
  let w := { w with
    x := Vector.replicate 32 0, p := Vector.replicate 32 0,
    summary := { runs := 0, instrs := 0, vectors := 0, waits := 0 }, bad := [],
    status := { w.status with runlong := false } }
  match a with
  | .control .. => { w with thread := Thread.start 0, bpSkip := [], mode := { w.mode with now := false } }
  | .strand .. => { w with strands := w.strands.map Strand.rest, nextGroup := 0 }

/-- An address outside the trace buffers of a pack's cores (R463). -/
def Untraced (s : State) (p x : Nat) : Prop :=
  ∀ c, c = (s.pack p).core ∨ c = (s.pack p).core + 1 → ∀ t, (s.core c).trace = some t →
    ¬ (t.set.base ≤ x ∧ x < t.set.base + t.set.size)

/-- Nothing changes but the thread's own progress and its registers `ns`: no other row or pack, no other register, nor whether it is
poisoned (R296), no memory outside a trace buffer, no part of a core, die or device. Memory in its canonical form keeps it. -/
structure Frame (s t : State) (a : Agent) (ns : List RegName) : Prop where
  rest : t.rest = s.rest
  packs : ∀ q, q ≠ a.pr.1 → t.pack q = s.pack q
  pack : (t.pack a.pr.1).rest = (s.pack a.pr.1).rest
  rows : ∀ j, j ≠ a.pr.2 → t.row a.pr.1 j = s.row a.pr.1 j
  row : (t.row a.pr.1 a.pr.2).rest a = (s.row a.pr.1 a.pr.2).rest a
  regs : ∀ b n, b.pr = a.pr → (b = a → n ∉ ns) → t.regNow b n = s.regNow b n
  sound : ∀ b n, b.pr = a.pr → (b = a → n ∉ ns) → (n ∈ t.badRegs b ↔ n ∈ s.badRegs b)
  mem : s.mem.wf = true → t.mem.wf = true ∧ ∀ x, Untraced s a.pr.1 x → memRead t.mem x = memRead s.mem x

/-! ## Where a thread goes on -/

/-- The thread has completed its instruction and goes on at `npc`; a substitute before the last stays where it was (R80). -/
structure Goes (s t : State) (a : Agent) (npc : BitVec 48) : Prop where
  pc : (t.thread a).pc = if s.fetch.sub && !s.fetch.lastSub then (s.thread a).pc else npc
  idle : (t.thread a).waiting = none

/-- The instruction takes a trap: a control thread enters its handler or, for a debug break it may catch, halts (R278, R459);
a strand faults (R111), and what its fault lets go of is released (R103). -/
def State.trapsTo (s : State) (a : Agent) (cause : BitVec 8) (val : BitVec 64) : State :=
  match a with
  | .control p r =>
    if cause = 0x0E then s.debugBreak p r cause s.fetch.pc val 0 else s.takeTrap p r cause s.fetch.pc val 0
  | .strand p r k => (s.faultStrand p r k cause (faultVal cause val)).releaseAll p r

end Sys2Proof.Machine
end

