-- ==== Sys2Proof/Safety/Scalar.lean ====
section
/-! DEFINITION. What the spec's tables say the scalar instructions compute, in numbers: the results of R119–R128 by
instruction, written for claims and not used by the machine. -/
namespace Sys2Proof.Machine

/-- A number modulo 2^64, and the low 32 bits of a number sign-extended (R10). -/
def wrap64 (v : Int) : BitVec 64 := BitVec.ofInt 64 v
def sext32 (v : Int) : BitVec 64 := BitVec.ofInt 64 (BitVec.ofInt 32 v).toInt

/-- The fields of an instruction that name integer registers lie in a control thread's file of 32 (R117). -/
def inFile (a : Agent) (l : List (BitVec 6)) : Prop :=
  match a with
  | .control .. => ∀ f ∈ l, f.toNat < 32
  | .strand .. => True

/-- The quotients of R120, saturated in the direction of the exact one. -/
def quotient (a b : Int) : Int :=
  if b = 0 then (if a > 0 then 2 ^ 63 - 1 else if a < 0 then -2 ^ 63 else 0)
  else if a = -2 ^ 63 ∧ b = -1 then 2 ^ 63 - 1 else Int.tdiv a b
def quotientU (a b : Nat) : Nat := if b = 0 then (if a = 0 then 0 else 2 ^ 64 - 1) else a / b

/-- The number of leading zero bits, and of trailing ones, of a word (R121). -/
def leadingZeros (a : BitVec 64) : Nat := ((List.range 64).find? fun i => a.getLsbD (63 - i)).getD 64
def trailingZeros (a : BitVec 64) : Nat := ((List.range 64).find? fun i => a.getLsbD i).getD 64

/-- What an instruction of R119 and R121–R125 writes: its destination, the other integer registers it names, and the value
of the destination, visible to the next instruction (R61). -/
def intResult (s : State) (t : Agent) : Instr → Option (BitVec 6 × List (BitVec 6) × BitVec 64)
  | .add d a b => some (d, [a, b], wrap64 ((s.int t a).toInt + (s.int t b).toInt))
  | .sub d a b => some (d, [a, b], wrap64 ((s.int t a).toInt - (s.int t b).toInt))
  | .and d a b => some (d, [a, b], s.int t a &&& s.int t b)
  | .or d a b => some (d, [a, b], s.int t a ||| s.int t b)
  | .xor d a b => some (d, [a, b], s.int t a ^^^ s.int t b)
  | .andn d a b => some (d, [a, b], s.int t a &&& ~~~(s.int t b))
  | .sll d a b => some (d, [a, b], wrap64 ((s.int t a).toInt * 2 ^ ((s.int t b).toNat % 64)))
  | .srl d a b => some (d, [a, b], wrap64 ((s.int t a).toNat / 2 ^ ((s.int t b).toNat % 64)))
  | .sra d a b => some (d, [a, b], wrap64 ((s.int t a).toInt / 2 ^ ((s.int t b).toNat % 64)))
  | .rol d a b => some (d, [a, b], (s.int t a).rotateLeft ((s.int t b).toNat % 64))
  | .min d a b => some (d, [a, b], wrap64 (min (s.int t a).toInt (s.int t b).toInt))
  | .max d a b => some (d, [a, b], wrap64 (max (s.int t a).toInt (s.int t b).toInt))
  | .minu d a b => some (d, [a, b], wrap64 (min (s.int t a).toNat (s.int t b).toNat))
  | .maxu d a b => some (d, [a, b], wrap64 (max (s.int t a).toNat (s.int t b).toNat))
  | .addw d a b => some (d, [a, b], sext32 ((s.int t a).toInt + (s.int t b).toInt))
  | .subw d a b => some (d, [a, b], sext32 ((s.int t a).toInt - (s.int t b).toInt))
  | .clz d a => some (d, [a], wrap64 (leadingZeros (s.int t a)))
  | .ctz d a => some (d, [a], wrap64 (trailingZeros (s.int t a)))
  | .popc d a => some (d, [a], wrap64 ((List.range 64).countP fun i => (s.int t a).getLsbD i))
  | .bswap d a => some (d, [a], BitVec.ofBoolListLE ((List.range 64).map fun i => (s.int t a).getLsbD (56 - i / 8 * 8 + i % 8)))
  | .brev d a => some (d, [a], BitVec.ofBoolListLE ((List.range 64).map fun i => (s.int t a).getLsbD (63 - i)))
  | .sxb d a => some (d, [a], wrap64 (BitVec.ofNat 8 (s.int t a).toNat).toInt)
  | .sxh d a => some (d, [a], wrap64 (BitVec.ofNat 16 (s.int t a).toNat).toInt)
  | .sxw d a => some (d, [a], wrap64 (BitVec.ofNat 32 (s.int t a).toNat).toInt)
  | .zxw d a => some (d, [a], wrap64 ((s.int t a).toNat % 2 ^ 32))
  | .addi d a imm => some (d, [a], wrap64 ((s.int t a).toInt + imm.toInt))
  | .andi d a imm => some (d, [a], s.int t a &&& wrap64 imm.toInt)
  | .ori d a imm => some (d, [a], s.int t a ||| wrap64 imm.toInt)
  | .xori d a imm => some (d, [a], s.int t a ^^^ wrap64 imm.toInt)
  | .slli d a sh => some (d, [a], wrap64 ((s.int t a).toInt * 2 ^ sh.toNat))
  | .srli d a sh => some (d, [a], wrap64 ((s.int t a).toNat / 2 ^ sh.toNat))
  | .srai d a sh => some (d, [a], wrap64 ((s.int t a).toInt / 2 ^ sh.toNat))
  | .roli d a sh => some (d, [a], (s.int t a).rotateLeft sh.toNat)
  | .li d imm => some (d, [], wrap64 imm.toInt)
  | .lhi d imm => some (d, [], wrap64 (imm.toNat * 2 ^ 42 + (s.int t d).toNat % 2 ^ 42))
  | .sel gd d a b => if gd.wf then some (d, [a, b], if s.guardOn t gd then s.int t a else s.int t b) else none
  | .adda gd d a b sh =>
    if gd.wf ∧ s.guardOn t gd then some (d, [a, b], wrap64 ((s.int t a).toInt + (s.int t b).toInt * 2 ^ sh.toNat)) else none
  | _ => none

/-- What an instruction of R120 writes, in the same form; the rest of its run may still read the value before (R61). -/
def lateResult (s : State) (t : Agent) : Instr → Option (BitVec 6 × List (BitVec 6) × BitVec 64)
  | .mul d a b => some (d, [a, b], wrap64 ((s.int t a).toInt * (s.int t b).toInt))
  | .mulh d a b => some (d, [a, b], wrap64 ((s.int t a).toInt * (s.int t b).toInt / 2 ^ 64))
  | .mulhu d a b => some (d, [a, b], wrap64 ((s.int t a).toNat * (s.int t b).toNat / 2 ^ 64))
  | .div d a b => some (d, [a, b], wrap64 (quotient (s.int t a).toInt (s.int t b).toInt))
  | .divu d a b => some (d, [a, b], wrap64 (quotientU (s.int t a).toNat (s.int t b).toNat))
  | .rem d a b =>
    some (d, [a, b], wrap64 ((s.int t a).toInt - (s.int t b).toInt * quotient (s.int t a).toInt (s.int t b).toInt))
  | .remu d a b =>
    some (d, [a, b], wrap64 ((s.int t a).toNat - (s.int t b).toNat * quotientU (s.int t a).toNat (s.int t b).toNat))
  | .mulw d a b => some (d, [a, b], sext32 ((s.int t a).toInt * (s.int t b).toInt))
  | _ => none

/-- A word of a truth value: bit 0, the other bits clear (R126). -/
def bitWord (c : Prop) [Decidable c] : BitVec 64 := if c then 1 else 0

/-- What an instruction of R126–R128 writes: the predicate, the integer registers it names, the value. -/
def predResult (s : State) (t : Agent) : Instr → Option (BitVec 5 × List (BitVec 6) × BitVec 64)
  | .ceq pd a b => some (pd, [a, b], bitWord (s.int t a = s.int t b))
  | .cne pd a b => some (pd, [a, b], bitWord (s.int t a ≠ s.int t b))
  | .clt pd a b => some (pd, [a, b], bitWord ((s.int t a).toInt < (s.int t b).toInt))
  | .cge pd a b => some (pd, [a, b], bitWord ((s.int t b).toInt ≤ (s.int t a).toInt))
  | .cltu pd a b => some (pd, [a, b], bitWord ((s.int t a).toNat < (s.int t b).toNat))
  | .cgeu pd a b => some (pd, [a, b], bitWord ((s.int t b).toNat ≤ (s.int t a).toNat))
  | .ceqi pd a imm => some (pd, [a], bitWord ((s.int t a).toInt = imm.toInt))
  | .cnei pd a imm => some (pd, [a], bitWord ((s.int t a).toInt ≠ imm.toInt))
  | .clti pd a imm => some (pd, [a], bitWord ((s.int t a).toInt < imm.toInt))
  | .cgei pd a imm => some (pd, [a], bitWord (imm.toInt ≤ (s.int t a).toInt))
  | .cltui pd a imm => some (pd, [a], bitWord ((s.int t a).toNat < (wrap64 imm.toInt).toNat))
  | .cgeui pd a imm => some (pd, [a], bitWord ((wrap64 imm.toInt).toNat ≤ (s.int t a).toNat))
  | .pand pd pa pb => some (pd, [], s.pred t pa &&& s.pred t pb)
  | .por pd pa pb => some (pd, [], s.pred t pa ||| s.pred t pb)
  | .pxor pd pa pb => some (pd, [], s.pred t pa ^^^ s.pred t pb)
  | .pandn pd pa pb => some (pd, [], s.pred t pa &&& ~~~(s.pred t pb))
  | .pnot pd pa => some (pd, [], ~~~(s.pred t pa))
  | .pmov pd pa => some (pd, [], s.pred t pa)
  | _ => none

/-! ## Loads and stores -/

/-- A load of R130: bytes, whether it extends the sign, destination, base, displacement; a snapshot load of R134 is one of
the second table. -/
structure LoadForm where
  w : Nat
  signed : Bool
  d : BitVec 6
  a : BitVec 6
  imm : BitVec 22

def loadForm : Instr → Option LoadForm
  | .ld8 d a imm => some ⟨1, false, d, a, imm⟩
  | .ld16 d a imm => some ⟨2, false, d, a, imm⟩
  | .ld32 d a imm => some ⟨4, false, d, a, imm⟩
  | .ld64 d a imm => some ⟨8, false, d, a, imm⟩
  | .ld8s d a imm => some ⟨1, true, d, a, imm⟩
  | .ld16s d a imm => some ⟨2, true, d, a, imm⟩
  | .ld32s d a imm => some ⟨4, true, d, a, imm⟩
  | _ => none

def snapLoadForm : Instr → Option LoadForm
  | .ldv8 d a imm => some ⟨1, false, d, a, imm⟩
  | .ldv16 d a imm => some ⟨2, false, d, a, imm⟩
  | .ldv32 d a imm => some ⟨4, false, d, a, imm⟩
  | .ldv64 d a imm => some ⟨8, false, d, a, imm⟩
  | _ => none

/-- The local loads of R133. -/
def localLoadForm : Instr → Option LoadForm
  | .ldl8 d a imm => some ⟨1, false, d, a, imm⟩
  | .ldl16 d a imm => some ⟨2, false, d, a, imm⟩
  | .ldl32 d a imm => some ⟨4, false, d, a, imm⟩
  | .ldl64 d a imm => some ⟨8, false, d, a, imm⟩
  | _ => none

/-- The stores of R130 and R133: bytes, the register stored, base, displacement. -/
structure StoreForm where
  w : Nat
  d : BitVec 6
  a : BitVec 6
  imm : BitVec 22

def storeForm : Instr → Option StoreForm
  | .st8 d a imm => some ⟨1, d, a, imm⟩
  | .st16 d a imm => some ⟨2, d, a, imm⟩
  | .st32 d a imm => some ⟨4, d, a, imm⟩
  | .st64 d a imm => some ⟨8, d, a, imm⟩
  | _ => none

def localStoreForm : Instr → Option StoreForm
  | .stl8 d a imm => some ⟨1, d, a, imm⟩
  | .stl16 d a imm => some ⟨2, d, a, imm⟩
  | .stl32 d a imm => some ⟨4, d, a, imm⟩
  | .stl64 d a imm => some ⟨8, d, a, imm⟩
  | _ => none

/-- The `w` bytes of a datum zero- or sign-extended (R130). -/
def extended (w : Nat) (signed : Bool) (v : BitVec 64) : BitVec 64 :=
  if signed then wrap64 (BitVec.ofNat (8 * w) v.toNat).toInt else wrap64 (v.toNat % 2 ^ (8 * w))

/-! ## Transfers -/

/-- The target an immediate names in native code: a signed line offset and a slot (R49). -/
def nativeTarget (pc : BitVec 48) (imm : Int) : BitVec 64 :=
  wrap64 (pc.toInt - pc.toInt % 64 + imm / 32 * 64 + imm % 32 * 2)

/-- The target an immediate names: in native code that of R49; in Adtan a byte offset (R76). -/
def State.targetOf (s : State) (imm : Int) : BitVec 64 :=
  if s.fetch.adtan then wrap64 (s.fetch.pc.toInt + imm) else nativeTarget s.fetch.pc imm

/-- A transfer that is taken (R135, R136): the integer registers it names, its target, the register that receives the link,
and whether it is a call return. -/
structure TransferForm where
  names : List (BitVec 6)
  target : BitVec 64
  link : Option (BitVec 6)
  isRet : Bool

def State.transfer (s : State) (t : Agent) : Instr → Option TransferForm
  | .br neg pa imm => if (s.pred t pa).getLsbD 0 ≠ neg then some ⟨[], s.targetOf imm.toInt, none, false⟩ else none
  | .jmp imm => some ⟨[], s.targetOf imm.toInt, none, false⟩
  | .call d imm => some ⟨[d], s.targetOf imm.toInt, some d, false⟩
  | .jmpr a => some ⟨[a], s.int t a, none, false⟩
  | .callr d a => some ⟨[d, a], s.int t a, some d, false⟩
  | .ret a => some ⟨[a], s.int t a, none, true⟩
  | _ => none

/-- The immediate of a transfer in Adtan has bits [1:0] zero (R76). -/
def alignedImm : Instr → Prop
  | .br _ _ imm => imm &&& 3 = 0
  | .jmp imm => imm &&& 3 = 0
  | .call _ imm => imm &&& 3 = 0
  | _ => True

end Sys2Proof.Machine
end

