-- ==== Sys2Proof/Safety/Vector.lean ====
section
/-! DEFINITION. What the spec's tables say of the per-element instructions (R164, R199–R208): by instruction the entry its row's
queue takes, and by entry the elements, mask bits and flags it leaves; written for claims and not used by the machine. -/
namespace Sys2Proof.Machine

/-! ## Issue -/

/-- A per-element instruction that takes a queue entry: its guard, the fields that R54, R55, R58 or R72 reserve, the groups it
names (R165), the types its operation is defined for (R194), and the work it gives the lanes with its scalar operands as
the thread reads them (R190). -/
structure QueueForm where
  gd : Guard
  legal : Prop
  groups : List (BitVec 6)
  fits : VCtx → Prop
  op : VOp

/-- The fields of a float form that may be reserved. -/
def floatLegal (gd : Guard) (ex : Exc) (rm : BitVec 4) : Prop := gd.wf ∧ ex.wf ∧ rm ≤ 5

/-- Forms with a group or an x register as operand B. -/
def intVV (f : IntFn) (gd : Guard) (vd va vb : BitVec 6) : Option QueueForm :=
  some ⟨gd, gd.wf, [vd, va, vb], fun _ => True, .int f vd va (.v vb)⟩
def intVX (s : State) (t : Agent) (f : IntFn) (gd : Guard) (vd va : BitVec 6) (xb : BitVec 5) : Option QueueForm :=
  some ⟨gd, gd.wf, [vd, va], fun _ => True, .int f vd va (.x (s.xr t xb))⟩
def cmpV (s : State) (t : Agent) (f : CmpFn) (gd : Guard) (x : Bool) (md : BitVec 5) (va b : BitVec 6) : Option QueueForm :=
  some ⟨gd, gd.wf ∧ (x → b.toNat < 32), if x then [va] else [va, b], fun _ => True,
    .icmp f md va (if x then .x (s.int t b) else .v b)⟩
def fcmpV (s : State) (t : Agent) (f : FCmpFn) (gd : Guard) (ex : Exc) (x : Bool) (md : BitVec 5) (va b : BitVec 6) :
    Option QueueForm :=
  some ⟨gd, gd.wf ∧ ex.wf ∧ (x → b.toNat < 32), if x then [va] else [va, b], fun c => c.ew ≠ 8,
    .fcmp f ex md va (if x then .x (s.int t b) else .v b)⟩
def maskV (f : MaskFn) (gd : Guard) (md ma mb : BitVec 5) : Option QueueForm :=
  some ⟨gd, gd.wf, [], fun _ => True, .mask f md ma mb⟩
def convV (f : ConvFn) (gd : Guard) (ex : Exc) (rm : BitVec 4) (vd va : BitVec 6) (need : Nat) : Option QueueForm :=
  some ⟨gd, floatLegal gd ex rm, [vd, va], fun c => need ≤ c.ew, .conv f ex rm vd va⟩

def State.queueForm (s : State) (t : Agent) : Instr → Option QueueForm
  | .vadd gd vd va vb => intVV .add gd vd va vb
  | .vsub gd vd va vb => intVV .sub gd vd va vb
  | .vmul gd vd va vb => intVV .mul gd vd va vb
  | .vmulh gd vd va vb => intVV .mulh gd vd va vb
  | .vand gd vd va vb => intVV .and gd vd va vb
  | .vor gd vd va vb => intVV .or gd vd va vb
  | .vxor gd vd va vb => intVV .xor gd vd va vb
  | .vsll gd vd va vb => intVV .sll gd vd va vb
  | .vsrl gd vd va vb => intVV .srl gd vd va vb
  | .vsra gd vd va vb => intVV .sra gd vd va vb
  | .vmin gd vd va vb => intVV .min gd vd va vb
  | .vmax gd vd va vb => intVV .max gd vd va vb
  | .vminu gd vd va vb => intVV .minu gd vd va vb
  | .vmaxu gd vd va vb => intVV .maxu gd vd va vb
  | .vaddVx gd vd va xb => intVX s t .add gd vd va xb
  | .vsubVx gd vd va xb => intVX s t .sub gd vd va xb
  | .vmulVx gd vd va xb => intVX s t .mul gd vd va xb
  | .vmulhVx gd vd va xb => intVX s t .mulh gd vd va xb
  | .vandVx gd vd va xb => intVX s t .and gd vd va xb
  | .vorVx gd vd va xb => intVX s t .or gd vd va xb
  | .vxorVx gd vd va xb => intVX s t .xor gd vd va xb
  | .vsllVx gd vd va xb => intVX s t .sll gd vd va xb
  | .vsrlVx gd vd va xb => intVX s t .srl gd vd va xb
  | .vsraVx gd vd va xb => intVX s t .sra gd vd va xb
  | .vminVx gd vd va xb => intVX s t .min gd vd va xb
  | .vmaxVx gd vd va xb => intVX s t .max gd vd va xb
  | .vminuVx gd vd va xb => intVX s t .minu gd vd va xb
  | .vmaxuVx gd vd va xb => intVX s t .maxu gd vd va xb
  | .vadc gd vd va vb mc mm => some ⟨gd, gd.wf, [vd, va, vb], fun _ => True, .carry false vd va (.v vb) mc mm⟩
  | .vsbc gd vd va vb mc mm => some ⟨gd, gd.wf, [vd, va, vb], fun _ => True, .carry true vd va (.v vb) mc mm⟩
  | .vadcVx gd vd va xb mc mm =>
    some ⟨gd, gd.wf, [vd, va], fun _ => True, .carry false vd va (.x (s.xr t xb)) mc mm⟩
  | .vsbcVx gd vd va xb mc mm =>
    some ⟨gd, gd.wf, [vd, va], fun _ => True, .carry true vd va (.x (s.xr t xb)) mc mm⟩
  | .vfadd gd ex rm h vd va vb => some ⟨gd, floatLegal gd ex rm, [vd, va, vb], fun c => c.ew ≠ 8, .fbin .add h ex rm vd va vb⟩
  | .vfsub gd ex rm h vd va vb => some ⟨gd, floatLegal gd ex rm, [vd, va, vb], fun c => c.ew ≠ 8, .fbin .sub h ex rm vd va vb⟩
  | .vfmul gd ex rm h vd va vb => some ⟨gd, floatLegal gd ex rm, [vd, va, vb], fun c => c.ew ≠ 8, .fbin .mul h ex rm vd va vb⟩
  | .vfdiv gd ex rm h vd va vb => some ⟨gd, floatLegal gd ex rm, [vd, va, vb], fun c => c.ew ≠ 8, .fbin .div h ex rm vd va vb⟩
  | .vfmin gd ex h vd va vb => some ⟨gd, floatLegal gd ex 0, [vd, va, vb], fun c => c.ew ≠ 8, .fbin .min h ex 0 vd va vb⟩
  | .vfmax gd ex h vd va vb => some ⟨gd, floatLegal gd ex 0, [vd, va, vb], fun c => c.ew ≠ 8, .fbin .max h ex 0 vd va vb⟩
  | .vfsqrt gd ex rm h vd va => some ⟨gd, floatLegal gd ex rm, [vd, va], fun c => c.ew ≠ 8, .fun1 .sqrt h ex rm vd va⟩
  | .vfabs gd ex h vd va => some ⟨gd, floatLegal gd ex 0, [vd, va], fun c => c.ew ≠ 8, .fun1 .abs h ex 0 vd va⟩
  | .vfneg gd ex h vd va => some ⟨gd, floatLegal gd ex 0, [vd, va], fun c => c.ew ≠ 8, .fun1 .neg h ex 0 vd va⟩
  | .vfma gd ex rm h vd va vb vc =>
    some ⟨gd, floatLegal gd ex rm, [vd, va, vb, vc], fun c => c.ew ≠ 8, .fma .fma h ex rm vd va vb vc⟩
  | .vfms gd ex rm h vd va vb vc =>
    some ⟨gd, floatLegal gd ex rm, [vd, va, vb, vc], fun c => c.ew ≠ 8, .fma .fms h ex rm vd va vb vc⟩
  | .vfnma gd ex rm h vd va vb vc =>
    some ⟨gd, floatLegal gd ex rm, [vd, va, vb, vc], fun c => c.ew ≠ 8, .fma .fnma h ex rm vd va vb vc⟩
  | .vceq gd x md va b => cmpV s t .eq gd x md va b
  | .vcne gd x md va b => cmpV s t .ne gd x md va b
  | .vclt gd x md va b => cmpV s t .lt gd x md va b
  | .vcge gd x md va b => cmpV s t .ge gd x md va b
  | .vcltu gd x md va b => cmpV s t .ltu gd x md va b
  | .vcgeu gd x md va b => cmpV s t .geu gd x md va b
  | .vfeq gd ex x md va b => fcmpV s t .eq gd ex x md va b
  | .vflt gd ex x md va b => fcmpV s t .lt gd ex x md va b
  | .vfle gd ex x md va b => fcmpV s t .le gd ex x md va b
  | .vfunord gd ex x md va b => fcmpV s t .unord gd ex x md va b
  | .mand gd md ma mb => maskV .and gd md ma mb
  | .mor gd md ma mb => maskV .or gd md ma mb
  | .mxor gd md ma mb => maskV .xor gd md ma mb
  | .mandn gd md ma mb => maskV .andn gd md ma mb
  | .mnot gd md ma => maskV .not gd md ma 0
  | .mmov gd md ma => maskV .mov gd md ma 0
  | .mshl gd md ma => maskV .shl gd md ma 0
  | .mshr gd md ma => maskV .shr gd md ma 0
  | .mset gd md => maskV .set gd md 0 0
  | .mclr gd md => maskV .clr gd md 0 0
  | .mrdd gd md => maskV .rdd gd md 0 0
  | .mwrd gd ma => maskV .wrd gd 0 ma 0
  | .vslideup gd vd va xb => some ⟨gd, gd.wf, [vd, va], fun _ => vd ≠ va, .slideUp vd va (s.xr t xb)⟩
  | .vslidedn gd vd va xb => some ⟨gd, gd.wf, [vd, va], fun _ => vd ≠ va, .slideDown vd va (s.xr t xb)⟩
  | .vperm gd vd va vb => some ⟨gd, gd.wf, [vd, va, vb], fun _ => vd ≠ va ∧ vd ≠ vb, .perm vd va vb⟩
  | .vbcast gd vd xa => some ⟨gd, gd.wf, [vd], fun _ => True, .bcast vd (s.xr t xa)⟩
  | .vcompress vd va mb => some ⟨noGuard, True, [vd, va], fun _ => vd ≠ va, .compress vd va mb⟩
  | .vexpand vd va mb => some ⟨noGuard, True, [vd, va], fun _ => vd ≠ va, .expand vd va mb⟩
  | .vins vd xa xb => some ⟨noGuard, True, [vd], fun _ => True, .ins vd (s.xr t xa) (s.xr t xb)⟩
  | .vcvtF64F32 gd ex rm vd va => convV .f64F32 gd ex rm vd va 64
  | .vcvtF32F64 gd ex rm vd va => convV .f32F64 gd ex rm vd va 64
  | .vcvtF32I64 gd ex rm vd va => convV .f32I64 gd ex rm vd va 64
  | .vcvtI64F32 gd ex rm vd va => convV .i64F32 gd ex rm vd va 64
  | .vcvtF64I64 gd ex rm vd va => convV .f64I64 gd ex rm vd va 64
  | .vcvtI64F64 gd ex rm vd va => convV .i64F64 gd ex rm vd va 64
  | .vcvtBf16F32 gd ex rm vd va => convV .bf16F32 gd ex rm vd va 32
  | .vcvtF32Bf16 gd ex rm vd va => convV .f32Bf16 gd ex rm vd va 32
  | .vcvtFp16F32 gd ex rm vd va => convV .fp16F32 gd ex rm vd va 32
  | .vcvtF32Fp16 gd ex rm vd va => convV .f32Fp16 gd ex rm vd va 32
  | .vcvtE4m3F32 gd ex rm vd va => convV .e4m3F32 gd ex rm vd va 32
  | .vcvtF32E4m3 gd ex rm vd va => convV .f32E4m3 gd ex rm vd va 32
  | .vcvtE5m2F32 gd ex rm vd va => convV .e5m2F32 gd ex rm vd va 32
  | .vcvtF32E5m2 gd ex rm vd va => convV .f32E5m2 gd ex rm vd va 32
  | .vcvtLgF32 gd ex rm vd va => convV .lgF32 gd ex rm vd va 32
  | .vcvtF32Lg gd ex rm vd va => convV .f32Lg gd ex rm vd va 32
  | _ => none

/-- The entry that a work takes at the end of a row's queue (R170, R190). -/
def State.entryOf (s : State) (p r : Nat) (op : VOp) (gd : Guard) : VEntry :=
  { op := op, ctx := s.vctx p r, guard := gd, seq := (s.row p r).issueSeq, rings := [], pc := s.fetch.pc, stop := false,
    cycle := s.cycle, earlier := none, words := [], met := none, checked := false }

/-! ## What the lanes leave -/

/-- A number as an element of `ew` bits, and an element as a signed number. -/
def toElem (ew : Nat) (v : Int) : Nat := (BitVec.ofInt ew v).toNat
def asSigned (ew a : Nat) : Int := (BitVec.ofNat ew a).toInt

/-- The functions of R199. -/
def intOf (f : IntFn) (ew a b : Nat) : Nat :=
  toElem ew (match f with
    | .add => (a : Int) + b
    | .sub => (a : Int) - b
    | .mul => (a : Int) * b
    | .mulh => asSigned ew a * asSigned ew b / 2 ^ ew
    | .and => ((BitVec.ofNat ew a &&& BitVec.ofNat ew b).toNat : Int)
    | .or => ((BitVec.ofNat ew a ||| BitVec.ofNat ew b).toNat : Int)
    | .xor => ((BitVec.ofNat ew a ^^^ BitVec.ofNat ew b).toNat : Int)
    | .sll => (a : Int) * 2 ^ (b % ew)
    | .srl => (a : Int) / 2 ^ (b % ew)
    | .sra => asSigned ew a / 2 ^ (b % ew)
    | .min => min (asSigned ew a) (asSigned ew b)
    | .max => max (asSigned ew a) (asSigned ew b)
    | .minu => min (a : Int) b
    | .maxu => max (a : Int) b)

/-- The comparisons of R126 on elements. -/
def cmpOf (f : CmpFn) (ew a b : Nat) : Bool :=
  match f with
  | .eq => decide (a = b)
  | .ne => decide (a ≠ b)
  | .lt => decide (asSigned ew a < asSigned ew b)
  | .ge => decide (asSigned ew b ≤ asSigned ew a)
  | .ltu => decide (a < b)
  | .geu => decide (b ≤ a)

/-- The number of bits of a mask set below an element. -/
def rankBelow (l : List Strand) (wv : Nat) (m : BitVec 5) (e : Nat) : Nat := (List.range e).countP fun i => maskGet l wv m i

/-- What an entry does to element `e` (R199–R208), from the registers as they stand before it: the value that its group's
element takes, the bit that its mask takes, the bit of md, and the flags it raises there. -/
structure ElemEffect where
  value : Option Nat := none
  bit : Option Bool := none
  mark : Option Bool := none
  flags : Flags := 0

/-- The effect of a computing entry on an active element below VL. -/
def VOp.onElem (op : VOp) (c : VCtx) (wv : Nat) (l : List Strand) (e : Nat) : ElemEffect :=
  let get := fun (b : BitVec 6) (i : Nat) => elemGet l wv c.ew b i
  let fmt := fun (half : Bool) =>
    if c.ew = 64 then fp64 else if c.ew = 32 then fp32 else if half then fp16 else bf16
  let src := fun (b : VSrc) =>
    match b with
    | .v r => get r e
    | .x w => w.toNat % 2 ^ c.ew
  match op with
  | .int f _ va b => { value := some (intOf f c.ew (get va e) (src b)) }
  | .carry borrow _ va b _ mm =>
    let x := (get va e : Int)
    let y := (src b : Int) + if maskGet l wv mm e then 1 else 0
    if borrow then { value := some (toElem c.ew (x - y)), bit := some (decide (x - y < 0)) }
    else { value := some (toElem c.ew (x + y)), bit := some (decide ((2 : Int) ^ c.ew ≤ x + y)) }
  | .fbin f h _ rm _ va vb =>
    let r := (fmt h).bin f (rmode rm c.rm) (get va e) (get vb e)
    { value := some r.1, flags := r.2 }
  | .fun1 f h _ rm _ va =>
    let r := (fmt h).un f (rmode rm c.rm) (get va e)
    { value := some r.1, flags := r.2 }
  | .fma f h _ rm _ va vb vc =>
    let r := (fmt h).fused f (rmode rm c.rm) (get va e) (get vb e) (get vc e)
    { value := some r.1, flags := r.2 }
  | .icmp f _ va b => { bit := some (cmpOf f c.ew (get va e) (src b)) }
  | .fcmp f _ _ va b =>
    let r := (fmt false).cmp f (get va e) (src b)
    { bit := some r.1, flags := r.2 }
  | .mask f _ ma mb =>
    let a := maskGet l wv ma
    let b := maskGet l wv mb
    match f with
    | .and => { bit := some (a e && b e) }
    | .or => { bit := some (a e || b e) }
    | .xor => { bit := some (a e ^^ b e) }
    | .andn => { bit := some (a e && !b e) }
    | .not => { bit := some (!a e) }
    | .mov => { bit := some (a e) }
    | .shl => { bit := some (if e = 0 then false else a (e - 1)) }
    | .shr => { bit := some (if e + 1 = c.vl then false else a (e + 1)) }
    | .set => { bit := some true }
    | .clr => { bit := some false }
    | .rdd => { bit := some (mdGet l wv e) }
    | .wrd => { mark := some (a e) }
  | .slideUp _ va x => { value := if x.toNat ≤ e then some (get va (e - x.toNat)) else none }
  | .slideDown _ va x => { value := some (if e + x.toNat < c.vl then get va (e + x.toNat) else 0) }
  | .perm _ va vb => { value := some (if get vb e < c.vl then get va (get vb e) else 0) }
  | .bcast _ x => { value := some (x.toNat % 2 ^ c.ew) }
  | .compress _ va mb =>
    { value := ((List.range c.vl).find? fun i => maskGet l wv mb i && decide (rankBelow l wv mb i = e)).map (get va) }
  | .expand _ va mb => { value := if maskGet l wv mb e then some (get va (rankBelow l wv mb e)) else none }
  | .ins _ x idx => { value := if e = idx.toNat then some (x.toNat % 2 ^ c.ew) else none }
  | .conv f _ rm _ va =>
    let r := convert f (rmode rm c.rm) (get va e % 2 ^ convReads f)
    { value := some r.1, flags := r.2 }
  | _ => {}

/-- The group, the mask and the exception field of a computing entry; none for the others. -/
def VOp.dests : VOp → Option (Option (BitVec 6) × Option (BitVec 5) × Exc)
  | .int _ vd _ _ => some (some vd, none, ⟨false, 0⟩)
  | .carry _ vd _ _ mc _ => some (some vd, some mc, ⟨false, 0⟩)
  | .fbin _ _ ex _ vd _ _ => some (some vd, none, ex)
  | .fun1 _ _ ex _ vd _ => some (some vd, none, ex)
  | .fma _ _ ex _ vd _ _ _ => some (some vd, none, ex)
  | .icmp _ md _ _ => some (none, some md, ⟨false, 0⟩)
  | .fcmp _ ex md _ _ => some (none, some md, ex)
  | .mask f md _ _ => some (none, if f = .wrd then none else some md, ⟨false, 0⟩)
  | .slideUp vd _ _ => some (some vd, none, ⟨false, 0⟩)
  | .slideDown vd _ _ => some (some vd, none, ⟨false, 0⟩)
  | .perm vd _ _ => some (some vd, none, ⟨false, 0⟩)
  | .bcast vd _ => some (some vd, none, ⟨false, 0⟩)
  | .compress vd _ _ => some (some vd, none, ⟨false, 0⟩)
  | .expand vd _ _ => some (some vd, none, ⟨false, 0⟩)
  | .ins vd _ _ => some (some vd, none, ⟨false, 0⟩)
  | .conv _ ex _ vd _ => some (some vd, none, ex)
  | _ => none

/-- A captured type of R163 whose length fits it (R164), and strands enough for its vector width. -/
structure VCtx.sound (c : VCtx) (w : Row) : Prop where
  ew : c.ew = 8 ∨ c.ew = 16 ∨ c.ew = 32 ∨ c.ew = 64
  grp : c.grp = 1 ∨ c.grp = 2 ∨ c.grp = 4 ∨ c.grp = 8
  vl : c.vl ≤ c.wv w.width * c.grp * (64 / c.ew)
  wv : 0 < c.wv w.width ∧ c.wv w.width ≤ w.strands.length

/-- The register of a group that holds an element (R164). -/
def groupReg (c : VCtx) (wv : Nat) (b : BitVec 6) (e : Nat) : BitVec 6 := b + BitVec.ofNat 6 (e / wv / (64 / c.ew))

/-- The registers of a group (R165). -/
def inGroup (c : VCtx) (b n : BitVec 6) : Prop := b.toNat ≤ n.toNat ∧ n.toNat < b.toNat + c.grp

/-- What a step of the lanes may change beside what a claim names: the row's queue, strands, flags and vector history, and the
samples due on its core (R461, R464). -/
structure Laned (s t : State) (p r : Nat) : Prop where
  rest : { t with packs := [], cores := [] } = { s with packs := [], cores := [] }
  cores : t.cores.map (fun c => { c with sample := none }) = s.cores.map fun c => { c with sample := none }
  packs : ∀ q, q ≠ p → t.pack q = s.pack q
  pack : (t.pack p).rest = (s.pack p).rest
  rows : ∀ j, j ≠ r → t.row p j = s.row p j
  row : t.row p r =
    { s.row p r with
      vq := (t.row p r).vq, strands := (t.row p r).strands, fp := (t.row p r).fp, history := (t.row p r).history,
      histSeq := (s.row p r).histSeq + 1 }
  modes : (t.row p r).fp = { (s.row p r).fp with flags := (t.row p r).fp.flags }

/-! ## Scalars read from the lanes -/

/-- Whether the lanes perform element `e` (R57). -/
def elemActive (l : List Strand) (wv vl : Nat) (gd : Guard) (e : Nat) : Bool :=
  decide (e < vl) && (gd.g == 0 || maskGet l wv gd.g e != gd.n)

/-- An integer reduction of R207 over elements as signed and as unsigned numbers. -/
def reduceOf (f : RedFn) (init : BitVec 64) (signed unsigned : List Int) : BitVec 64 :=
  match f with
  | .add => wrap64 (init.toInt + signed.sum)
  | .and => signed.foldl (fun a x => a &&& wrap64 x) init
  | .or => signed.foldl (fun a x => a ||| wrap64 x) init
  | .xor => signed.foldl (fun a x => a ^^^ wrap64 x) init
  | .max => wrap64 (signed.foldl max init.toInt)
  | .min => wrap64 (signed.foldl min init.toInt)
  | .maxu => wrap64 (unsigned.foldl max (init.toNat : Int))
  | .minu => wrap64 (unsigned.foldl min (init.toNat : Int))

/-- An instruction that waits for the lanes and writes an x register (R174): its guard, the groups it names, the types it is
defined for, its destination, the result and the flags it raises. -/
structure LaneScalarForm where
  gd : Guard
  legal : Prop
  groups : List (BitVec 6)
  fits : Prop
  xd : BitVec 5
  result : BitVec 64 × Flags

/-- An integer and a float reduction. -/
def redForm (s : State) (t : Agent) (c : VCtx) (w : Row) (f : RedFn) (gd : Guard) (xd : BitVec 5) (va : BitVec 6)
    (xb : BitVec 5) : Option LaneScalarForm :=
  let wv := c.wv w.width
  let l := ((List.range c.vl).filter fun e => elemActive w.strands wv c.vl gd e).map fun e => elemGet w.strands wv c.ew va e
  some ⟨gd, gd.wf, [va], True, xd, reduceOf f (s.xr t xb) (l.map fun a => asSigned c.ew a) (l.map Int.ofNat), 0⟩
def fredForm (s : State) (t : Agent) (c : VCtx) (w : Row) (f : FRedFn) (half : Bool) (gd : Guard) (xd : BitVec 5)
    (va : BitVec 6) (xb : BitVec 5) : Option LaneScalarForm :=
  let wv := c.wv w.width
  let fmt := if c.ew = 64 then fp64 else if c.ew = 32 then fp32 else if half then fp16 else bf16
  let l := (List.range c.vl).map fun e =>
    if elemActive w.strands wv c.vl gd e then some (elemGet w.strands wv c.ew va e) else none
  let v := floatReduce fmt f ((s.xr t xb).toNat % 2 ^ c.ew) l
  some ⟨gd, gd.wf, [va], c.ew ≠ 8 ∧ (half → c.ew = 16), xd, wrap64 v.1, v.2⟩

def State.laneScalarForm (s : State) (t : Agent) (c : VCtx) (w : Row) : Instr → Option LaneScalarForm
  | .mpop xd ma =>
    some ⟨noGuard, True, [], True, xd, wrap64 ((List.range c.vl).countP fun e => maskGet w.strands (c.wv w.width) ma e), 0⟩
  | .mffs xd ma =>
    some ⟨noGuard, True, [], True, xd,
      (((List.range c.vl).find? fun e => maskGet w.strands (c.wv w.width) ma e).map fun e => wrap64 e).getD (wrap64 (-1)), 0⟩
  | .mfls xd ma =>
    some ⟨noGuard, True, [], True, xd,
      (((List.range c.vl).reverse.find? fun e => maskGet w.strands (c.wv w.width) ma e).map fun e => wrap64 e).getD
        (wrap64 (-1)), 0⟩
  | .vext xd va xb =>
    some ⟨noGuard, True, [va], True, xd,
      if (s.xr t xb).toNat < c.vl then wrap64 (elemGet w.strands (c.wv w.width) c.ew va (s.xr t xb).toNat) else 0, 0⟩
  | .vredAdd gd xd va xb => redForm s t c w .add gd xd va xb
  | .vredAnd gd xd va xb => redForm s t c w .and gd xd va xb
  | .vredOr gd xd va xb => redForm s t c w .or gd xd va xb
  | .vredXor gd xd va xb => redForm s t c w .xor gd xd va xb
  | .vredMax gd xd va xb => redForm s t c w .max gd xd va xb
  | .vredMin gd xd va xb => redForm s t c w .min gd xd va xb
  | .vredMaxu gd xd va xb => redForm s t c w .maxu gd xd va xb
  | .vredMinu gd xd va xb => redForm s t c w .minu gd xd va xb
  | .vredoFadd gd h xd va xb => fredForm s t c w .ordered h gd xd va xb
  | .vredtFadd gd h xd va xb => fredForm s t c w .tree h gd xd va xb
  | .vredFmax gd h xd va xb => fredForm s t c w .max h gd xd va xb
  | .vredFmin gd h xd va xb => fredForm s t c w .min h gd xd va xb
  | _ => none

/-- Whether the control thread holds the queue entry of an instruction that waits for the lanes (R170, R172, R174). -/
def Row.holdsEntry (w : Row) : Prop := ∃ y ∈ w.vq, y.op = .slot

/-- Whether an earlier instruction of the queue has still to execute, or strands hold the lanes (R174, R191). -/
def Row.behind (w : Row) : Prop := (∃ y ∈ w.vq, y.op ≠ .slot) ∨ w.lanesFree = false

/-- The cycle at which the instruction that the control thread executes took its entry, else the present one (R461). -/
def State.takenAt (s : State) (p r : Nat) : Nat :=
  match (s.row p r).vq.find? fun y => decide (y.op = .slot) with
  | some y => y.cycle
  | none => s.cycle

/-- The record of the row's history for an instruction the thread waited for (R461), issued at a cycle, and the event it counts
as (R463). -/
def State.withRecord (s : State) (p r : Nat) (c : VCtx) (gd : Guard) (cycle : Nat) : State :=
  s.syncDone p r (c.retired (s.row p r) gd s.fetch.pc cycle false none)

/-- Until the lanes have caught up, an instruction that reads them waits with a queue entry (R170, R172, R174): a full queue lets
nothing happen; else it has taken an entry, or keeps the one it has, and the thread stays where it is. `u` is the state with what
the instruction does before it waits. -/
def State.WaitsForLanes (s u : State) (p r : Nat) (i : Instr) (gd : Guard) : Prop :=
  let a := Agent.control p r
  let w := s.row p r
  (64 ≤ w.vq.length → ¬ w.holdsEntry → exec i s = .next u) ∧
  (w.behind → w.vq.length < 64 ∨ w.holdsEntry →
    ∃ t, exec i s = .next t ∧ (t.thread a).waiting = some (.slot, s.fetch) ∧ (t.thread a).pc = (s.thread a).pc ∧
      (w.holdsEntry → Frame u t a []) ∧
      (¬ w.holdsEntry →
        (t.row p r).vq = w.vq ++ [s.entryOf p r .slot gd] ∧
        Frame (u.modRow p r fun w => { w with vq := w.vq ++ [s.entryOf p r .slot gd] }) t a []))

end Sys2Proof.Machine
end

