-- ==== Sys2Proof/Safety/VecMem.lean ====
section
/-! DEFINITION. What the spec says of the vector memory forms (R192, R193, R209–R217): by instruction the elements' addresses and
the work queued, and what that work reads and writes; written for claims and not used by the machine. -/
namespace Sys2Proof.Machine

/-! ## Issue -/

/-- A memory form that performs its elements in order from VSTART (R192, R209): its guard and reserved fields, its group, whether
it stores, whether a fault above VSTART trims VL instead (R212), its further check, the address of an element, and the work
for the elements that pass. -/
structure VMemForm where
  gd : Guard
  legal : Prop
  vd : BitVec 6
  kind : AccessKind
  trims : Bool
  fits : Prop
  addr : Nat → BitVec 64
  op : List ElemAcc → VOp

/-- The addresses of R209: unit stride, and a stride in bytes. -/
def unitStride (base : BitVec 64) (imm : Int) (ew e : Nat) : BitVec 64 := wrap64 (base.toNat + imm + e * (ew / 8))
def byteStride (base stride : BitVec 64) (e : Nat) : BitVec 64 := wrap64 (base.toNat + e * stride.toNat)

def State.vmemForm (s : State) (t : Agent) (c : VCtx) : Instr → Option VMemForm
  | .vld vd xa imm =>
    some ⟨noGuard, True, vd, .read, false, True, unitStride (s.xr t xa) imm.toInt c.ew, .load .plain vd⟩
  | .vldff vd xa imm =>
    some ⟨noGuard, True, vd, .read, true, True, unitStride (s.xr t xa) imm.toInt c.ew, .load .plain vd⟩
  | .vldv vd xa imm =>
    some ⟨noGuard, True, vd, .read, false, True, unitStride (s.xr t xa) imm.toInt c.ew, .load (.snapshot (s.snapFor t)) vd⟩
  | .vlds gd vd xa xb =>
    some ⟨gd, gd.wf, vd, .read, false, True, byteStride (s.xr t xa) (s.xr t xb), .load .plain vd⟩
  | .vst gd vd xa => some ⟨gd, gd.wf, vd, .write, false, True, unitStride (s.xr t xa) 0 c.ew, .store .plain vd⟩
  | .vsts gd vd xa xb =>
    some ⟨gd, gd.wf, vd, .write, false, True, byteStride (s.xr t xa) (s.xr t xb), .store .plain vd⟩
  | .vstmc gd vd xa => some ⟨gd, gd.wf, vd, .write, false, True, unitStride (s.xr t xa) 0 c.ew, .store .multicast vd⟩
  | .vstrc gd vd xa xb =>
    some ⟨gd, gd.wf, vd, .write, false, 1 ≤ (s.xr t xb).toNat ∧ (s.xr t xb).toNat ≤ 255, unitStride (s.xr t xa) 0 c.ew,
      .store (.readerCount (BitVec.ofNat 8 (s.xr t xb).toNat)) vd⟩
  | _ => none

/-- The scratchpad forms of R214, in core-view addresses. -/
structure VSpForm where
  gd : Guard
  legal : Prop
  vd : BitVec 6
  addr : Nat → BitVec 64
  op : List SpAcc → VOp

def State.vspForm (s : State) (t : Agent) (c : VCtx) : Instr → Option VSpForm
  | .vldsp vd xa imm => some ⟨noGuard, True, vd, unitStride (s.xr t xa) imm.toInt c.ew, .loadSp vd⟩
  | .vstsp gd vd xa => some ⟨gd, gd.wf, vd, unitStride (s.xr t xa) 0 c.ew, .storeSp vd⟩
  | _ => none

/-- The indexed forms (R193, R209, R215): base and index register, and the work for memory or for lane slices. -/
structure VIndexForm where
  gd : Guard
  vd : BitVec 6
  base : BitVec 64
  vb : BitVec 6
  kind : AccessKind
  op : List ElemAcc → VOp

def State.vindexForm (s : State) (t : Agent) : Instr → Option VIndexForm
  | .vldx gd vd xa vb => some ⟨gd, vd, s.xr t xa, vb, .read, fun l => .loadX .plain vd l false⟩
  | .vldxv gd vd xa vb => some ⟨gd, vd, s.xr t xa, vb, .read, fun l => .loadX (.snapshot (s.snapFor t)) vd l false⟩
  | .vstx gd vd xa vb => some ⟨gd, vd, s.xr t xa, vb, .write, fun l => .storeX vd l false⟩
  | _ => none

structure VLaneForm where
  gd : Guard
  vd : BitVec 6
  base : BitVec 64
  vb : BitVec 6
  op : List SpAcc → VOp

def State.vlaneForm (s : State) (t : Agent) : Instr → Option VLaneForm
  | .vldl gd vd xa vb => some ⟨gd, vd, s.xr t xa, vb, fun l => .loadLane vd l false⟩
  | .vstl gd vd xa vb => some ⟨gd, vd, s.xr t xa, vb, fun l => .storeLane vd l false⟩
  | _ => none

/-- The elements an in-order form and an indexed form perform (R57, R192, R193). -/
def inOrderElems (w : Row) (c : VCtx) (gd : Guard) : List Nat :=
  (List.range c.vl).filter fun e =>
    decide (c.vstart ≤ e) && (gd.g == 0 || maskGet w.strands (c.wv w.width) gd.g e != gd.n)
def indexedElems (w : Row) (c : VCtx) (gd : Guard) : List Nat :=
  (List.range c.vl).filter fun e =>
    !mdGet w.strands (c.wv w.width) e && (gd.g == 0 || maskGet w.strands (c.wv w.width) gd.g e != gd.n)

/-- The place of a lane-slice element (R109, R164, R215): side, and offset of byte `l` of its lane's slice. -/
def sliceAt (grant wv e : Nat) (l : BitVec 64) : Bool × Nat :=
  let k := e % wv
  (decide (grant ≤ k), l.toNat / 64 * 2048 + (if k < grant then k else k - grant) % 32 * 64 + l.toNat % 64)

/-- A work without the data that its elements have read so far (R171). -/
def VOp.unread : VOp → VOp
  | .load k vd acc => .load k vd (acc.map fun x => { x with landed := none, bad := false })
  | .loadX k vd acc st => .loadX k vd (acc.map fun x => { x with landed := none, bad := false }) st
  | .loadSp vd acc => .loadSp vd (acc.map fun x => { x with landed := none, bad := false })
  | .loadLane vd acc st => .loadLane vd (acc.map fun x => { x with landed := none, bad := false }) st
  | .storeSp vs acc => .storeSp vs (acc.map fun x => { x with landed := none, bad := false })
  | .storeLane vs acc st => .storeLane vs (acc.map fun x => { x with landed := none, bad := false }) st
  | op => op

/-! ## Execution -/

/-- Nothing delayed, counted or damaged: no scalar write pending in an L1 and no poisoned word there, no reader count, no poison, no
failed channel, no mailbox doorbell set. -/
structure Calm (s : State) : Prop where
  l1 : ∀ c ∈ s.cores, c.l1 = []
  l1Bad : ∀ c ∈ s.cores, c.l1Bad = []
  counted : s.counted = []
  poison : s.poison = []
  channels : s.failedChannels = []
  mailbox : ∀ pa n, s.mailboxBusy pa n = false

/-- The element data of a load that executes on unversioned local memory or scratchpad: what was read before, or what is there
now (R171); with the group, and for an indexed form whether it stopped. -/
def VOp.fetched (op : VOp) (s : State) (p w : Nat) : Option (BitVec 6 × List (Nat × BitVec 64) × Option Bool) :=
  let mem := fun (x : ElemAcc) => (x.e, x.landed.getD (leWord (memBytes s.mem x.xl.pa w)))
  let sp := fun (x : SpAcc) => (x.e, x.landed.getD (leWord (memBytes (s.side p x.follower).sp x.off w)))
  match op with
  | .load .plain vd acc => some (vd, acc.map mem, none)
  | .loadX .plain vd acc st => some (vd, acc.map mem, some st)
  | .loadSp vd acc => some (vd, acc.map sp, none)
  | .loadLane vd acc st => some (vd, acc.map sp, some st)
  | _ => none

/-- What a load that executes asks of its elements: in local memory outside versioned pages, aligned, sound. -/
def VOp.plainElems (op : VOp) (s : State) (p w : Nat) : Prop :=
  let mem := fun (x : ElemAcc) => x.xl.tdev = 0 ∧ x.xl.vers = false ∧ x.xl.pa % w = 0 ∧ x.bad = false
  let sp := fun (x : SpAcc) => x.bad = false ∧ (s.side p x.follower).bad x.off w = false
  match op with
  | .load _ _ acc => ∀ x ∈ acc, mem x
  | .loadX _ _ acc _ => ∀ x ∈ acc, mem x
  | .loadSp _ acc => ∀ x ∈ acc, sp x
  | .loadLane _ acc _ => ∀ x ∈ acc, sp x
  | .store _ _ acc => ∀ x ∈ acc, mem x
  | .storeX _ acc _ => ∀ x ∈ acc, mem x
  | .storeSp _ acc => ∀ x ∈ acc, sp x
  | .storeLane _ acc _ => ∀ x ∈ acc, sp x
  | _ => True

/-- The stores of an entry that executes: to memory (every copy of a replicated page for vstmc, R216), and to a side of the
scratchpad, in ascending element order; for an indexed form its elements and whether it stopped. -/
structure Stores where
  mem : List (Nat × List (BitVec 8)) := []
  lead : List (Nat × List (BitVec 8)) := []
  foll : List (Nat × List (BitVec 8)) := []
  marks : Option (List Nat × Bool) := none

def VOp.stored (op : VOp) (l : List Strand) (c : VCtx) (wv die : Nat) : Option Stores :=
  let bytes := fun (vd : BitVec 6) (e : Nat) => leBytes (c.ew / 8) (elemGet l wv c.ew vd e)
  let mem := fun (vd : BitVec 6) (acc : List ElemAcc) => acc.map fun x => (x.xl.pa, bytes vd x.e)
  let side := fun (f : Bool) (vd : BitVec 6) (acc : List SpAcc) =>
    (acc.filter fun x => x.follower == f).map fun x => (x.off, bytes vd x.e)
  match op with
  | .store .multicast vd acc =>
    some { mem := acc.flatMap fun x =>
      if x.xl.repl then (List.range 4).map fun i => (x.xl.pa - nearestCopy die * 4096 + i * 4096, bytes vd x.e)
      else [(x.xl.pa, bytes vd x.e)] }
  | .store _ vd acc => some { mem := mem vd acc }
  | .storeX vd acc st => some { mem := mem vd acc, marks := some (acc.map fun x => x.e, st) }
  | .storeSp vd acc => some { lead := side false vd acc, foll := side true vd acc }
  | .storeLane vd acc st =>
    some { lead := side false vd acc, foll := side true vd acc, marks := some (acc.map fun x => x.e, st) }
  | _ => none

/-- A byte under a list of stores made in order. -/
def overlay (l : List (Nat × List (BitVec 8))) (x : Nat) (old : BitVec 8) : BitVec 8 :=
  l.foldl (fun b y => if y.1 ≤ x ∧ x < y.1 + y.2.length then y.2.getD (x - y.1) 0 else b) old

/-- The md bits after an indexed form (R193): set for the elements a stopped form performed, all clear when it completes. -/
def marked (l t : List Strand) (wv : Nat) : Option (List Nat × Bool) → Prop
  | none => ∀ k, (t.getD k Strand.idle).md = (l.getD k Strand.idle).md
  | some (es, true) => ∀ e, e < 64 * wv → mdGet t wv e = (decide (e ∈ es) || mdGet l wv e)
  | some (_, false) => ∀ k, (t.getD k Strand.idle).md = if k < wv then 0 else (l.getD k Strand.idle).md

end Sys2Proof.Machine
end

