-- ==== Sys2Proof/Safety/Matrix.lean ====
section
/-! DEFINITION. What the spec says of the matrix array and the accumulator store (R227–R229, R248–R267): the operands and checks
of an instruction at issue, and what each leaves in tiles, registers and scratchpad when it executes; written for claims and
not used by the machine. -/
namespace Sys2Proof.Machine

/-! ## Issue -/

/-- A matrix or accumulator instruction with a scratchpad operand (R248): its tile, the operand's address and bytes, whether both
cores take part (R258, R266), the trap of the checks listed first, and its work at the operand's places. -/
structure MatForm where
  z : BitVec 4
  addr : BitVec 64
  bytes : Nat
  both : Bool
  early : Option (BitVec 8 × BitVec 64)
  op : List SpPlace → VOp

/-- Checks 1–6 of R253, in order. -/
def State.mmaEarly (s : State) (p r : Nat) (va : BitVec 6) (ta tb : BitVec 3) (keep brace clear : Bool) :
    Option (BitVec 8 × BitVec 64) :=
  let n := if ta.toNat < 2 then 16 else 8
  let w := (s.row p r).width
  if r ≠ 0 ∨ w.req ≠ 64 ∨ (brace = true ∧ w.braced = false) ∨ 63 < va.toNat + n - 1 ∨
      ((s.latchKey p r).any fun l => decide (l ≠ (va, matType ta, brace))) = true then some (0x01, s.fetch.raw)
  else if (ta.toNat, tb.toNat) ∈ [(0, 0), (1, 1), (2, 2), (2, 3), (3, 2), (3, 3), (4, 4), (5, 5)] then none
  else some (0x09, BitVec.ofNat 64
    (ta.toNat + 8 * tb.toNat + (if keep then 64 else 0) + (if brace then 128 else 0) + (if clear then 256 else 0)))

/-- Bytes of an element of a matrix type (R252), and of a conversion's target (R267), by code. -/
def matSize (c : Nat) : Nat := if c < 2 then 2 else 1
def cvtSize (c : Nat) : Nat := if c < 2 then 2 else if c = 6 then 4 else 1

def State.matForm (s : State) (a : Agent) (i : Instr) : Option MatForm :=
  let (p, r) := a.pr
  let w := s.row p r
  let both := w.width.braced && w.vtype.bs
  let tile := fun (size : Nat) (x : SpPlace) =>
    ({ place := x, size := size, rows := List.replicate 64 none, bad := none } : SpTile)
  match i with
  | .mma zd va xb ta tb keep brace clear =>
    if ta.toNat ≤ 5 ∧ tb.toNat ≤ 5 then
      some { z := zd, addr := s.xr a xb, bytes := 4096 * matSize tb.toNat, both := brace,
             early := s.mmaEarly p r va ta tb keep brace clear,
             op := fun l => .mma zd va (l.map (tile (64 * matSize tb.toNat))) (matType ta) (matType tb) keep brace clear }
    else none
  | .zld zd xa =>
    some { z := zd, addr := s.xr a xa, bytes := 16384, both := both, early := none, op := fun l => .zld zd (l.map (tile 256)) }
  | .zst zd xa => some { z := zd, addr := s.xr a xa, bytes := 16384, both := both, early := none, op := fun l => .zst zd l }
  | .zcvt zd xa m t =>
    some { z := zd, addr := s.xr a xa, bytes := 4096 * cvtSize t.toNat, both := both,
           early := if 2 < m.toNat ∨ 6 < t.toNat then some (0x01, s.fetch.raw) else none,
           op := fun l => .zcvt zd l m t }
  | _ => none

/-- The forms without one: the tile, whether an operand field is out of range (R263), the work. -/
def tileForm : Instr → Option (BitVec 4 × Bool × VOp)
  | .zclr zd => some (zd, false, .zclr zd)
  | .zrd vd za q => some (za, decide (4 < q.toNat ∨ 56 < vd.toNat), .zrd vd za q)
  | .zwr zd va q => some (zd, decide (4 < q.toNat ∨ 56 < va.toNat), .zwr zd va q)
  | _ => none

/-! ## Execution -/

/-- What an instruction does when it executes: its tile, the new words and SAT flag by side, the bytes stored by side and offset,
the registers by strand. -/
structure TileEffect where
  z : Nat
  word : Bool → Nat → Nat → Option (BitVec 32) := fun _ _ _ => none
  sat : Bool → Option Bool := fun _ => none
  out : Bool → Nat → Option (BitVec 8) := fun _ _ => none
  reg : Nat → BitVec 6 → Option (BitVec 64) := fun _ _ => none

/-- The places of an operand: one, or the same offset on both cores (R258, R266). -/
def placesOk (l : List SpPlace) : Prop := (∃ x, l = [x]) ∨ ∃ o, l = [⟨false, o⟩, ⟨true, o⟩]

/-- Row `k` of an operand tile: what was read of it before, or what stands there now (R249). -/
def State.tileRow (s : State) (p : Nat) (t : SpTile) (k : Nat) : List (BitVec 8) :=
  (t.rows.getD k none).getD (memBytes (s.side p t.place.follower).sp (t.place.off + k * t.size) t.size)

/-- Word `m` of row `i` of A: latched, or register vA + m of strand i (R254, R257). -/
def State.aWord (s : State) (p r : Nat) (va : BitVec 6) (i m : Nat) : BitVec 64 :=
  match (s.pack p).latch with
  | some l => (l.rows.getD i []).getD m 0
  | none => ((s.row p r).strands.getD i Strand.idle).greg (va + BitVec.ofNat 6 m)

/-- Bytes of an element of a type, and an element at a byte offset of a little-endian string (R254, R31). -/
def MatType.width (t : MatType) : Nat := if t = .bf16 ∨ t = .fp16 then 2 else 1
def elemOf (t : MatType) (bytes : List (BitVec 8)) (off : Nat) : Nat :=
  let v := leNat ((bytes.drop off).take t.width)
  if t = .log6 then v % 64 else v

/-- a[i][k] and b[k][j] (R254). -/
def State.aAt (s : State) (p r : Nat) (va : BitVec 6) (t : MatType) (i k : Nat) : Nat :=
  elemOf t (leBytes 8 (s.aWord p r va i (k / (8 / t.width))).toNat) (t.width * (k % (8 / t.width)))
def State.bAt (s : State) (p : Nat) (x : SpTile) (t : MatType) (k j : Nat) : Nat := elemOf t (s.tileRow p x k) (t.width * j)

/-- The update of word (i, j) of a side's tile by the products of the present `ks`, and whether it saturates (R255). -/
def State.mmaWord (s : State) (p r z : Nat) (f : Bool) (va : BitVec 6) (ta tb : MatType) (clear : Bool) (ks : List Nat)
    (b : Nat → Nat → Nat) (i j : Nat) : BitVec 32 × Bool :=
  accUpdate ta tb (if clear then 0 else (s.side p f).accGet z i j) (ks.map fun k => (k, s.aAt p r va ta i k, b k j))

/-- Whether an update of any word of the rows below the grant saturates. -/
def anySat (grant : Nat) (w : Nat → Nat → BitVec 32 × Bool) : Bool :=
  (List.range grant).any fun i => (List.range 64).any fun j => (w i j).2

/-- Byte `o` of a side's scratchpad under a store of a tile in elements of `size` bytes at a place (R227). -/
def tileOut (l : List SpPlace) (f : Bool) (o size : Nat) (v : Bool → Nat → Nat → Nat) : Option (BitVec 8) :=
  match (l.zip [false, true]).find? fun x => decide (x.1.follower = f ∧ x.1.off ≤ o ∧ o < x.1.off + 4096 * size) with
  | some (x, side) =>
    let e := (o - x.off) / size
    some ((leBytes size (v side (e / 64) (e % 64))).getD ((o - x.off) % size) 0)
  | none => none

/-- What an entry of the queue does to tiles, registers and scratchpad (R255, R256, R264–R267). -/
def VOp.onTiles (op : VOp) (s : State) (p r : Nat) (c : VCtx) : Option TileEffect :=
  let w := s.row p r
  let g := w.width.grant.toNat
  let acts := fun (f : Bool) => !f || (c.bs && w.width.braced)
  let strand := fun (f : Bool) (i : Nat) => w.strands.getD (if f then g + i else i) Strand.idle
  match op with
  | .mma zd va b ta tb _ _ clear =>
    let new := fun (f : Bool) (x : SpTile) => s.mmaWord p r zd.toNat f va ta tb clear (List.range 64) (s.bAt p x tb)
    let tile := fun (f : Bool) => b[if f then 1 else 0]?
    some { z := zd.toNat,
           word := fun f i j => (tile f).bind fun x => if i < g then some (new f x i j).1 else none,
           sat := fun f => (tile f).map fun x =>
             (!clear && (s.side p f).sat.getLsbD zd.toNat) || anySat g (new f x) }
  | .zclr zd =>
    some { z := zd.toNat, word := fun f _ _ => if acts f then some 0 else none,
           sat := fun f => if acts f then some false else none }
  | .zld zd b =>
    some { z := zd.toNat, word := fun f i j => (b[if f then 1 else 0]?).map fun x =>
             BitVec.ofNat 32 (leNat (((s.tileRow p x i).drop (4 * j)).take 4)) }
  | .zst zd l =>
    some { z := zd.toNat, out := fun f o => tileOut l f o 4 fun side i j => ((s.side p side).accGet zd.toNat i j).toNat }
  | .zcvt zd l m t =>
    some { z := zd.toNat, out := fun f o => tileOut l f o (cvtSize t.toNat) fun side i j =>
             zcvtWord m.toNat t.toNat ((s.side p side).accGet zd.toNat i j) }
  | .zrd vd za q =>
    if 4 < q.toNat ∨ 56 < vd.toNat then none
    else
      let reg := fun (k : Nat) (n : BitVec 6) =>
        let f := decide (g ≤ k)
        let i := if g ≤ k then k - g else k
        let m := n.toNat - vd.toNat
        let d := s.side p f
        if acts f = false ∨ g ≤ i ∨ n = 0 ∨ n < vd then none
        else if q = 4 then (if m = 0 then some (if d.sat.getLsbD za.toNat then 1 else 0) else none)
        else if m < 8 then
          some (d.accGet za.toNat i (16 * q.toNat + 2 * m + 1) ++ d.accGet za.toNat i (16 * q.toNat + 2 * m))
        else none
      some { z := za.toNat, reg := reg }
  | .zwr zd va q =>
    if 4 < q.toNat ∨ 56 < va.toNat then none
    else if q = 4 then
      some { z := zd.toNat, sat := fun f => if acts f then some (((strand f 0).greg va).getLsbD 0) else none }
    else
      some { z := zd.toNat, word := fun f i j =>
        if acts f ∧ i < g ∧ j / 16 = q.toNat then
          some (((strand f i).greg (va + BitVec.ofNat 6 (j % 16 / 2)) >>> (32 * (j % 2))).setWidth 32)
        else none }
  | _ => none

/-- The operand of an entry is sound: its places, its rows by the 64, and no poison in it or in its pack (R251). -/
def VOp.operandOk (op : VOp) (s : State) (p : Nat) : Prop :=
  (∀ f, (s.side p f).accPoison = [] ∧ (s.side p f).spPoison = [] ∧ (s.side p f).sp.wf = true) ∧
  match op with
  | .mma _ _ b _ tb _ _ _ =>
    placesOk (b.map fun x => x.place) ∧ ∀ x ∈ b, x.rows.length = 64 ∧ x.size = 64 * tb.width ∧ x.bad = none
  | .zld _ b => placesOk (b.map fun x => x.place) ∧ ∀ x ∈ b, x.rows.length = 64 ∧ x.size = 256 ∧ x.bad = none
  | .zst _ l => placesOk l
  | .zcvt _ l _ _ => placesOk l
  | _ => True

/-- Nothing has changed but the row's queue, strands and history, its pack's sides and latch, and a pending sample. -/
structure Tiled (s t : State) (p r : Nat) : Prop where
  rest : { t with packs := [], cores := [] } = { s with packs := [], cores := [] }
  cores : t.cores.map (fun c => { c with sample := none }) = s.cores.map fun c => { c with sample := none }
  packs : ∀ q, q ≠ p → t.pack q = s.pack q
  pack : { (t.pack p).rest with lead := Side.empty, foll := Side.empty, latch := none } =
    { (s.pack p).rest with lead := Side.empty, foll := Side.empty, latch := none }
  rows : ∀ j, j ≠ r → t.row p j = s.row p j
  row : t.row p r =
    { s.row p r with
      vq := (t.row p r).vq, strands := (t.row p r).strands, history := (t.row p r).history,
      histSeq := (s.row p r).histSeq + 1 }

/-- The latch an instruction leaves (R257): with `keep` it holds A, by its rows below the grant; else none. -/
def latched (s t : State) (p r : Nat) (va : BitVec 6) (ta : MatType) (keep brace : Bool) : Prop :=
  match (t.pack p).latch with
  | none => keep = false
  | some l => keep = true ∧ l.va = va ∧ l.ta = ta ∧ l.brace = brace ∧
      ∀ i m, i < (s.row p r).width.grant.toNat → m < 8 * ta.width → (l.rows.getD i []).getD m 0 = s.aWord p r va i m

end Sys2Proof.Machine
end

