-- ==== Sys2Proof/Safety/Versions.lean ====
section
/-! DEFINITION. What the spec says of snapshots, transactions and ordered-speculative packs (R422–R440): the room of the
snapshot table, the outcome of a commit, the discard of a pack; written for claims and not used by the machine. -/
namespace Sys2Proof.Machine

/-- Room in the snapshot table and in a partition's share of it (R426). -/
def State.snapshotRoom (s : State) (part : Nat) : Prop :=
  s.snapshots.length < 4096 ∧
  (s.snapshots.filter fun e => e.part == part).length < ((s.partOf part).map fun q => q.snapShare).getD 4096

/-- Whether a row has a vector load still to read, a vector store still to write, or a post still to add (R434, R435). -/
def Row.hasPending (w : Row) : Prop :=
  (∃ y ∈ w.vq, y.op.loadsPending = true ∨ y.op.storesPending = true) ∨ w.posts ≠ []

/-- The versions of a line, newest first, with their commit times (R422), and the bytes of the one current at a time (R134). -/
def State.lineHistory (s : State) (line : Nat) : List (Nat × List (BitVec 8)) :=
  ((s.vline line).ts, s.lineBytes line) :: (s.vline line).chain.map fun v => (v.ts, v.bytes)
def State.currentBytes (s : State) (line time : Nat) : Option (List (BitVec 8)) :=
  ((s.lineHistory line).find? fun v => decide (v.1 ≤ time)).map fun v => v.2

/-- `n` bytes of local memory as a load of a line's head finds them: at the home on an NC page or of a counted line, else in the L1 as the
thread sees it (R131, R132, R182, R415). -/
def State.headBytes (s : State) (a : Agent) (xl : Xlate) (n : Nat) : List (BitVec 8) :=
  if s.atHome xl then memBytes (s.reachHome a xl.pa n).mem xl.pa n else s.seenBytes a xl.pa n

/-- A line's bytes under a tentative line: those it wrote, over the head (R434). -/
def TentLine.merged (x : TentLine) (base : List (BitVec 8)) (i : Nat) : BitVec 8 :=
  if x.mask.getLsbD i then x.bytes.getD i 0 else base.getD i 0

/-- Byte `j` of a line as a transaction sees it: what it wrote there, else the byte at its start (R431). -/
def Tx.byte (t : Tx) (line : Nat) (start : List (BitVec 8)) (j : Nat) : BitVec 8 :=
  match t.lines.find? fun x => x.line == line with
  | some x => x.merged start j
  | none => start.getD j 0

/-- The status of a commit (R434): the doom, 0 for no line, 1 for a line with a newer head, 3 for want of room once the
unreachable versions have gone. -/
def State.commitStatus (s : State) (start : Nat) (tx : Tx) : Nat :=
  match tx.doomed with
  | some d => d.toNat
  | none =>
    let u := tx.lines.foldl (fun (u : State) x => u.reclaim x.line) s
    if tx.lines = [] then 0
    else if ∃ x ∈ tx.lines, start < (s.vline x.line).ts then 1
    else if (∃ x ∈ tx.lines, 15 ≤ (u.vline x.line).chain.length) ∨
        Config.versionRecords s.storeShare < u.storeUsed + tx.lines.length then 3
    else 0

/-- Whether a commit installs its lines (R434). -/
def State.installs (s : State) (start : Nat) (tx : Tx) : Prop := tx.doomed = none ∧ s.commitStatus start tx = 0

/-- A commit from `s` to `t` (R424, R434): where it installs its lines, every one takes the next timestamp and the merged value,
its old head joining its chain; otherwise no value and no timestamp changes. -/
structure Committed (s t : State) (start : Nat) (tx : Tx) : Prop where
  clock : s.installs start tx → tx.lines ≠ [] → t.cc = s.cc + 1
  still : ¬ s.installs start tx ∨ tx.lines = [] → t.cc = s.cc
  none : ¬ s.installs start tx → ∀ l, (t.vline l).ts = (s.vline l).ts
  others : ∀ l, (∀ x ∈ tx.lines, x.line ≠ l) → t.vline l = s.vline l
  heads : s.installs start tx → ∀ x ∈ tx.lines,
    t.vline x.line =
      { ts := s.cc + 1,
        chain := { ts := (s.vline x.line).ts, bytes := s.lineBytes x.line, poisoned := s.linePoisoned x.line } ::
          ((s.reclaim x.line).vline x.line).chain }

/-- Byte `a` of memory after a commit (R434). -/
def State.committedByte (s : State) (start : Nat) (tx : Tx) (a : Nat) : BitVec 8 :=
  if tx.doomed ≠ none ∨ s.commitStatus start tx ≠ 0 then memRead s.mem a
  else
    match tx.lines.find? fun x => x.line == a / 64 with
    | some x => x.merged (s.lineBytes x.line) (a % 64)
    | none => memRead s.mem a

/-- A speculative pack has been discarded (R440): nothing of it is kept but its rows' arrivals at the litter's barriers, which count
(R360, R361), and the posts they have issued (R271); it waits to be placed again in the mode given. -/
structure Discarded (s t : State) (p : Nat) (o : Ospec) (serial waitLower : Bool) : Prop where
  life : (t.pack p).life = .waiting
  rows : (t.pack p).rows.length = (s.pack p).rows.length ∧ ∀ r, r < (s.pack p).rows.length →
    t.row p r = { Row.none with ap := (t.row p r).ap, posts := (t.row p r).posts } ∧
      (∀ b, b < 8 → (t.row p r).ap.getD b 0 = 0) ∧ (t.row p r).ap.drop 8 = (s.row p r).ap.drop 8 ∧
      (t.row p r).posts = (s.row p r).posts.map fun x => { x with seq := 0 }
  sides : (t.pack p).lead = Side.empty ∧ (t.pack p).foll = Side.empty
  rings : ∀ n, (t.pack p).rings.getD n none = none
  mode : (t.pack p).ospec = some { o with serial := serial, waitLower := waitLower, tx := { lines := [], doomed := none } }
  others : ∀ q, q ≠ p → t.pack q = s.pack q
  launches : ∀ i, { t.launch i with litterCp := [] } = { s.launch i with litterCp := [] }
  phases : s.litterOf p ≠ none → (s.pack p).launch < s.launches.length → ∀ b, 8 ≤ b → b < 16 →
    let here := fun (w : Row) =>
      decide (s.cpOf p b < w.ap.getD b 0 - if w.barArr.any fun y => y.n == b then 1 else 0)
    t.cpOf p b =
      if (∀ q ∈ t.litterPacks p, ∀ w ∈ (t.pack q).rows, w.life = .ended ∨ here w = true) ∧
         (∃ q ∈ t.litterPacks p, ∃ w ∈ (t.pack q).rows, w.life = .live ∧ here w = true)
      then s.cpOf p b + 1 else s.cpOf p b

end Sys2Proof.Machine
end

