-- ==== Sys2Proof/Safety/Copy.lean ====
section
/-! DEFINITION. What the spec says of copy transfers (R230–R237) and of the collective reduction (R488–R491): the checks of a
read of CPGO, the elements of a plain transfer, the combination of a strip; written for claims and not used by the machine. -/
namespace Sys2Proof.Machine

/-! ## Copy transfers -/

/-- Check 1 of R233: `rings` is the pack's ring count, `litter` its launch's litter size. -/
def CopyRegs.illegal (c : CopyRegs) (rings litter : Nat) : Prop :=
  let dir := c.dir.toNat
  c.rows = 0 ∨ c.cols = 0 ∨ 6 ≤ dir ∨ (c.mfmt ≠ 0 ∧ dir ∈ [2, 3, 5]) ∨
  (c.mfmt = 2 ∧ (c.rows.toNat % 4 ≠ 0 ∨ c.cols.toNat % 4 ≠ 0)) ∨ (c.mfmt = 3 ∧ c.esize ≠ 0) ∨
  (c.rc ≠ 0 ∧ dir ∉ [1, 2]) ∨ (c.arr = true ∧ rings ≤ c.aring.toNat) ∨ (dir ∈ [4, 5] ∧ litter < 2)

/-- The transfers of a core in flight (R234). -/
def State.flying (s : State) (core : Nat) : Nat :=
  (s.copies.filter fun t => decide (t.core = core ∧ t.life ≠ .done ∧ t.life ≠ .saved)).length

/-- Bytes of an element; where element `u` of a row-major side lies from an address and a row stride (R232). -/
def CopyRegs.bytes (c : CopyRegs) : Nat := 2 ^ c.esize.toNat
def CopyRegs.at_ (c : CopyRegs) (a : BitVec 64) (stride u : Nat) : BitVec 64 :=
  a + BitVec.ofNat 64 (u / c.cols.toNat * stride + u % c.cols.toNat * c.bytes)

/-- The address of source element `u`, and the offset of destination element `u` in the allocation. -/
def Transfer.from_ (t : Transfer) (u : Nat) : BitVec 64 := t.regs.at_ t.regs.src t.regs.sstride.toNat u
def State.into (s : State) (t : Transfer) (u : Nat) : Nat :=
  (t.regs.at_ t.regs.dst t.regs.dstride.toNat u).toNat - (s.pack t.pack).base.toNat

/-- What a transfer's gate holds as the engine reads it, and the state then (R234, R235, R344): none without a gate, or where the gate's
window is gone. -/
def State.gateLook (s : State) (t : Transfer) : Option (BitVec 64) × State :=
  match t.gate with
  | none => (none, s)
  | some xl =>
    if xl.tdev ≠ 0 ∧ s.hasSession (s.pack t.pack).part xl.tdev = false then (none, s)
    else if xl.tdev ≠ 0 then (some (Config.freeWord s.nonce 201), s)
    else
      let b := s.view (.control t.pack t.row) xl 8
      (some (leWord b.1), b.2)

/-- A transfer of row-major elements from unversioned local memory to its pack's own sound scratchpad, whose elements left all
pass their checks, with their translations (`xl`) already marked, and do not overlap in the destination. -/
structure PlainCopy (s : State) (t : Transfer) (xl : Nat → Xlate) : Prop where
  form : t.regs.dir = 0 ∧ t.regs.mfmt = 0 ∧ t.regs.cols ≠ 0 ∧ copyRing t.regs.dst = none ∧ t.base = (s.pack t.pack).base
  once : t.left.Nodup
  place : t.pack < s.packs.length
  sound : (s.side t.pack false).sp.wf = true ∧ (s.side t.pack false).spPoison = []
  source : ∀ u ∈ t.left, (t.from_ u).toNat % t.regs.bytes = 0 ∧ canonical (t.from_ u) = true ∧
    s.copyXlate t (t.from_ u) .read = .ok (xl u, s) ∧ (xl u).tdev = 0 ∧ (xl u).vers = false
  dest : ∀ u ∈ t.left,
    let a := (t.regs.at_ t.regs.dst t.regs.dstride.toNat u).toNat
    a % t.regs.bytes = 0 ∧ (s.pack t.pack).base.toNat ≤ a ∧
      a + t.regs.bytes ≤ (s.pack t.pack).base.toNat + 65536 * (s.pack t.pack).units
  apart : ∀ u ∈ t.left, ∀ v ∈ t.left, u ≠ v →
    s.into t u + t.regs.bytes ≤ s.into t v ∨ s.into t v + t.regs.bytes ≤ s.into t u

/-- What a transfer has done from `s` to `t` when the elements `left` are still to do: the others hold their source's bytes, and
no other byte of the scratchpad has changed. -/
def State.copied (s t : State) (tr : Transfer) (xl : Nat → Xlate) (left : List Nat) : Prop :=
  (∀ u ∈ tr.left, u ∉ left → ∀ j, j < tr.regs.bytes →
    memRead (t.side tr.pack false).sp (s.into tr u + j) = memRead s.mem ((xl u).pa + j)) ∧
  ∀ o, (∀ u ∈ tr.left, u ∉ left → ¬ (s.into tr u ≤ o ∧ o < s.into tr u + tr.regs.bytes)) →
    memRead (t.side tr.pack false).sp o = memRead (s.side tr.pack false).sp o

/-! ## The collective reduction -/

/-- The operations of R488 on two elements. -/
def stripOp (op ew a b : Nat) : Nat × Flags :=
  let f := if ew = 64 then fp64 else fp32
  let n := asSigned ew
  match op with
  | 0 => f.bin .add .rne a b
  | 1 => ((a + b) % 2 ^ ew, 0)
  | 2 => f.bin .max .rne a b
  | 3 => f.bin .min .rne a b
  | 4 => (toElem ew (max (n a) (n b)), 0)
  | 5 => (toElem ew (min (n a) (n b)), 0)
  | 6 => (a &&& b, 0)
  | 7 => (a ||| b, 0)
  | _ => (a ^^^ b, 0)

/-- The combination of R490: the first present contribution in position order, each later one combined with what is so far. -/
def stripOf (op ew : Nat) : List (Option Nat) → Option Nat × Flags
  | [] => (none, 0)
  | none :: l => stripOf op ew l
  | some a :: l => l.foldl (fun r x =>
      match r.1, x with
      | some a, some b => (some (stripOp op ew a b).1, r.2 ||| (stripOp op ew a b).2)
      | _, _ => r) (some a, 0)

/-- A word of a collective descriptor (R489), and its fields. -/
def State.stripWord (s : State) (xl : Xlate) (off : Nat) : Nat := leNat (memBytes s.mem (xl.pa + off) 8)
def State.stripSize (s : State) (xl : Xlate) : Nat := s.stripWord xl 0 % 2 ^ 16
def State.stripOwn (s : State) (xl : Xlate) : Nat := s.stripWord xl 0 / 2 ^ 16 % 2 ^ 16

/-- Whether every other position's strip is there, and whether all agree on length, type and operation (R489). -/
def State.stripThere (s : State) (xl : Xlate) (peers : List PeerStrip) : Prop :=
  ∀ i, i < s.stripSize xl → i ≠ s.stripOwn xl → (peers.filter fun q => q.pos == i).length = 1
def State.stripAgrees (s : State) (xl : Xlate) (c : VCtx) (op : BitVec 4) (peers : List PeerStrip) : Prop :=
  ∀ q ∈ peers, q.pos < s.stripSize xl → q.vl = c.vl ∧ q.vtype = c.vtypeCode ∧ q.op = op

/-- The contributions to element `e` by position (R490). -/
def State.stripParts (s : State) (xl : Xlate) (c : VCtx) (peers : List PeerStrip) (mine : Nat → Option Nat) (e : Nat) :
    List (Option Nat) :=
  (List.range (s.stripSize xl)).map fun i =>
    if i = s.stripOwn xl then mine e
    else (peers.find? fun q => q.pos == i).bind fun q => (q.elems.getD e none).map fun v => v.toNat % 2 ^ c.ew

/-- Whether a strip issued at a cycle has not completed within the timeout that its descriptor names, in µs of 1,050 cycles, 0 meaning
1,000 (R2, R489, R491). -/
def State.stripLate (s : State) (xl : Xlate) (issued : Nat) : Prop :=
  let us := s.stripWord xl 0x28 % 2 ^ 32
  issued + 1050 * (if us = 0 then 1000 else us) ≤ s.cycle

/-- A strip whose descriptor was read in `s` is over, from `v` to `t` (R489–R491): the queue has gone on, the sequence number has risen,
the status holds the first failure. -/
structure StripEnds (s v t : State) (p r : Nat) (rest : List VEntry) (xl : Xlate) (status : Nat) : Prop where
  queue : (t.row p r).vq = rest
  seq : t.stripWord xl 8 = (s.stripWord xl 8 + 1) % 2 ^ 64
  status : t.stripWord xl 0x20 = if s.stripWord xl 0x20 = 0 ∧ status ≠ 0 then status else v.stripWord xl 0x20
  others : ∀ y, (y < xl.pa + 8 ∨ xl.pa + 16 ≤ y) → (y < xl.pa + 0x20 ∨ xl.pa + 0x28 ≤ y) → memRead t.mem y = memRead v.mem y
  regs : ∀ n, t.regNow (.control p r) n = s.regNow (.control p r) n

end Sys2Proof.Machine
end

