-- ==== Sys2Proof/Safety/Die.lean ====
section
/-! DEFINITION. What the spec says of launch records and the launch instruction (R375–R381), of saving, placing, resuming and
asking packs to leave (R285–R295, R382–R388), and of the end of launches (R389–R391); written for claims and not used by the
machine. -/
namespace Sys2Proof.Machine

/-! ## Records and queues -/

/-- Bits `hi` … `lo` of a word as a number. -/
def bitsOf (w : BitVec 64) (hi lo : Nat) : Nat := w.toNat / 2 ^ lo % 2 ^ (hi + 1 - lo)

/-- A record that the front end does not refuse (R375, R376). -/
def recordLegal (r : Record) : Prop :=
  let w := recWord r
  bitsOf (w 0) 47 0 ≠ 0 ∧ bitsOf (w 3) 41 40 ≠ 3 ∧ 1 ≤ bitsOf (w 3) 36 32 ∧ bitsOf (w 3) 36 32 ≤ 8 ∧
  bitsOf (w 3) 31 0 ≠ 0 ∧ bitsOf (w 4) 28 24 ≤ 16 ∧ bitsOf (w 4) 35 32 ≤ 8 ∧ bitsOf (w 4) 21 0 ≤ 0x300000 ∧
  (w 5).toNat % 8 = 0 ∧ (w 7).toNat % 8 = 0 ∧ (w 9).toNat % 32 = 0 ∧
  bitsOf (w 0) 63 48 = 0 ∧ bitsOf (w 1) 63 48 = 0 ∧
  bitsOf (w 3) 55 50 = 0 ∧ bitsOf (w 3) 47 42 = 0 ∧ bitsOf (w 3) 39 37 = 0 ∧
  bitsOf (w 4) 63 54 = 0 ∧ bitsOf (w 4) 47 43 = 0 ∧ bitsOf (w 4) 39 36 = 0 ∧ bitsOf (w 4) 31 29 = 0 ∧
  bitsOf (w 4) 23 22 = 0 ∧ (∀ i, 10 ≤ i → i < 15 → w i = 0) ∧ bitsOf (w 15) 62 32 = 0

/-- A queue that is read (R377); its descriptor's address; the indices there; slot `i`. -/
def QueueDesc.read (d : QueueDesc) : Prop := d.enable = true ∧ 4 ≤ d.log2 ∧ d.log2 ≤ 16
def Context.descriptor (c : Context) (q : Nat) : Nat := c.block + 0x800 + 32 * q
def State.writeIndex (s : State) (c : Context) (q : Nat) : Nat := leNat (memBytes s.mem (c.descriptor q + 0x10) 8)
def State.readIndex (s : State) (c : Context) (q : Nat) : Nat := leNat (memBytes s.mem (c.descriptor q + 0x18) 8)
def QueueDesc.slot (d : QueueDesc) (i : Nat) : BitVec 64 := wrap64 (d.base + 128 * (i % 2 ^ d.log2))

/-- The 16 words at a physical address, and the bytes of a record as launch places it, with LID and VALID (R379). -/
def State.recordAt (s : State) (pa : Nat) : Record := (List.range 16).map fun i => leWord (memBytes s.mem (pa + 8 * i) 8)
def placedRecord (r : Record) (lid : BitVec 32) : List (BitVec 8) :=
  (List.range 16).flatMap fun i =>
    leBytes 8 (if i = 15 then 2 ^ 63 + bitsOf (recWord r 15) 62 32 * 2 ^ 32 + lid.toNat else (recWord r i).toNat)

/-- The identifier after one; 0 is skipped (R380). -/
def lidNext (l : BitVec 32) : BitVec 32 := if l = BitVec.allOnes 32 then 1 else l + 1

/-! ## Packs asked to leave -/

/-- A resident pack has been asked to leave (R285, R386, R440): one that runs has REQ set in every row; a speculative one is
discarded and one that has not started is withdrawn. -/
def State.askedToLeave (s t : State) (q : Nat) : Prop :=
  if (s.pack q).started = true ∧ (s.pack q).ospec = none then
    (t.pack q).life = .resident ∧ ∀ w ∈ (t.pack q).rows, w.preempt.req = true
  else (t.pack q).life ≠ .resident

/-- The resident packs of a core, and of the litters of those, have been asked to leave (R168, R387, R392). -/
def State.coreAsked (s t : State) (c : Nat) : Prop :=
  ∀ p q, p < s.packs.length → (s.pack p).on c = true → q ∈ s.litterPacks p → (s.pack q).life = .resident → s.askedToLeave t q

/-! ## Saves -/

/-- A row that a save may take as it stands (R286), and one stopped for a forced save (R287): what must complete has. -/
def Row.settled (w : Row) : Prop :=
  (w.preempt.park = true ∨ w.life = .ended) ∧ w.vq = [] ∧ w.posts = [] ∧ w.ringArr = []
def Row.halfway (w : Row) : Prop :=
  w.stopped = true ∧
  (w.lanesFree = true →
    (∀ y ∈ w.vq, y.op.mustFinish = false ∧ y.halfStored = false) ∧ w.posts = [] ∧ w.thread.waitsMmaff = false) ∧
  (w.lanesFree = false → ∀ x ∈ w.posts, ∃ y, w.vq.head? = some y ∧ y.seq < x.seq)

/-- Every line of a pack's image finds room as it is written to the kennel: a versioned page may have none (R437). -/
def State.kennelTakes (s : State) (p : Nat) (forced discard : Bool) : Prop :=
  ((s.readied p).putImage p ((s.readied p).savedNow p forced discard)).isSome = true

/-- A pack has been saved (R286, R240, R388): its image stands at KADDR, its resources are free, its held transfers wait in the
image; one that leaves because of the swap takes its place after the packs of its PRIO; every other pack is as it was. -/
structure Shelved (s t : State) (p : Nat) (forced : Bool) : Prop where
  life : (t.pack p).life = .saved
  saved : ∃ v, (t.pack p).saved = some v ∧ v.forced = forced ∧ v.base = (s.pack p).base ∧
    v.held = (s.copies.filter fun x => decide (x.pack = p ∧ x.life = .held)).length
  others : ∀ q, q ≠ p → t.pack q = s.pack q
  free : ∀ c, (t.pack p).on c = false
  copies : t.copies = s.copies.map fun x => if x.pack = p ∧ x.life = .held then { x with life := .saved } else x
  launches : t.launches = s.launches
  place : (s.pack p).swapping = true → (t.pack p).swapped = some s.nextOrder ∧ t.nextOrder = s.nextOrder + 1

/-! ## Placement -/

/-- A waiting pack comes first in the order of R382: by PRIO, then the order of launches and swaps, then packs placed before,
then the pack index. -/
def State.comesFirst (s : State) (c : Cand) : Prop :=
  c ∈ s.waiting ∧ ∀ d ∈ s.waiting, keyBefore (s.candKey d) (s.candKey c) = false

/-- A core or brace fits a pack with these row contexts and base, and none that fits goes before it (R224, R383). -/
def State.fitsBest (s : State) (n : Need) (core : Nat) (contexts : List Nat) (base : Nat) : Prop :=
  core < 256 ∧ s.fitAt false [] n core = some (contexts, base) ∧
  ∀ c, c < 256 → (s.fitAt false [] n c).isSome = true → s.coreBefore n c core = false

/-- A row as placement leaves it (R157, R184, R289, R384). -/
structure RowPlaced (w : Row) (entry haddr : BitVec 48) (width : Width) (strands context : Nat) (foreign : Bool) : Prop where
  start : w.thread = Thread.start entry
  handler : w.haddr = haddr
  width : w.width = width
  strands : w.strands.length = strands ∧ ∀ k ∈ w.strands, k.state = .idle ∧ k.leash = 0 ∧ ∀ n, k.greg n = 0
  regs : (∀ i : Fin 32, w.x[i] = 0) ∧ ∀ i : Fin 32, w.p[i] = 0
  status : w.status = { runlong := false, saoff := false, cmode := .user, pmode := .user, intrap := false }
  mode : w.mode = { foreign := foreign, ilkset := false, now := foreign }
  float : w.fp = { excsel := 7, flags := 0, rm := 1 }
  preempt : w.preempt = { tforce := 100, park := false, forced := false, req := false }
  context : w.context = context
  clear : w.vq = [] ∧ w.vl = 0 ∧ w.tx = none ∧ w.copyErr.valid = false ∧ w.nextTid = 1 ∧ w.snap = 0

/-! ## The end of launches -/

/-- The words of the status block (R391). -/
def Launch.block (l : Launch) : List Nat :=
  let f := l.fails.head?
  let nfail := l.fails.length + l.cut
  let code := match f with
    | some f => f.code.toNat
    | Option.none => if l.refused then 3 else if l.cut ≠ 0 then 4 else 0
  let first := match f with
    | some f => f.index.toNat
    | Option.none => if l.refused = false ∧ l.cut ≠ 0 then l.nextPack % 2 ^ 32 else 0
  [code * 256 + (if l.refused = false ∧ nfail = 0 then 1 else 2), first * 2 ^ 32 + nfail % 2 ^ 32,
   match f with
   | some f => if f.code = 1 then f.tcause.toNat else 0
   | Option.none => 0,
   match f with
   | some f => if f.code = 1 then f.tpc.toNat else 0
   | Option.none => 0]

end Sys2Proof.Machine
end

