-- ==== Sys2Proof/Safety/Errors.lean ====
section
/-! DEFINITION. What the spec says of hardware errors (R116, R168, R226, R296–R298, R318, R326–R328, R408–R410, R423), of a page
walk (R397–R402), and of editing slot tables (R370, R373); written for claims and not used by the machine. -/
namespace Sys2Proof.Machine

/-- The number of errors noted under a key within 2^30 cycles of now, this one among them. -/
def errorsNow (t : Table (List Nat)) (key now : Nat) : Nat :=
  (((tget t key).getD []).filter fun x => decide (now < x + 2 ^ 30)).length + 1

/-! ## Machine checks -/

/-- A machine check has been raised at a row (R297): it waits with its syndrome, or is dropped and sets MCOVF; nothing else of
the row has changed. -/
def Row.checked (w w' : Row) (syn : BitVec 64) (elem : Nat) : Prop :=
  match w.mcheck with
  | Option.none => w' = { w with mcheck := some { syndrome := syn, elem := BitVec.ofNat 13 elem } }
  | some _ => w' = { w with trap := { w.trap with mcovf := true } }

/-- The fields of a syndrome (R297): SRC, FOLL, UNIT, ADDR. -/
def syndromeOf (src : Nat) (foll : Bool) (unit addr : Nat) : BitVec 64 :=
  wrap64 (src * 2 ^ 60 + (if foll then 1 else 0) * 2 ^ 59 + unit % 64 * 2 ^ 52 + addr % 2 ^ 52)

/-- A machine check that the scrubber may have raised at a row (R296), whatever else has changed there. -/
def Row.mayReport (w w' : Row) (syn : BitVec 64) : Prop :=
  (w'.mcheck = w.mcheck ∧ w'.trap = w.trap) ∨
  match w.mcheck with
  | Option.none => w'.mcheck = some { syndrome := syn, elem := 0 } ∧ w'.trap = w.trap
  | some _ => w'.mcheck = w.mcheck ∧ w'.trap = { w.trap with mcovf := true }

/-- A row checked, or left as it was where the scrubber may be what finds the poison (R296). -/
def Row.mayBeChecked (w w' : Row) (syn : BitVec 64) : Prop := w' = w ∨ w.checked w' syn 0

/-! ## Marks -/

/-- A lane is marked (R168, R298): RETIRE has it, and the core's packs have been asked to leave. -/
def State.laneMarked (s t : State) (c lane : Nat) : Prop :=
  (t.core c).retire = (s.core c).retire ||| BitVec.ofNat 32 (2 ^ (lane % 32)) ∧ s.coreAsked t c

/-- A core is marked for disable (R392), and its packs have been asked to leave. -/
def State.coreMarked (s t : State) (c : Nat) : Prop := (c < s.cores.length → (t.core c).marked = true) ∧ s.coreAsked t c

/-! ## The L2 -/

/-- A way is retired (R327), or with five or fewer ways left in its bank the slice fails and the cluster's cores are marked
(R328). -/
def State.wayGone (s t : State) (cluster bank way : Nat) : Prop :=
  if s.waysOf cluster bank ≤ 5 then
    (t.clusters.getD cluster Cluster.reset).failed = true ∧ ∀ i, i < 4 → s.coreMarked t (4 * cluster + i)
  else 16 * bank + way ∈ (t.clusters.getD cluster Cluster.reset).waysOut

/-- A transaction that held a lost tentative line (R326): it reports a conflict unless it was doomed already, and its copy of the
line is poisoned. -/
def Tx.lost (t t' : Tx) (line : Nat) : Prop :=
  if ∃ x ∈ t.lines, x.line = line then
    t'.doomed = some (t.doomed.getD 1) ∧ t'.lines = t.lines.map fun x => if x.line = line then { x with bad := true } else x
  else t' = t

/-- A transaction not yet doomed of a resident pack on a cluster, or the pack's own, holds a tentative copy of a line (R315). -/
def State.holds (s : State) (cluster line : Nat) (x : TxRef) : Prop :=
  let k := s.pack x.1
  let live := fun (t : Tx) => t.doomed = none ∧ ∃ y ∈ t.lines, y.line = line
  k.core / 4 = cluster ∧ k.life = .resident ∧
  match x.2 with
  | Option.none => ∃ o, k.ospec = some o ∧ live o.tx
  | some r => k.ospec = none ∧ ∃ tx, (s.row x.1 r).tx = some tx ∧ live tx

/-- The data of a dirty line of a cluster's slice are lost (R326): the line is poisoned, or one transaction that holds a tentative
copy of it loses that copy, and no other transaction anything. -/
def State.lineLost (s t : State) (cluster line : Nat) : Prop :=
  (t.packs = s.packs ∧ ∀ l, l ∈ t.poison ↔ l = line ∨ l ∈ s.poison) ∨
  t.poison = s.poison ∧ ∃ x, s.holds cluster line x ∧ (∀ q, q ≠ x.1 → t.pack q = s.pack q) ∧
    match x.2 with
    | Option.none => ∃ o o', (s.pack x.1).ospec = some o ∧ t.pack x.1 = { s.pack x.1 with ospec := some o' } ∧ o.tx.lost o'.tx line
    | some r => (∀ j, j ≠ r → t.row x.1 j = s.row x.1 j) ∧
        ∃ y y', (s.row x.1 r).tx = some y ∧ t.row x.1 r = { s.row x.1 r with tx := some y' } ∧ y.lost y' line

/-! ## The network -/

/-- A connection stands in the routers' tables (R370): each slot of its first link, and on every link of its routes the slots as many
higher as the link has hops before it. -/
def State.laid (s : State) (c : Conn) : Prop :=
  ∀ x ∈ s.connLinks c, ∀ b ∈ c.slots, s.slotHolder x.1 (b + x.2) = some c.id

/-- Connections no longer wanted have left the allocator's copy and the tables (R373); every other that had slots stands as it did, and
one that waited for them holds one where its links have one free (R393). -/
def State.swept (s t : State) : Prop :=
  (∀ c, s.connWanted c = true → (c.slots ≠ [] → (c ∈ s.conns → c ∈ t.conns)) ∧
    (c.slots = [] → c ∈ s.conns → ∃ c' ∈ t.conns, c' = { c with slots := c'.slots })) ∧
  (∀ c ∈ t.conns, ∃ c' ∈ s.conns, s.connWanted c' = true ∧
    (c = c' ∨ c'.slots = [] ∧ c = { c' with slots := c.slots } ∧ c.slots.length ≤ 1 ∧ t.laid c)) ∧
  ∀ d, (∀ e ∈ (t.dieAt d).slots, ∃ c ∈ t.conns, c.id = e.2) ∧
    ∀ e ∈ (s.dieAt d).slots, (∃ c ∈ t.conns, c.id = e.2) → e ∈ (t.dieAt d).slots

/-! ## Walks -/

/-- The node address and the index at a level of a walk (R397). -/
def walkIndex (va : BitVec 64) (level : Nat) : Nat := va.toNat / 2 ^ (12 + 9 * level) % 512
def entryAt (m : Memory) (node : Nat) (va : BitVec 64) (level : Nat) : BitVec 64 :=
  leWord (memBytes m (node + 8 * walkIndex va level) 8)

/-- A pointer entry (R398) to a node. -/
def pointsTo (e : BitVec 64) (node : Nat) : Prop :=
  e.getLsbD 0 = true ∧ bitsOf e 11 1 = 0 ∧ bitsOf e 63 52 = 0 ∧ node = bitsOf e 51 12 * 4096

/-- Four nodes in local memory whose entries the partition owns, the first three pointers, lead to a 4 KiB leaf (R395, R397); no entry
beside those the walk reads is a SPAN leaf (R400). -/
structure Leads (s : State) (part root : Nat) (va : BitVec 64) (node : Nat) : Prop where
  chain : ∃ n2 n1, pointsTo (entryAt s.mem root va 3) n2 ∧ pointsTo (entryAt s.mem n2 va 2) n1 ∧
    pointsTo (entryAt s.mem n1 va 1) node ∧
    ∀ x ∈ [(root, 3), (n2, 2), (n1, 1), (node, 0)],
      x.1 < 0x5400000000 ∧ tget s.granules ((x.1 + 8 * walkIndex va x.2) / 2 ^ 21) = some part ∧
      ∀ j, j < 16 → (leWord (memBytes s.mem (x.1 + 8 * (walkIndex va x.2 / 16 * 16 + j)) 8)).getLsbD 8 = false

/-- A local 4 KiB leaf without SPAN, VERS, REPL or NC (R398, R399): V, R, W, X, U as given by the bits, TDEV and reserved 0. -/
def plainLeaf (e : BitVec 64) : Prop :=
  e.getLsbD 0 = true ∧ (e.getLsbD 1 = true ∨ e.getLsbD 3 = true) ∧ (e.getLsbD 2 = true → e.getLsbD 1 = true) ∧
  bitsOf e 11 8 = 0 ∧ bitsOf e 63 52 = 0

/-- The permission of R401. -/
def leafPermits (e : BitVec 64) (k : AccessKind) (user : Bool) : Prop :=
  (match k with
   | .read => e.getLsbD 1 = true
   | .write => e.getLsbD 2 = true
   | .readWrite => e.getLsbD 1 = true ∧ e.getLsbD 2 = true
   | .fetch => e.getLsbD 3 = true) ∧ (user = true → e.getLsbD 4 = true)

/-- The entry after an access (R402): A set, and D where the access writes. -/
def leafAfter (e : BitVec 64) (k : AccessKind) : BitVec 64 :=
  match k with
  | .write => e ||| 0xC0
  | .readWrite => e ||| 0xC0
  | _ => e ||| 0x40

/-- An address that a thread's tables map to the place `pa` by a 4 KiB leaf at `loc` (R394–R402), in local memory that its partition
owns and with the permission the access needs: no TLB or walk cache of the core holds anything, no scalar write of it is pending,
and the line is not poisoned, counted, read early by the thread, or the one of the leaf itself. -/
structure Mapped (s : State) (a : Agent) (user : Bool) (va : BitVec 64) (k : AccessKind) (pa loc : Nat) : Prop where
  canon : ∀ i, 47 ≤ i → i < 64 → va.getLsbD i = va.getLsbD 47
  leaf : ∃ node, Leads s (s.context (s.pack a.pr.1).ctx).part (bitsOf (s.context (s.pack a.pr.1).ctx).root 51 12 * 4096) va node ∧
    loc = node + 8 * walkIndex va 0 ∧ plainLeaf (entryAt s.mem node va 0) ∧ leafPermits (entryAt s.mem node va 0) k user ∧
    pa = bitsOf (entryAt s.mem node va 0) 51 12 * 4096 + va.toNat % 4096
  owned : pa < 0x5400000000 ∧ tget s.granules (pa / 2 ^ 21) = some (s.context (s.pack a.pr.1).ctx).part
  fresh : (s.core (s.coreOf a)).tlb = [] ∧ (s.clusters.getD (s.coreOf a / 4) Cluster.reset).tlb = [] ∧
    (s.clusters.getD (s.coreOf a / 4) Cluster.reset).walks = []
  quiet : (s.core (s.coreOf a)).l1 = [] ∧ (s.core (s.coreOf a)).l1Bad = []
  sound : s.linePoisoned (pa / 64) = false ∧ tget s.counted (pa / 64) = none ∧ pa / 64 ≠ loc / 64
  early : ∀ e ∈ s.early, e.agent ≠ a

end Sys2Proof.Machine
end

