-- ==== Sys2Proof/Safety/Firmware.lean ====
section
/-! DEFINITION. What the spec says of firmware commands and their answers (R479, R480), of interface states (R476), contexts
(R481), debug (R455–R465), the patch table (R78–R81) and the links (R482–R486); written for claims and not used by the machine. -/
namespace Sys2Proof.Machine

/-! ## Commands (R479, R480) -/

/-- Who may issue a command (R480): host, owner, executive. -/
structure Issuers where
  host : Bool := false
  owner : Bool := false
  exec : Bool := false

def Issuers.allow (x : Issuers) (c : Cmd) : Prop :=
  (x.host = true ∧ c.issuer = .host) ∨ (x.owner = true ∧ c.issuer = .owner c.part) ∨ (x.exec = true ∧ c.issuer = .exec c.part)

/-- The commands: header, code, issuers (R480). -/
def commandForm : Instr → Option (Cmd × Nat × Issuers)
  | .partCreate c _ _ _ _ => some (c, 0x01, { host := true })
  | .partDestroy c => some (c, 0x02, { host := true })
  | .granuleAssign c _ _ => some (c, 0x03, { host := true })
  | .granuleRemove c _ _ => some (c, 0x04, { host := true })
  | .execLoad c _ _ => some (c, 0x05, { host := true, owner := true })
  | .ctxCreate c _ => some (c, 0x06, { exec := true })
  | .ctxDestroy c _ => some (c, 0x07, { exec := true })
  | .debugGrant c _ => some (c, 0x08, { owner := true })
  | .debugRevoke c _ => some (c, 0x09, { owner := true })
  | .debugSetComparator c _ _ _ _ => some (c, 0x0A, { exec := true })
  | .debugHalt c _ _ => some (c, 0x0A, { exec := true })
  | .debugRelease c _ _ => some (c, 0x0A, { exec := true })
  | .debugStateAccess c _ _ _ => some (c, 0x0A, { exec := true })
  | .debugHistoryRead c _ _ => some (c, 0x0A, { exec := true })
  | .debugTraceSet c _ _ _ => some (c, 0x0A, { exec := true })
  | .debugSampleSet c _ _ _ => some (c, 0x0A, { exec := true })
  | .health c => some (c, 0x0B, { host := true, exec := true })
  | .failUnit c _ => some (c, 0x0C, { host := true })
  | .poisonClear c _ => some (c, 0x0D, { exec := true })
  | .reset c => some (c, 0x0E, { host := true })
  | .patchLoad c _ _ => some (c, 0x0F, { host := true })
  | .setParam c (.swapnPart _) => some (c, 0x10, { exec := true })
  | .setParam c _ => some (c, 0x10, { host := true })
  | .linkSession c _ _ _ => some (c, 0x11, { owner := true })
  | .launchEnd c _ _ => some (c, 0x12, { exec := true })
  | _ => none

/-- The bytes of a command's header but its STATUS (R479), each with its place. -/
def headerBytes (c : Cmd) (op : Nat) : List (Nat × BitVec 8) :=
  (List.zip (List.range 16) ([op % 2 ^ 32 + c.length % 2 ^ 32 * 2 ^ 32, c.tag.toNat].flatMap (leBytes 8))) ++
    (List.zip (List.range' 16 2) (leBytes 2 c.part)) ++ List.zip (List.range' 20 12) (leBytes 12 c.zero.toNat)

/-- A command stands (R479, R480, R492): the executive's once its mailbox doorbell is not zero and its header stands at offset 64
of the page, another's once the device is up. -/
def State.issued (s : State) (c : Cmd) (op : Nat) : Prop :=
  match c.issuer with
  | .exec part => ∃ m, s.partOf part = some m ∧ leNat (memBytes s.mem m.mailbox 8) ≠ 0 ∧
      (op < 2 ^ 32 ∧ c.length < 2 ^ 32 ∧ c.part < 2 ^ 16) ∧
      ∀ x ∈ headerBytes c op, memRead s.mem (m.mailbox + 64 + x.1) = x.2
  | _ => s.ready = true

/-- The bytes of a response (R479). -/
def answerBytes (op part st : Nat) (tag : BitVec 64) (payload : List (BitVec 64)) : List (BitVec 8) :=
  [op % 2 ^ 32 + (32 + 8 * payload.length) % 2 ^ 32 * 2 ^ 32, tag.toNat, part % 2 ^ 16 + st % 2 ^ 16 * 2 ^ 16, 0].flatMap
    (leBytes 8) ++ payload.flatMap fun w => leBytes 8 w.toNat

/-- The command has been answered (R479, R480), and nothing else has happened: in the executive's mailbox page from offset 64,
its doorbell then 0, no command of that mailbox being discarded any more (R465); or to the session. -/
def State.answers (u t : State) (c : Cmd) (op st : Nat) (payload : List (BitVec 64)) : Prop :=
  match c.issuer with
  | .exec part => ∀ m, u.partOf part = some m →
    t = { u with mem := t.mem, voided := u.voided.filter fun x => decide (x.1 ≠ part) } ∧
    (u.mem.wf = true → ∀ b, memRead t.mem b =
      if m.mailbox ≤ b ∧ b < m.mailbox + 8 then 0
      else if m.mailbox + 64 ≤ b ∧ b < m.mailbox + 4096 ∧ b < m.mailbox + 96 + 8 * payload.length
      then (answerBytes op c.part st c.tag payload).getD (b - (m.mailbox + 64)) 0 else memRead u.mem b)
  | _ => t = { u with responses := u.responses ++
      [{ opcode := op, length := 32 + 8 * payload.length, tag := c.tag, part := c.part, status := st, payload := payload }] }

/-- The command completes with a status and a payload, having turned `s` into `u`. -/
def State.replies (s u : State) (i : Instr) (st : Nat) (payload : List (BitVec 64)) : Prop :=
  ∃ c op w t, commandForm i = some (c, op, w) ∧ exec i s = .next t ∧ u.answers t c op st payload

/-- A command that stands, is well formed and comes from an issuer that may issue it. -/
def State.takes (s : State) (i : Instr) : Prop :=
  ∃ c op w, commandForm i = some (c, op, w) ∧ s.issued c op ∧ c.wellFormed = true ∧ w.allow c

/-! ## Partitions and granules (R420, R476) -/

/-- A partition whose interface is in a state. -/
def State.interface (s : State) (part : Nat) : Option Tdisp := (s.partOf part).map fun m => m.tdisp

/-- A change of a locked partition's configuration is refused (R476): it moves to ERROR; in other states nothing changes. -/
def State.frozen (s u : State) (part : Nat) : Prop :=
  if s.interface part = some .locked ∨ s.interface part = some .run then u.interface part = some .error else u = s

/-- Some granules read zero and hold no poison, no version and no reader count, and the rest of memory is as it was (R420). -/
structure Scrubbed (s t : State) (l : List Nat) : Prop where
  zero : ∀ b, b / 2 ^ 21 ∈ l → memRead t.mem b = 0
  rest : s.mem.wf = true → t.mem.wf = true ∧ ∀ b, b / 2 ^ 21 ∉ l → memRead t.mem b = memRead s.mem b
  poison : ∀ x, x ∈ t.poison ↔ x ∈ s.poison ∧ x * 64 / 2 ^ 21 ∉ l
  lines : ∀ x, x * 64 / 2 ^ 21 ∈ l → tget t.lines x = none ∧ tget t.counted x = none

/-- The packs of a launch that has been ended (R389): all have ended, one that had not ended failed with code 4, and the packs
not generated never will be. -/
structure CutOff (s t : State) (l : Nat) : Prop where
  packs : ∀ p, (s.pack p).launch = l → (t.pack p).life = .ended
  fails : ∀ p, (s.pack p).launch = l → (s.pack p).life ≠ .ended → ∃ f ∈ (t.launch l).fails, f.index = (s.pack p).index ∧
    ((∀ g ∈ (s.launch l).fails, g.index ≠ f.index) → f.code = 4)
  cut : (t.launch l).cut = bitsOf (recWord (s.launch l).rec_ 3) 31 0 - (s.launch l).nextPack

/-! ## The patch table (R78–R81) -/

/-- The 16-bit word at an offset of a patch image. -/
def imageWord (img : List (BitVec 8)) (off : Nat) : Nat := (img.getD off 0).toNat + 256 * (img.getD (off + 1) 0).toNat

/-! ## Links (R482–R486) -/

/-- A link that goes down (R486): its state is down, and no session is routed over it. -/
def State.linkGone (s t : State) (l : Nat) : Prop :=
  (l < s.links.length → ∃ k, t.links[l]? = some k ∧ k.state = 0) ∧ (∀ j, j ≠ l → t.links[j]? = s.links[j]?) ∧
  ∀ x, x ∈ t.sessions ↔ x ∈ s.sessions ∧ x.route.head? ≠ some l

/-- A message of a partition has left over a window (R421, R483), one more group under its session's key; under a key that has protected
2^32 groups it waits. -/
def State.sendsMsg (s t : State) (part tdev : Nat) (m : LinkMsg) : Prop :=
  let mine := fun (x : Session) => x.tdev = tdev ∧ x.part = part
  t = { s with linkOut := t.linkOut, sessions := t.sessions } ∧
  if ∃ x ∈ s.sessions, mine x ∧ 2 ^ 32 ≤ x.sent then
    t.linkOut = s.linkOut ∧ t.sessions = s.sessions.map fun x => { x with waiting := if mine x then x.waiting ++ [m] else x.waiting }
  else
    t.linkOut = s.linkOut ++ [m] ∧ t.sessions = s.sessions.map fun x => { x with sent := if mine x then x.sent + 1 else x.sent }

/-- Bytes that the host or a device may reach (R421, R474): in local memory, in granules of a partition in RUN. -/
def State.reachable (s : State) (part pa n : Nat) : Prop :=
  pa + n ≤ 0x5400000000 ∧ s.interface part = some .run ∧ ∀ i, i < n → tget s.granules ((pa + i) / 2 ^ 21) = some part

/-- Whether a line that some bytes touch is poisoned. -/
def State.spoiled (s : State) (pa n : Nat) : Prop := ∃ i, i < n ∧ s.linePoisoned ((pa + i) / 64) = true

end Sys2Proof.Machine
end

