-- ==== Sys2Proof/Safety/Float.lean ====
section
/-! DEFINITION. What the spec's tables say the scalar floating-point instructions compute (R145–R149), by instruction; written
for claims and not used by the machine. -/
namespace Sys2Proof.Machine

/-- The low bits of a register that a .s operand and a .d operand are (R145). -/
def State.single (s : State) (t : Agent) (a : BitVec 6) : Nat := (s.int t a).toNat % 2 ^ 32
def State.double (s : State) (t : Agent) (a : BitVec 6) : Nat := (s.int t a).toNat
/-- The low `n` bits of a register, which a conversion reads (R149). -/
def State.low (s : State) (t : Agent) (a : BitVec 6) (n : Nat) : Nat := (s.int t a).toNat % 2 ^ n

/-- A float instruction with a guard and an exception mask: its rounding field, destination, the other registers it names,
and the bits and flags of its result under the rounding mode in force (R20). -/
structure FloatForm where
  gd : Guard
  ex : Exc
  rm : BitVec 4
  d : BitVec 6
  names : List (BitVec 6)
  result : Nat × Flags

/-- Its operand fields are none that R55, R58 or R72 reserve. -/
def FloatForm.legal (f : FloatForm) : Prop := f.gd.wf ∧ f.ex.wf ∧ f.rm ≤ 5

def State.floatForm (s : State) (t : Agent) : Instr → Option FloatForm
  | .faddS gd ex rm d a b => some ⟨gd, ex, rm, d, [a, b], fp32.bin .add (s.mode t rm) (s.single t a) (s.single t b)⟩
  | .fsubS gd ex rm d a b => some ⟨gd, ex, rm, d, [a, b], fp32.bin .sub (s.mode t rm) (s.single t a) (s.single t b)⟩
  | .fmulS gd ex rm d a b => some ⟨gd, ex, rm, d, [a, b], fp32.bin .mul (s.mode t rm) (s.single t a) (s.single t b)⟩
  | .fdivS gd ex rm d a b => some ⟨gd, ex, rm, d, [a, b], fp32.bin .div (s.mode t rm) (s.single t a) (s.single t b)⟩
  | .fminS gd ex d a b => some ⟨gd, ex, 0, d, [a, b], fp32.bin .min (s.mode t 0) (s.single t a) (s.single t b)⟩
  | .fmaxS gd ex d a b => some ⟨gd, ex, 0, d, [a, b], fp32.bin .max (s.mode t 0) (s.single t a) (s.single t b)⟩
  | .fsqrtS gd ex rm d a => some ⟨gd, ex, rm, d, [a], fp32.un .sqrt (s.mode t rm) (s.single t a)⟩
  | .fabsS gd ex d a => some ⟨gd, ex, 0, d, [a], fp32.un .abs (s.mode t 0) (s.single t a)⟩
  | .fnegS gd ex d a => some ⟨gd, ex, 0, d, [a], fp32.un .neg (s.mode t 0) (s.single t a)⟩
  | .faddD gd ex rm d a b => some ⟨gd, ex, rm, d, [a, b], fp64.bin .add (s.mode t rm) (s.double t a) (s.double t b)⟩
  | .fsubD gd ex rm d a b => some ⟨gd, ex, rm, d, [a, b], fp64.bin .sub (s.mode t rm) (s.double t a) (s.double t b)⟩
  | .fmulD gd ex rm d a b => some ⟨gd, ex, rm, d, [a, b], fp64.bin .mul (s.mode t rm) (s.double t a) (s.double t b)⟩
  | .fdivD gd ex rm d a b => some ⟨gd, ex, rm, d, [a, b], fp64.bin .div (s.mode t rm) (s.double t a) (s.double t b)⟩
  | .fminD gd ex d a b => some ⟨gd, ex, 0, d, [a, b], fp64.bin .min (s.mode t 0) (s.double t a) (s.double t b)⟩
  | .fmaxD gd ex d a b => some ⟨gd, ex, 0, d, [a, b], fp64.bin .max (s.mode t 0) (s.double t a) (s.double t b)⟩
  | .fsqrtD gd ex rm d a => some ⟨gd, ex, rm, d, [a], fp64.un .sqrt (s.mode t rm) (s.double t a)⟩
  | .fabsD gd ex d a => some ⟨gd, ex, 0, d, [a], fp64.un .abs (s.mode t 0) (s.double t a)⟩
  | .fnegD gd ex d a => some ⟨gd, ex, 0, d, [a], fp64.un .neg (s.mode t 0) (s.double t a)⟩
  | .ffmaS gd ex rm d a b c =>
    some ⟨gd, ex, rm, d, [a, b, c], fp32.fused .fma (s.mode t rm) (s.single t a) (s.single t b) (s.single t c)⟩
  | .ffmsS gd ex rm d a b c =>
    some ⟨gd, ex, rm, d, [a, b, c], fp32.fused .fms (s.mode t rm) (s.single t a) (s.single t b) (s.single t c)⟩
  | .ffnmaS gd ex rm d a b c =>
    some ⟨gd, ex, rm, d, [a, b, c], fp32.fused .fnma (s.mode t rm) (s.single t a) (s.single t b) (s.single t c)⟩
  | .ffmaD gd ex rm d a b c =>
    some ⟨gd, ex, rm, d, [a, b, c], fp64.fused .fma (s.mode t rm) (s.double t a) (s.double t b) (s.double t c)⟩
  | .ffmsD gd ex rm d a b c =>
    some ⟨gd, ex, rm, d, [a, b, c], fp64.fused .fms (s.mode t rm) (s.double t a) (s.double t b) (s.double t c)⟩
  | .ffnmaD gd ex rm d a b c =>
    some ⟨gd, ex, rm, d, [a, b, c], fp64.fused .fnma (s.mode t rm) (s.double t a) (s.double t b) (s.double t c)⟩
  | .cvtF64F32 gd ex rm d a => some ⟨gd, ex, rm, d, [a], convert .f64F32 (s.mode t rm) (s.low t a 32)⟩
  | .cvtF32F64 gd ex rm d a => some ⟨gd, ex, rm, d, [a], convert .f32F64 (s.mode t rm) (s.low t a 64)⟩
  | .cvtF32I64 gd ex rm d a => some ⟨gd, ex, rm, d, [a], convert .f32I64 (s.mode t rm) (s.low t a 64)⟩
  | .cvtI64F32 gd ex rm d a => some ⟨gd, ex, rm, d, [a], convert .i64F32 (s.mode t rm) (s.low t a 32)⟩
  | .cvtF64I64 gd ex rm d a => some ⟨gd, ex, rm, d, [a], convert .f64I64 (s.mode t rm) (s.low t a 64)⟩
  | .cvtI64F64 gd ex rm d a => some ⟨gd, ex, rm, d, [a], convert .i64F64 (s.mode t rm) (s.low t a 64)⟩
  | .cvtBf16F32 gd ex rm d a => some ⟨gd, ex, rm, d, [a], convert .bf16F32 (s.mode t rm) (s.low t a 32)⟩
  | .cvtF32Bf16 gd ex rm d a => some ⟨gd, ex, rm, d, [a], convert .f32Bf16 (s.mode t rm) (s.low t a 16)⟩
  | .cvtFp16F32 gd ex rm d a => some ⟨gd, ex, rm, d, [a], convert .fp16F32 (s.mode t rm) (s.low t a 32)⟩
  | .cvtF32Fp16 gd ex rm d a => some ⟨gd, ex, rm, d, [a], convert .f32Fp16 (s.mode t rm) (s.low t a 16)⟩
  | .cvtE4m3F32 gd ex rm d a => some ⟨gd, ex, rm, d, [a], convert .e4m3F32 (s.mode t rm) (s.low t a 32)⟩
  | .cvtF32E4m3 gd ex rm d a => some ⟨gd, ex, rm, d, [a], convert .f32E4m3 (s.mode t rm) (s.low t a 8)⟩
  | .cvtE5m2F32 gd ex rm d a => some ⟨gd, ex, rm, d, [a], convert .e5m2F32 (s.mode t rm) (s.low t a 32)⟩
  | .cvtF32E5m2 gd ex rm d a => some ⟨gd, ex, rm, d, [a], convert .f32E5m2 (s.mode t rm) (s.low t a 8)⟩
  | .cvtLgF32 gd ex rm d a => some ⟨gd, ex, rm, d, [a], convert .lgF32 (s.mode t rm) (s.low t a 32)⟩
  | .cvtF32Lg gd ex rm d a => some ⟨gd, ex, rm, d, [a], convert .f32Lg (s.mode t rm) (s.low t a 6)⟩
  | _ => none

/-- A float compare (R148): the predicate, the registers it names, its truth and flags (R24). -/
structure FloatCmpForm where
  pd : BitVec 5
  names : List (BitVec 6)
  result : Bool × Flags

def State.floatCmpForm (s : State) (t : Agent) : Instr → Option FloatCmpForm
  | .feqS pd a b => some ⟨pd, [a, b], fp32.cmp .eq (s.single t a) (s.single t b)⟩
  | .fltS pd a b => some ⟨pd, [a, b], fp32.cmp .lt (s.single t a) (s.single t b)⟩
  | .fleS pd a b => some ⟨pd, [a, b], fp32.cmp .le (s.single t a) (s.single t b)⟩
  | .funordS pd a b => some ⟨pd, [a, b], fp32.cmp .unord (s.single t a) (s.single t b)⟩
  | .feqD pd a b => some ⟨pd, [a, b], fp64.cmp .eq (s.double t a) (s.double t b)⟩
  | .fltD pd a b => some ⟨pd, [a, b], fp64.cmp .lt (s.double t a) (s.double t b)⟩
  | .fleD pd a b => some ⟨pd, [a, b], fp64.cmp .le (s.double t a) (s.double t b)⟩
  | .funordD pd a b => some ⟨pd, [a, b], fp64.cmp .unord (s.double t a) (s.double t b)⟩
  | _ => none

/-- An instruction with a scalar guard (R55, R56): the guard, the operand fields that R55, R58 or R72 do not reserve, its kind,
and the integer registers it names in 6-bit fields. -/
structure GuardForm where
  gd : Guard
  legal : Prop
  kind : Kind
  names : List (BitVec 6)

def guardForm : Instr → Option GuardForm
  | .adda gd d a b _ => some ⟨gd, gd.wf, .s, [d, a, b]⟩
  | .faddS gd ex rm d a b => some ⟨gd, gd.wf ∧ ex.wf ∧ rm ≤ 5, .s, d :: [a, b]⟩
  | .fsubS gd ex rm d a b => some ⟨gd, gd.wf ∧ ex.wf ∧ rm ≤ 5, .s, d :: [a, b]⟩
  | .fmulS gd ex rm d a b => some ⟨gd, gd.wf ∧ ex.wf ∧ rm ≤ 5, .s, d :: [a, b]⟩
  | .fdivS gd ex rm d a b => some ⟨gd, gd.wf ∧ ex.wf ∧ rm ≤ 5, .s, d :: [a, b]⟩
  | .fminS gd ex d a b => some ⟨gd, gd.wf ∧ ex.wf, .s, d :: [a, b]⟩
  | .fmaxS gd ex d a b => some ⟨gd, gd.wf ∧ ex.wf, .s, d :: [a, b]⟩
  | .fsqrtS gd ex rm d a => some ⟨gd, gd.wf ∧ ex.wf ∧ rm ≤ 5, .s, d :: [a]⟩
  | .fabsS gd ex d a => some ⟨gd, gd.wf ∧ ex.wf, .s, d :: [a]⟩
  | .fnegS gd ex d a => some ⟨gd, gd.wf ∧ ex.wf, .s, d :: [a]⟩
  | .faddD gd ex rm d a b => some ⟨gd, gd.wf ∧ ex.wf ∧ rm ≤ 5, .s, d :: [a, b]⟩
  | .fsubD gd ex rm d a b => some ⟨gd, gd.wf ∧ ex.wf ∧ rm ≤ 5, .s, d :: [a, b]⟩
  | .fmulD gd ex rm d a b => some ⟨gd, gd.wf ∧ ex.wf ∧ rm ≤ 5, .s, d :: [a, b]⟩
  | .fdivD gd ex rm d a b => some ⟨gd, gd.wf ∧ ex.wf ∧ rm ≤ 5, .s, d :: [a, b]⟩
  | .fminD gd ex d a b => some ⟨gd, gd.wf ∧ ex.wf, .s, d :: [a, b]⟩
  | .fmaxD gd ex d a b => some ⟨gd, gd.wf ∧ ex.wf, .s, d :: [a, b]⟩
  | .fsqrtD gd ex rm d a => some ⟨gd, gd.wf ∧ ex.wf ∧ rm ≤ 5, .s, d :: [a]⟩
  | .fabsD gd ex d a => some ⟨gd, gd.wf ∧ ex.wf, .s, d :: [a]⟩
  | .fnegD gd ex d a => some ⟨gd, gd.wf ∧ ex.wf, .s, d :: [a]⟩
  | .ffmaS gd ex rm d a b c => some ⟨gd, gd.wf ∧ ex.wf ∧ rm ≤ 5, .s, d :: [a, b, c]⟩
  | .ffmsS gd ex rm d a b c => some ⟨gd, gd.wf ∧ ex.wf ∧ rm ≤ 5, .s, d :: [a, b, c]⟩
  | .ffnmaS gd ex rm d a b c => some ⟨gd, gd.wf ∧ ex.wf ∧ rm ≤ 5, .s, d :: [a, b, c]⟩
  | .ffmaD gd ex rm d a b c => some ⟨gd, gd.wf ∧ ex.wf ∧ rm ≤ 5, .s, d :: [a, b, c]⟩
  | .ffmsD gd ex rm d a b c => some ⟨gd, gd.wf ∧ ex.wf ∧ rm ≤ 5, .s, d :: [a, b, c]⟩
  | .ffnmaD gd ex rm d a b c => some ⟨gd, gd.wf ∧ ex.wf ∧ rm ≤ 5, .s, d :: [a, b, c]⟩
  | .cvtF64F32 gd ex rm d a => some ⟨gd, gd.wf ∧ ex.wf ∧ rm ≤ 5, .s, d :: [a]⟩
  | .cvtF32F64 gd ex rm d a => some ⟨gd, gd.wf ∧ ex.wf ∧ rm ≤ 5, .s, d :: [a]⟩
  | .cvtF32I64 gd ex rm d a => some ⟨gd, gd.wf ∧ ex.wf ∧ rm ≤ 5, .s, d :: [a]⟩
  | .cvtI64F32 gd ex rm d a => some ⟨gd, gd.wf ∧ ex.wf ∧ rm ≤ 5, .s, d :: [a]⟩
  | .cvtF64I64 gd ex rm d a => some ⟨gd, gd.wf ∧ ex.wf ∧ rm ≤ 5, .s, d :: [a]⟩
  | .cvtI64F64 gd ex rm d a => some ⟨gd, gd.wf ∧ ex.wf ∧ rm ≤ 5, .s, d :: [a]⟩
  | .cvtBf16F32 gd ex rm d a => some ⟨gd, gd.wf ∧ ex.wf ∧ rm ≤ 5, .s, d :: [a]⟩
  | .cvtF32Bf16 gd ex rm d a => some ⟨gd, gd.wf ∧ ex.wf ∧ rm ≤ 5, .s, d :: [a]⟩
  | .cvtFp16F32 gd ex rm d a => some ⟨gd, gd.wf ∧ ex.wf ∧ rm ≤ 5, .s, d :: [a]⟩
  | .cvtF32Fp16 gd ex rm d a => some ⟨gd, gd.wf ∧ ex.wf ∧ rm ≤ 5, .s, d :: [a]⟩
  | .cvtE4m3F32 gd ex rm d a => some ⟨gd, gd.wf ∧ ex.wf ∧ rm ≤ 5, .s, d :: [a]⟩
  | .cvtF32E4m3 gd ex rm d a => some ⟨gd, gd.wf ∧ ex.wf ∧ rm ≤ 5, .s, d :: [a]⟩
  | .cvtE5m2F32 gd ex rm d a => some ⟨gd, gd.wf ∧ ex.wf ∧ rm ≤ 5, .s, d :: [a]⟩
  | .cvtF32E5m2 gd ex rm d a => some ⟨gd, gd.wf ∧ ex.wf ∧ rm ≤ 5, .s, d :: [a]⟩
  | .cvtLgF32 gd ex rm d a => some ⟨gd, gd.wf ∧ ex.wf ∧ rm ≤ 5, .s, d :: [a]⟩
  | .cvtF32Lg gd ex rm d a => some ⟨gd, gd.wf ∧ ex.wf ∧ rm ≤ 5, .s, d :: [a]⟩
  | .amoAdd gd _ _ _ _ sc _ => some ⟨gd, gd.wf ∧ sc ≤ 5, .c, []⟩
  | .amoAnd gd _ _ _ _ sc _ => some ⟨gd, gd.wf ∧ sc ≤ 5, .c, []⟩
  | .amoOr gd _ _ _ _ sc _ => some ⟨gd, gd.wf ∧ sc ≤ 5, .c, []⟩
  | .amoXor gd _ _ _ _ sc _ => some ⟨gd, gd.wf ∧ sc ≤ 5, .c, []⟩
  | .amoMax gd _ _ _ _ sc _ => some ⟨gd, gd.wf ∧ sc ≤ 5, .c, []⟩
  | .amoMin gd _ _ _ _ sc _ => some ⟨gd, gd.wf ∧ sc ≤ 5, .c, []⟩
  | .amoMaxu gd _ _ _ _ sc _ => some ⟨gd, gd.wf ∧ sc ≤ 5, .c, []⟩
  | .amoMinu gd _ _ _ _ sc _ => some ⟨gd, gd.wf ∧ sc ≤ 5, .c, []⟩
  | .amoSwap gd _ _ _ _ sc _ => some ⟨gd, gd.wf ∧ sc ≤ 5, .c, []⟩
  | .amoFadd gd _ _ _ _ sc _ => some ⟨gd, gd.wf ∧ sc ≤ 5, .c, []⟩
  | .amoCas gd _ _ _ _ _ sc _ => some ⟨gd, gd.wf ∧ sc ≤ 5, .c, []⟩
  | .lda gd _ _ sc => some ⟨gd, gd.wf ∧ sc ≤ 5, .c, []⟩
  | .lda32 gd _ _ sc => some ⟨gd, gd.wf ∧ sc ≤ 5, .c, []⟩
  | .strl gd _ _ sc => some ⟨gd, gd.wf ∧ sc ≤ 5, .c, []⟩
  | .strl32 gd _ _ sc => some ⟨gd, gd.wf ∧ sc ≤ 5, .c, []⟩
  | .tlwait gd _ _ sc => some ⟨gd, gd.wf ∧ sc ≤ 5, .c, []⟩
  | .tlpost gd _ _ sc => some ⟨gd, gd.wf ∧ sc ≤ 5, .c, []⟩
  | _ => none

end Sys2Proof.Machine
end

