-- ==== Sys2Proof/Safety/System.lean ====
section
/-! DEFINITION. What the spec's register maps say a status register holds and what a write leaves in it (R4, R25, R65, R113,
R150–R152, R160–R166, R184–R187, R230, R281, R282, R289, R427, R441, R442, R455), what taking a trap and returning from one do
to a row (R279, R281), and the terms of the strand transitions (R99–R103); written for claims and not used by the machine. -/
namespace Sys2Proof.Machine

/-! ## Words of status registers -/

/-- One bit as a number. -/
def bit01 (b : Bool) : Nat := if b then 1 else 0

/-- The fields of a status register by their maps: lowest bit and value; the registers of a selected strand (R113), CPGO and
numbers that name no register have none. -/
def State.srFields (s : State) (p r : Nat) (n : Nat) : List (Nat × Nat) :=
  let w := s.row p r
  let k := s.pack p
  let l := s.launch k.launch
  let c := w.copy
  let id := fun (placed : Nat) => w.idWord n placed
  if n = 0x000 then
    [(14 - 2, (BitVec.ofNat 3 (id k.prio.toNat)).toNat), (8, bit01 w.status.runlong), (7, bit01 w.status.saoff),
     (4, match w.status.cmode with | .user => 0 | .supervisor => 1 | .firmware => 2),
     (2, match w.status.pmode with | .user => 0 | .supervisor => 1 | .firmware => 2), (1, bit01 w.status.intrap)]
  else if n = 0x001 then [(9, bit01 w.trap.mcovf), (8, bit01 w.trap.nest), (0, w.trap.cause.toNat)]
  else if n = 0x002 then [(0, w.trap.pc.toNat)]
  else if n = 0x003 then [(0, w.trap.val.toNat)]
  else if n = 0x004 then [(0, w.trap.elem.toNat)]
  else if n = 0x005 then [(0, w.vstart.toNat)]
  else if n = 0x006 then [(0, w.vl.toNat)]
  else if n = 0x007 then [(4, bit01 w.vtype.bs), (2, w.vtype.g.toNat), (0, w.vtype.ew.toNat)]
  else if n = 0x008 then [(16, bit01 w.width.braced), (8, w.width.req.toNat), (0, w.width.grant.toNat)]
  else if n = 0x009 then [(0, w.rowmask.toNat)]
  else if n = 0x00A then [(16, w.fp.excsel.toNat), (8, w.fp.flags.toNat), (0, w.fp.rm.toNat)]
  else if n = 0x00B then [(0, w.snap.toNat)]
  else if n = 0x00C then [(0, w.txstart.toNat)]
  else if n = 0x00D then [(0, s.cycle)]
  else if n = 0x00E then [(0, w.haddr.toNat)]
  else if n = 0x00F then [(0, w.scratch.toNat)]
  else if n = 0x010 then [(0, id k.packId.toNat)]
  else if n = 0x011 then [(0, id r)]
  else if n = 0x012 then [(0, k.core)]
  else if n = 0x013 then [(0, id l.lid.toNat)]
  else if n = 0x014 then [(0, id k.index.toNat)]
  else if n = 0x015 then [(0, id ((recWord l.rec_ 3).toNat % 2 ^ 32))]
  else if n = 0x016 then [(0, id ((recWord l.rec_ 1).toNat % 2 ^ 48))]
  else if n = 0x017 then [(24, k.units), (0, k.base.toNat)]
  else if n = 0x020 then [(0, c.src.toNat)]
  else if n = 0x021 then [(0, c.dst.toNat)]
  else if n = 0x022 then [(16, c.rows.toNat), (0, c.cols.toNat)]
  else if n = 0x023 then [(32, c.sstride.toNat), (0, c.dstride.toNat)]
  else if n = 0x024 then
    [(25, c.aring.toNat), (24, bit01 c.arr), (16, c.rc.toNat), (8, c.mfmt.toNat), (4, c.esize.toNat), (0, c.dir.toNat)]
  else if n = 0x025 then [(0, c.tl.toNat)]
  else if n = 0x026 then [(0, c.inc.toNat)]
  else if n = 0x027 then [(0, c.gate.toNat)]
  else if n = 0x028 then [(0, c.gval.toNat)]
  else if n = 0x02A then [(32, w.copyErr.tid.toNat), (8, bit01 w.copyErr.valid), (0, w.copyErr.cause.toNat)]
  else if n = 0x030 then [(0, w.strandsel.toNat)]
  else if n = 0x040 then [(48, 0x4B52), (32, 0x0880), (0, Config.fuseSerial.toNat)]
  else if n = 0x041 then [(48, 0x0880), (40, Config.fuseStep.toNat)]
  else if n = 0x042 then [(0, Config.romFirmware.toNat % 2 ^ 48)]
  else if 0x043 ≤ n ∧ n ≤ 0x046 then [(0, s.patchId.toNat / 2 ^ (64 * (n - 0x043)) % 2 ^ 64)]
  else if n = 0x047 then [(32, (s.core k.core).retire.toNat), (0, (s.core k.core).healthy.toNat)]
  else if n = 0x048 then
    [(2, bit01 w.mode.foreign), (1, bit01 w.mode.ilkset), (0, bit01 (w.mode.foreign || w.mode.ilkset))]
  else if n = 0x050 then
    [(12, w.preempt.tforce.toNat), (2, bit01 w.preempt.park), (1, bit01 w.preempt.forced), (0, bit01 w.preempt.req)]
  else if n = 0x051 then [(0, k.kaddr.toNat)]
  else if n = 0x052 then [(3, bit01 w.dbg.halted), (2, bit01 w.dbg.catch_), (1, bit01 (decide (s.fullTrace k.core = some (p, r)))), (0, bit01 w.dbg.right)]
  else []

/-- The fields together as a word; bits in no field are 0 (R4). -/
def fieldsWord (l : List (Nat × Nat)) : BitVec 64 := BitVec.ofNat 64 (l.map fun x => x.2 * 2 ^ x.1).sum

/-- The fields of STRANDPC, STRANDLEASH and STRANDSTATE for a strand (R113). -/
def strandFields (t : Strand) (n : Nat) : List (Nat × Nat) :=
  if n = 0x031 then [(0, t.thread.pc.toNat)]
  else if n = 0x032 then [(0, t.leash.toNat)]
  else if n = 0x033 then
    [(16, t.fval.toNat), (8, t.cause.toNat), (7, bit01 t.pend), (6, bit01 t.idem), (5, bit01 t.qblk), (4, bit01 t.skip),
     (0, match t.state with | .idle => 0 | .lockstep => 1 | .loose => 2 | .held => 3 | .faulted => 4 | .halted => 5)]
  else []

/-- The numbers that name a status register (R150), those whose every field is for supervisor and firmware mode only (R4), and
those that strand code may read (R151). -/
def srExists (n : Nat) : Prop :=
  n ≤ 0x017 ∨ (0x020 ≤ n ∧ n ≤ 0x02A) ∨ (0x030 ≤ n ∧ n ≤ 0x033) ∨ (0x040 ≤ n ∧ n ≤ 0x048) ∨ (0x050 ≤ n ∧ n ≤ 0x052)
def srSupOnly (n : Nat) : Prop :=
  (1 ≤ n ∧ n ≤ 4) ∨ n = 0x00E ∨ n = 0x00F ∨ (0x030 ≤ n ∧ n ≤ 0x033) ∨ n = 0x051
def srOpen (n : Nat) : Prop :=
  n = 0x008 ∨ n = 0x00A ∨ n = 0x00B ∨ n = 0x00D ∨ (0x010 ≤ n ∧ n ≤ 0x017) ∨ (0x040 ≤ n ∧ n ≤ 0x042)

/-- The bits of a status register that a write in supervisor mode replaces by those of its operand (R4); the registers with
other rules are not here. -/
def srWritable (w : Row) : Nat → Option (BitVec 64)
  | 0x002 => some 0xFFFFFFFFFFFF
  | 0x003 => some (BitVec.allOnes 64)
  | 0x004 => some 0x1FFF
  | 0x005 => some 0x1FFF
  | 0x009 => some (BitVec.ofNat 64 (2 ^ w.width.grant.toNat - 1))
  | 0x00B => some (BitVec.allOnes 64)
  | 0x00E => some 0xFFFFFFFFFFFE
  | 0x00F => some (BitVec.allOnes 64)
  | 0x020 => some (BitVec.allOnes 64)
  | 0x021 => some (BitVec.allOnes 64)
  | 0x022 => some 0xFFFFFFFF
  | 0x023 => some (BitVec.allOnes 64)
  | 0x024 => some 0x0FFF0337
  | 0x025 => some (BitVec.allOnes 64)
  | 0x026 => some (BitVec.allOnes 64)
  | 0x027 => some (BitVec.allOnes 64)
  | 0x028 => some (BitVec.allOnes 64)
  | 0x030 => some 0x7F
  | _ => none

/-- The word a register holds after a write of `v` over `old`: by its mask, by its own rule where it has write-one-to-clear or
conditional fields (R25, R65, R184, R230, R282, R289, R455), unchanged where it is read-only. -/
def srWritten (w : Row) (n : Nat) (old v : BitVec 64) : BitVec 64 :=
  match srWritable w n with
  | some m => v &&& m
  | none =>
    if n = 0x000 then
      (old &&& ~~~0x18C#64) ||| (old &&& ~~~v &&& 0x100#64) ||| (v &&& 0x80#64) |||
        (if v.toNat / 4 % 4 < 2 ∨ (v.toNat / 4 % 4 = 2 ∧ w.status.cmode = .firmware) then v &&& 0xC#64 else old &&& 0xC#64)
    else if n = 0x001 then old &&& ~~~(v &&& 0x200#64)
    else if n = 0x00A then (v &&& 0x1F1F00#64) ||| (if 1 ≤ v.toNat % 8 ∧ v.toNat % 8 ≤ 5 then v &&& 7#64 else old &&& 7#64)
    else if n = 0x02A then (if v.getLsbD 8 then 0 else old)
    else if n = 0x048 then
      (old &&& 4#64) ||| (v &&& 2#64) ||| (if old.getLsbD 2 || v.getLsbD 1 then 1#64 else 0#64)
    else if n = 0x050 then
      (if v.toNat / 2 ^ 12 % 2 ^ 20 = 0 then old else (old &&& 0xFFF#64) ||| (v &&& 0xFFFFF000#64))
    else if n = 0x052 then (if w.dbg.right then (old &&& ~~~4#64) ||| (v &&& 4#64) else old)
    else old

/-- The writable "(sup)" fields of a register that also holds others (R4). -/
def srSupBits (n : Nat) : BitVec 64 :=
  if n = 0x000 then 0xC else if n = 0x048 then 2 else if n = 0x050 then 0xFFFFF000 else if n = 0x052 then 4 else 0

/-! ## Traps -/

/-- What a row holds once its control thread has taken a trap (R279). -/
def Row.entered (w : Row) (cause : BitVec 8) (pc : BitVec 48) (val : BitVec 64) (elem : BitVec 13) : Row :=
  { w with
    trap := { cause := cause, nest := w.status.intrap, mcovf := w.trap.mcovf, pc := pc, val := val, elem := elem },
    status := { w.status with pmode := w.status.cmode, cmode := .supervisor, intrap := true } }

/-- The control thread of a row has taken a trap (R278, R279): it stands at the handler with a new run, its registers as they
were, and nothing else of the package has changed. -/
structure Enters (s t : State) (p r : Nat) (cause : BitVec 8) (pc : BitVec 48) (val : BitVec 64) (elem : BitVec 13) : Prop where
  frame : Frame (s.modRow p r fun w => w.entered cause pc val elem) t (.control p r) []
  pc : (t.row p r).thread.pc = (s.row p r).haddr
  run : (t.row p r).thread.run = Run.empty
  idle : (t.row p r).thread.waiting = none
  whole : (t.row p r).thread.patch = none

/-- What `tret` leaves in its row beside the strand edits (R281, R289, R457). -/
def Row.returned (w : Row) : Row :=
  { w with
    status := { w.status with cmode := w.status.pmode, intrap := false },
    trap := { w.trap with nest := false },
    preempt := { w.preempt with park := w.preempt.park || w.trap.cause == 0x12 } }

/-! ## Strands -/

/-- A strand that lets the others of its leash go (R103). -/
def StrandState.letsGo : StrandState → Bool
  | .held => true
  | .idle => true
  | .halted => true
  | _ => false

/-- Whether every strand of a row but `k` lets the strands of leash `l` go (R103). -/
def State.leashFree (s : State) (p r : Nat) (l : BitVec 48) (k : Nat) : Prop :=
  ∀ j, j < (s.row p r).strands.length → j ≠ k → (s.strand p r j).leash = l → (s.strand p r j).state.letsGo = true

/-- A place is where a leash holds a strand (R102): the leash itself, or where a native translation stands for it (R452). -/
def State.leashAt (s : State) (p : Nat) (pc l : BitVec 48) : Prop :=
  l ≠ 0 ∧ (pc = l ∨ ∃ x, s.adtanOf (s.pack p).ctx true pc = some (l, x))

/-- A strand has gone to its leash `l`, at `pc` (R101–R103): it is HELD there, or all that are held at that leash have been
released together as one group. -/
def State.arrived (s t : State) (p r k : Nat) (pc l : BitVec 48) : Prop :=
  (t.strand p r k).thread.pc = pc ∧
  ((s.leashFree p r l k → (t.strand p r k).state = .lockstep ∧ (t.strand p r k).leash = 0 ∧
      ∀ j, j < (s.row p r).strands.length → j ≠ k → (s.strand p r j).state = .held → (s.strand p r j).leash = l →
        (t.strand p r j).state = .lockstep ∧ (t.strand p r j).leash = 0 ∧
          (t.strand p r j).group = (t.strand p r k).group) ∧
   (¬ s.leashFree p r l k → (t.strand p r k).state = .held ∧ (t.strand p r k).leash = l))

end Sys2Proof.Machine
end

