-- ==== Sys2Proof/Safety/Sync.lean ====
section
/-! DEFINITION. What the spec's tables say of the atomic updates and ordered accesses (R218, R349–R357), and the terms of fences,
barriers and rings (R243–R245, R336, R361); written for claims and not used by the machine. -/
namespace Sys2Proof.Machine

/-- An update of R351 on the low `w` bytes: the new value, none where nothing is written, and the flags (R352). -/
def amoResult (f : AmoFn) (w old b c : Nat) : Option Nat × Flags :=
  let n := 8 * w
  match f with
  | .add => (some ((old + b) % 2 ^ n), 0)
  | .and => (some (old &&& b), 0)
  | .or => (some (old ||| b), 0)
  | .xor => (some (old ^^^ b), 0)
  | .max => (some (toElem n (max (asSigned n old) (asSigned n b))), 0)
  | .min => (some (toElem n (min (asSigned n old) (asSigned n b))), 0)
  | .maxu => (some (max old b), 0)
  | .minu => (some (min old b), 0)
  | .swap => (some b, 0)
  | .cas => (if old = c then some b else none, 0)
  | .fadd => let r := (if w = 4 then fp32 else fp64).bin .add .rne old b; (some r.1, r.2)

/-- A scalar atomic (R349): guard, function, D, the registers of ea, b and c, order, scope, bytes. -/
structure AmoForm where
  gd : Guard
  f : AmoFn
  xd : BitVec 5
  xa : BitVec 5
  xb : BitVec 5
  xc : BitVec 5
  ord : BitVec 2
  sc : BitVec 3
  w : Nat

def amoForm : Instr → Option AmoForm
  | .amoAdd gd xd xa xb o sc w32 => some ⟨gd, .add, xd, xa, xb, 0, o, sc, if w32 then 4 else 8⟩
  | .amoAnd gd xd xa xb o sc w32 => some ⟨gd, .and, xd, xa, xb, 0, o, sc, if w32 then 4 else 8⟩
  | .amoOr gd xd xa xb o sc w32 => some ⟨gd, .or, xd, xa, xb, 0, o, sc, if w32 then 4 else 8⟩
  | .amoXor gd xd xa xb o sc w32 => some ⟨gd, .xor, xd, xa, xb, 0, o, sc, if w32 then 4 else 8⟩
  | .amoMax gd xd xa xb o sc w32 => some ⟨gd, .max, xd, xa, xb, 0, o, sc, if w32 then 4 else 8⟩
  | .amoMin gd xd xa xb o sc w32 => some ⟨gd, .min, xd, xa, xb, 0, o, sc, if w32 then 4 else 8⟩
  | .amoMaxu gd xd xa xb o sc w32 => some ⟨gd, .maxu, xd, xa, xb, 0, o, sc, if w32 then 4 else 8⟩
  | .amoMinu gd xd xa xb o sc w32 => some ⟨gd, .minu, xd, xa, xb, 0, o, sc, if w32 then 4 else 8⟩
  | .amoSwap gd xd xa xb o sc w32 => some ⟨gd, .swap, xd, xa, xb, 0, o, sc, if w32 then 4 else 8⟩
  | .amoCas gd xd xa xb xc o sc w32 => some ⟨gd, .cas, xd, xa, xb, xc, o, sc, if w32 then 4 else 8⟩
  | .amoFadd gd xd xa xb o sc w32 => some ⟨gd, .fadd, xd, xa, xb, 0, o, sc, if w32 then 4 else 8⟩
  | _ => none

/-- A vector atomic (R218): guard, function, whether it returns old values, the groups, the base. -/
structure VamoForm where
  gd : Guard
  f : AmoFn
  old : Bool
  vd : BitVec 6
  xa : BitVec 5
  vb : BitVec 6
  vc : BitVec 6

def vamoForm : Instr → Option VamoForm
  | .vamoAdd gd o vd xa vb vc => some ⟨gd, .add, o, vd, xa, vb, vc⟩
  | .vamoAnd gd o vd xa vb vc => some ⟨gd, .and, o, vd, xa, vb, vc⟩
  | .vamoOr gd o vd xa vb vc => some ⟨gd, .or, o, vd, xa, vb, vc⟩
  | .vamoXor gd o vd xa vb vc => some ⟨gd, .xor, o, vd, xa, vb, vc⟩
  | .vamoMax gd o vd xa vb vc => some ⟨gd, .max, o, vd, xa, vb, vc⟩
  | .vamoMin gd o vd xa vb vc => some ⟨gd, .min, o, vd, xa, vb, vc⟩
  | .vamoSwap gd o vd xa vb vc => some ⟨gd, .swap, o, vd, xa, vb, vc⟩
  | .vamoFadd gd o vd xa vb vc => some ⟨gd, .fadd, o, vd, xa, vb, vc⟩
  | _ => none

/-- The updates of a vector atomic in ascending element order (R219): the old value of each, memory and the flags after. -/
def amoRun (f : AmoFn) (w : Nat) : List (Nat × Nat × Nat) → Memory → List (Nat × Nat) × Memory × Flags
  | [], m => ([], m, 0)
  | (e, pa, b) :: l, m =>
    let old := leNat (memBytes m pa w)
    let r := amoResult f w old b 0
    let m' := match r.1 with
      | some v => memPut m pa (leBytes w v)
      | none => m
    let x := amoRun f w l m'
    ((e, old) :: x.1, x.2.1, r.2 ||| x.2.2)

/-- Whether a scope holds agents of more than one core (R336). -/
def State.wide (s : State) (a : Agent) (sc : Nat) : Prop := 3 ≤ sc ∨ ((s.pack a.pr.1).braced = true ∧ sc ≤ 1)

/-- The scope of a barrier (R364). -/
def scopeOfBarrier (n : Nat) : Nat := if n < 8 then 1 else 4

/-- A ring's check of R273 passes: the parties, the stage size, and the stages inside the allocation. -/
def ringFits (k : Pack) (base size parties : Nat) (stages : Nat) : Prop :=
  1 ≤ parties ∧ parties ≤ 4096 ∧ 64 ≤ size ∧ size % 64 = 0 ∧ size ≤ 2 ^ 24 ∧ base % 64 = 0 ∧ k.base.toNat ≤ base ∧
  base < 2 ^ 31 ∧ base + stages * size ≤ k.base.toNat + 65536 * k.units

end Sys2Proof.Machine
end

