-- ==== Sys2Proof/Certificates/Slice0/Obligations.lean ====
section
/-! DEFINITION. The statements about the model that are put to proof; OBLIGATIONS.json lists them. -/
open Sys2Proof Sys2Proof.Machine

/-! ## Encoding, fetch and steps -/

/-- The encoding of every well-formed instruction, with either run mark, decodes to that instruction and that mark
(R51, R52, R69–R72). -/
def Obligations.DecodeOfEncode : Prop :=
  ∀ (k : Bool) (i : Instr), isWord i = true → i.wf = true →
    ∃ w, encode k i = some w ∧ decode w = .ok i ∧ runMark w.head = k

/-- A native encoding that decodes is the encoding of the instruction it decodes to, with its own mark: no two encodings of
one instruction differ in more than the mark, and no bit is ignored (R52, R67, R72).

The Adtan encoding of every well-formed instruction decodes to that instruction (R73, R74). -/
def Obligations.EncodingsAreExact : Prop :=
  (
    ∀ (w : Words) (i : Instr), decode w = .ok i →
      ((w.head >>> 14).toNat < 1 → w.w1 = 0) → ((w.head >>> 14).toNat < 2 → w.w2 = 0) →
      ((w.head >>> 14).toNat < 3 → w.w3 = 0) → i.wf = true ∧ encode (runMark w.head) i = some w
  ) ∧
  (
    ∀ i : Instr, isWord i = true → i.wf = true → ∃ w x, encodeAdtan i = some (w, x) ∧ decodeAdtan w x = .ok i
  )

/-- Words written out bit by bit from R51, R52 and the opcode map stand for the instructions the spec names. -/
def Obligations.WrittenWordsDecode : Prop :=
  decode { head := 0b00_0_0000000_000101 } = .ok .brk ∧
  decode { head := 0b01_0_0000001_000011, w1 := 0b000100_000101_0001 } = .ok (.sub 3 4 5) ∧
  decode { head := 0b10_1_0010000_000011, w1 := 0b000100_0011_111111, w2 := 0b1111111111111000 } =
    .ok (.ld64 3 4 0x3FFFF8) ∧
  decode { head := 0b11_0_0000101_000111, w1 := 0b000000_0000_000000, w2 := 0b0000000000000101, w3 := 0 } =
    .ok (.li 7 5) ∧
  decode { head := 0b10_0_0100001_000001, w1 := 0b000010_000011_0010, w2 := 0b00010_1_1_00100_0011 } =
    .ok (.fmulD ⟨2, true⟩ ⟨true, 4⟩ 3 1 2 3)

/-- A thread that may issue, stands in native code outside a substitute sequence, waits in no instruction with its queue entry and has no
event due: when its code line is legal, the words at its slot match no patch entry and decode to `i`, its step executes `i`, with the
latch holding the encoding, the address, the next address in sequence and the run mark (R46, R48, R67). Before it, the loads that the
stream went past are performed as far as `i` needs them, for a control thread its strands' too (R113, R334); after it, what it consumed of
poisoned registers is reported and the end of a run performs the rest (R61, R296); then the next turn comes.

The same in Adtan: the word at the address, and the word after it where X is 1, decode to `i`, whose native equivalent
matches no patch entry; the thread holds the address with bit 0 set, and is in no native line (R50, R73–R75). Stated where the
instruction has not changed since it was executed first: else the old one may still be executed (R453). A word fetched is the one that
stands in memory, where the thread has read no code early (R449).

The words of a well-formed instruction in a legal code line are the instruction a thread executes from that slot, when no
patch entry matches (R46, R48, R51).

What the spec leaves open here is read or chosen as the model's assumption log says, entries 12, 117, 122, 124. -/
def Obligations.StepRunsDecodedInstruction : Prop :=
  (
    ∀ (s s' : State) (a : Agent) (l : Line) (i : Instr),
      let s0 := s.readyRow a
      let pc := (s0.thread a).pc
      let slot := pc.toNat / 2 % 32
      let raw := slotWords l.bytes slot
      let w : Words :=
        { head := raw.setWidth 16, w1 := (raw >>> 16).setWidth 16, w2 := (raw >>> 32).setWidth 16,
          w3 := (raw >>> 48).setWidth 16 }
      s.turn = .thread a → s.canIssue a = true → s0.dueEvent a = none → (s0.thread a).patch = none →
      (∀ f, (s0.thread a).waiting ≠ some (.slot, f)) → s0.exitAt a = none → pc.getLsbD 0 = false →
      s0.enterLine a = .ok (l, s') → lineReason l.bytes (isStrand a) = none → slot ≠ 0 → slot ≤ lineCount l.bytes →
      patchFind s'.patch (isStrand a) w.head w.w1 = none → decode w = .ok i →
      let s1 := ({ s'.keepLine a l with
        issuer := a,
        fetch := { raw := raw, pc := pc, npc := if slot < lineCount l.bytes then pc + 2 else (pc &&& ~~~0x3F#48) + 66,
                   mark := w.head.getLsbD 13, adtan := false, sub := false, lastSub := false } } : State).comesTo a i
      step s = andAdvance (mapNext (exec i s1) fun t => s1.finishInstr t a i)
  ) ∧
  (
    (∀ (s u v : State) (a : Agent) (w ext : BitVec 32) (i : Instr) (n : Words),
      let s0 := s.readyRow a
      let pc := (s0.thread a).pc
      let raw := ext ++ w
      s.turn = .thread a → s.canIssue a = true → s0.dueEvent a = none → (s0.thread a).patch = none →
      (∀ f, (s0.thread a).waiting ≠ some (.slot, f)) → s0.exitAt a = none → pc.getLsbD 0 = true →
      pc.getLsbD 1 = false → s0.fetchWord a (va64 pc - 1) = .ok (w, u) →
      (if w.getLsbD 2 then u.fetchWord a (va64 pc - 1 + 4) = .ok (ext, v) else ext = 0 ∧ v = u) →
      (∀ old, tget v.ranAdtan (v.adtanKey a) = some old → old = raw) →
      decodeAdtan w ext = .ok i → encode false i = some n → patchFind v.patch (isStrand a) n.head n.w1 = none →
      let s1 := ({ (v.noteAdtan a raw).dropLine a with
        issuer := a,
        fetch := { raw := raw, pc := pc, npc := pc + (if w.getLsbD 2 then 8 else 4), mark := false, adtan := true,
                   sub := false, lastSub := false } } : State).comesTo a i
      step s = andAdvance (mapNext (exec i s1) fun t => s1.finishInstr t a i)) ∧
    ∀ (s u : State) (a : Agent) (va : BitVec 64) (b : List (BitVec 8)),
      s.fetchBytes a (s.userMode a) va 4 = .ok (b, u) → (∀ e ∈ u.early, e.agent = a → e.base ≠ none) →
      s.fetchWord a va = .ok (BitVec.ofNat 32 (leNat b), u)
  ) ∧
  (
    ∀ (k : Bool) (i : Instr) (w : Words), isWord i = true → i.wf = true → encode k i = some w →
      ∃ s', (State.reset.withFetchWord 64 (w.head.toNat + 2 ^ 16 * w.w1.toNat + 2 ^ 32 * w.w2.toNat + 2 ^ 48 * w.w3.toNat)).fetchFor
          (if i.kind = .t then .strand 0 0 0 else .control 0 0) = .instr i s' ∧ s'.fetch.mark = k
  )

/-- Every instruction, event and command ends in a next state: R6 gives every use an effect and the machine never stops. -/
def Obligations.NothingStops : Prop := ∀ (i : Instr) (s : State), ∃ t, exec i s = .next t

/-- Memory is in its canonical form right after package reset.

What the spec leaves open here is read or chosen as the model's assumption log says, entries 6. -/
def Obligations.ResetMemoryCanonical : Prop := State.reset.mem.wf = true

/-- Every step keeps memory, and the scratchpad bytes of every pack, in the canonical form: rising addresses, no byte equal to
what an unlisted one reads as.

What the spec leaves open here is read or chosen as the model's assumption log says, entries 6. -/
def Obligations.StepKeepsCanonicalMemory : Prop :=
  ∀ s t : State, Canonical s → step s = .next t → Canonical t

/-- What the spec says of the package right after reset: no partition, context, pack or launch, no granule assigned, CC at 1
(R424), SWAPN at 2^20 (R388), an empty patch table (R81), every memory byte 0 (R420), no connection (R370) on the eight compute dies and the IO dies.

What the spec leaves open here is read or chosen as the model's assumption log says, entries 6, 7, 8. -/
def Obligations.ResetState : Prop :=
  let s := State.reset
  s.partitions = [] ∧ s.contexts = [] ∧ s.packs = [] ∧ s.launches = [] ∧ s.granules = [] ∧ s.sessions = [] ∧
  s.snapshots = [] ∧ s.conns = [] ∧ s.patch = [] ∧ s.patchId = 0 ∧ s.cc = 1 ∧ s.dies.length = 12 ∧ s.cores.length = 256 ∧
  (∀ d ∈ s.dies, d.swapn = 2 ^ 20) ∧ ∀ a, memRead s.mem a = 0

/-! ## Checks and scalar instructions -/

/-- A control thread that meets T-kind code, and a strand that meets C-kind code, take trap 0x0B with the encoding; nothing
else of the instruction happens (R9, R66, R67).

A supervisor-only instruction in user mode, and in any strand, takes trap 0x04 with the encoding (R143, R66, R67).

A control thread that names an integer register above 31 in any field takes trap 0x01 with the encoding (R117, R67).

An instruction that an armed comparator matches does not execute: it traps with 0x0E and 0x100 + the comparator (R457). -/
def Obligations.DecodeChecksTrap : Prop :=
  (
    ∀ (s : State) (a : Agent) (i : Instr), Ready s a → isWord i = true → i.wf = true →
      (match a with
       | .control .. => i.kind = .t
       | .strand .. => i.kind = .c) →
      exec i s = .next (s.trapsTo a 0x0B s.fetch.raw)
  ) ∧
  (
    ∀ (s : State) (a : Agent), Ready s a →
      (match a with
       | .control p r => (s.row p r).status.cmode = .user
       | .strand .. => True) →
      exec .tret s = .next (s.trapsTo a 0x04 s.fetch.raw)
  ) ∧
  (
    ∀ (s : State) (p r : Nat) (i : Instr) (d : BitVec 6) (l : List (BitVec 6)) (v : BitVec 64),
      Ready s (.control p r) →
      (intResult s (.control p r) i = some (d, l, v) ∨ lateResult s (.control p r) i = some (d, l, v)) →
      ¬ inFile (.control p r) (d :: l) → exec i s = .next (s.trapsTo (.control p r) 0x01 s.fetch.raw)
  ) ∧
  (
    ∀ (s : State) (a : Agent) (i : Instr) (d : BitVec 6) (l : List (BitVec 6)) (v : BitVec 64) (j : Nat),
      s.issuer = a → s.has a → s.alone a → s.breakpoint a = some j → inFile a (d :: l) →
      intResult s a i = some (d, l, v) → exec i s = .next (s.trapsTo a 0x0E (BitVec.ofNat 64 (0x100 + j)))
  )

/-- The integer instructions of R119 and R121–R125, in a control thread or in a strand that issues alone: the next
instruction reads the result the tables give, register 0 stays zero, and nothing else changes.

Multiply, divide and remainder (R120): a later run reads the result; the rest of the run reads it or a value the register
had before (R61). -/
def Obligations.IntegerAndMultiplyResults : Prop :=
  (
    ∀ (s : State) (a : Agent) (i : Instr) (d : BitVec 6) (l : List (BitVec 6)) (v : BitVec 64),
      Ready s a → inFile a (d :: l) → intResult s a i = some (d, l, v) →
      ∃ t, exec i s = .next t ∧ t.int a d = (if d = 0 then 0 else v) ∧ Frame s t a [.int d] ∧ Goes s t a s.next
  ) ∧
  (
    ∀ (s : State) (a : Agent) (i : Instr) (d : BitVec 6) (l : List (BitVec 6)) (v : BitVec 64),
      Ready s a → inFile a (d :: l) → lateResult s a i = some (d, l, v) →
      ∃ t, exec i s = .next t ∧ (∀ w, (t.endRun a w).int a d = if d = 0 then 0 else v) ∧
        t.int a d ∈ (if d = 0 then 0 else v) :: s.regNow a (.int d) :: s.olds a (.int d) ∧
        Frame s t a [.int d] ∧ Goes s t a s.next
  )

/-- Compares and predicate logic (R126–R128): the next instruction reads the predicate, p0 stays all ones, nothing else
changes. -/
def Obligations.PredicateResult : Prop :=
  ∀ (s : State) (a : Agent) (i : Instr) (pd : BitVec 5) (l : List (BitVec 6)) (v : BitVec 64),
    Ready s a → inFile a l → predResult s a i = some (pd, l, v) →
    ∃ t, exec i s = .next t ∧ t.pred a pd = (if pd = 0 then BitVec.allOnes 64 else v) ∧ Frame s t a [.pred pd] ∧
      Goes s t a s.next

/-- Every member of a lockstep group performs an integer instruction on its own registers, and the group goes on as one
(R100).

A guarded scalar instruction whose guard is off performs nothing: the thread only goes on (R55, R56). -/
def Obligations.GroupAndGuard : Prop :=
  (
    ∀ (s : State) (p r k : Nat) (i : Instr) (d : BitVec 6) (l : List (BitVec 6)) (v : Nat → BitVec 64),
      s.issuer = .strand p r k → (s.strand p r k).state = .lockstep → s.has (.strand p r k) →
      (∀ j ∈ s.groupOf p r k, s.breakpoint (.strand p r j) = none ∧ (s.strand p r j).thread.waiting = none ∧
        intResult s (.strand p r j) i = some (d, l, v j)) →
      ∃ t, exec i s = .next t ∧
        (∀ j ∈ s.groupOf p r k, t.int (.strand p r j) d = (if d = 0 then 0 else v j) ∧ Goes s t (.strand p r j) s.next) ∧
        (∀ b n, b.pr = (p, r) → ((∃ j ∈ s.groupOf p r k, b = .strand p r j) → n ≠ .int d) → t.regNow b n = s.regNow b n) ∧
        t.rest = s.rest ∧ (∀ q, q ≠ p → t.pack q = s.pack q) ∧ (∀ j, j ≠ r → t.row p j = s.row p j) ∧
        (s.mem.wf = true → ∀ x, Untraced s p x → memRead t.mem x = memRead s.mem x)
  ) ∧
  (
    ∀ (s : State) (a : Agent) (i : Instr) (f : GuardForm),
      Ready s a → guardForm i = some f → f.legal → inFile a f.names →
      (f.kind = .c → ∃ p r, a = .control p r) → s.guardOn a f.gd = false →
      ∃ t, exec i s = .next t ∧ Frame s t a [] ∧ Goes s t a s.next
  )

/-- A transfer that is taken to a target that passes the checks: the thread goes on there, at its native translation where the
target is a safe point (a return, or a backward transfer of Adtan code: R49, R75–R77, R135, R136, R452), and the link register
holds the next address.

A transfer completes (R49, R135, R136, R406) whose native target is canonical and names a slot that its line has, in a page
that the thread's tables map with the permission to fetch: the thread goes on there, and no register but the link changes.

A transfer to an illegal target traps with the cause the check gives and the target as its value, and performs nothing;
a branch that is not taken only goes on (R49, R76, R135). The value that an Adtan immediate gives is the model's choice (log 120).

What the check of a target finds (R49, R75): bits [63:47] that differ, slot 0, a slot above the line's N and an Adtan
address with bit 1 set raise 0x03; a line or a word that cannot be read raises what its fetch does (R281, R406).

What the spec leaves open here is read or chosen as the model's assumption log says, entries 92, 93, 120. -/
def Obligations.TransfersOfControl : Prop :=
  (
    ∀ (s s' : State) (a : Agent) (i : Instr) (f : TransferForm),
      Ready s a → s.transfer a i = some f → inFile a f.names → (s.fetch.adtan → alignedImm i) →
      s.checkTarget a f.target (s.userMode a) = .ok s' →
      ∃ t, exec i s = .next t ∧ Frame s' t a (f.link.map RegName.int).toList ∧
        (∀ d, f.link = some d → t.int a d = if d = 0 then 0 else va64 s.next) ∧
        Goes s t a (if f.isRet ∨ (s.fetch.adtan = true ∧ f.target.setWidth 48 ≤ s.fetch.pc)
          then s.safePoint a (f.target.setWidth 48) else f.target.setWidth 48)
  ) ∧
  (
    ∀ (s : State) (a : Agent) (i : Instr) (f : TransferForm) (pa loc : Nat),
      let line := f.target &&& ~~~0x3F#64
      let slot := f.target.toNat / 2 % 32
      Ready s a → s.transfer a i = some f → inFile a f.names → (s.fetch.adtan → alignedImm i) → s.mem.wf = true →
      f.target.getLsbD 0 = false → Mapped s a (s.userMode a) line .fetch pa loc → slot ≠ 0 →
      slot ≤ leNat (memBytes s.mem pa 2) / 2 ^ 11 →
      ∃ t, exec i s = .next t ∧ Goes s t a (f.target.setWidth 48) ∧
        (∀ d, f.link = some d → t.int a d = if d = 0 then 0 else va64 s.next) ∧
        ∀ b n, b.pr = a.pr → (b = a → ∀ d, f.link = some d → n ≠ .int d) → t.regNow b n = s.regNow b n
  ) ∧
  (
    (∀ (s s' : State) (a : Agent) (i : Instr) (f : TransferForm) (c : BitVec 8),
      Ready s a → s.transfer a i = some f → inFile a f.names → (s.fetch.adtan → alignedImm i) →
      s.checkTarget a f.target (s.userMode a) = .error (c, s') → exec i s = .next (s'.trapsTo a c f.target)) ∧
    (∀ (s : State) (a : Agent) (i : Instr) (f : TransferForm),
      Ready s a → s.transfer a i = some f → inFile a f.names → s.fetch.adtan = true → ¬ alignedImm i →
      exec i s = .next (s.trapsTo a 0x03 f.target)) ∧
    (∀ (s : State) (a : Agent) (neg : Bool) (pa : BitVec 5) (imm : BitVec 22),
      Ready s a → (s.pred a pa).getLsbD 0 = neg →
      ∃ t, exec (.br neg pa imm) s = .next t ∧ Frame s t a [] ∧ Goes s t a s.next)
  ) ∧
  (
    ∀ (s : State) (a : Agent) (t : BitVec 64) (user : Bool),
      let line := t &&& ~~~0x3F#64
      let slot := t.toNat / 2 % 32
      ((∃ i, 47 ≤ i ∧ i < 64 ∧ t.getLsbD i ≠ t.getLsbD 47) → s.checkTarget a t user = .error (0x03, s)) ∧
      (canonical t = true → t.getLsbD 0 = true →
        (t.getLsbD 1 = true → s.checkTarget a t user = .error (0x03, s)) ∧
        (∀ c, t.getLsbD 1 = false → s.fetchBytes a user (t - 1) 4 = .error c → s.checkTarget a t user = .error c) ∧
        ∀ b s', t.getLsbD 1 = false → s.fetchBytes a user (t - 1) 4 = .ok (b, s') → s.checkTarget a t user = .ok s') ∧
      (canonical t = true → t.getLsbD 0 = false →
        (slot = 0 → s.checkTarget a t user = .error (0x03, s)) ∧
        (∀ c, slot ≠ 0 → s.fetchBytes a user line 2 = .error c → s.checkTarget a t user = .error c) ∧
        ∀ b s', slot ≠ 0 → s.fetchBytes a user line 2 = .ok (b, s') →
          s.checkTarget a t user = if lineCount b < slot then .error (0x03, s') else .ok s')
  )

/-- nop changes nothing; brk traps with cause 0x0E and value 0; trap with its code; an encoding outside the map with cause
0x01 and the encoding (R67, R142, R153). -/
def Obligations.NopAndTraps : Prop :=
  ∀ (s : State) (a : Agent), Ready s a →
    (∃ t, exec .nop s = .next t ∧ Frame s t a [] ∧ Goes s t a s.next) ∧
    exec .brk s = .next (s.trapsTo a 0x0E 0) ∧
    (∀ x y : BitVec 6, exec (.trap x y) s = .next (s.trapsTo a 0x0F ((x ++ y).setWidth 64))) ∧
    ∀ raw, exec (.illegalInstruction raw) s =
      .next (({ s with fetch := { s.fetch with raw := raw } } : State).trapsTo a 0x01 raw)

/-- A generic load that passes the checks of R129 (R130): a later run reads the datum, extended to 64 bits. The datum is what the
load finds in program order, or what the thread read there early (R334, R335). Outside a window, with no early read of the thread's, it
is what the bytes at the translated address hold: on an unversioned page, and outside a transaction on a versioned one, the line's
head (R131, R132, R415); inside a transaction, what it wrote there, else the version at TXSTART (R431).

Loads and snapshot loads complete (R129, R130, R134, R394–R402): at an aligned address that the thread's tables map by a
readable page of local memory, a later run reads the bytes there, extended; no other register changes, and no byte of memory but
those of the leaf's entry.

A snapshot load that passes the checks (R134): a later run reads the datum, outside a window, on a versioned page with SNAP not 0 and its
snapshot kept open, that of the newest version at or before SNAP; else that of the line's head.

What the spec leaves open here is read or chosen as the model's assumption log says, entries 37, 38, 40, 43, 81, 117. -/
def Obligations.LoadResults : Prop :=
  (
    ∀ (s s' : State) (a : Agent) (i : Instr) (f : LoadForm) (xl : Xlate),
      let va := s.int a f.a + f.imm.signExtend 64
      let r := s'.loadGeneric a f.a xl f.w
      Ready s a → loadForm i = some f → inFile a [f.d, f.a] → s.readCheck a va f.w none = .ok (xl, s') →
      ∃ t, exec i s = .next t ∧ (∀ e, (t.endRun a e).int a f.d = if f.d = 0 then 0 else extended f.w f.signed r.1) ∧
        Frame r.2 t a [.int f.d] ∧ Goes s t a s.next ∧
        (r.1 = (s'.loadPlain a xl f.w).1 ∨ ∃ e ∈ s'.early, e.agent = a ∧ e.base = some f.a ∧ e.sp = none ∧ e.pa ≤ xl.pa ∧
          xl.pa + f.w ≤ e.pa + e.bytes.length ∧ r.1 = leWord ((e.bytes.drop (xl.pa - e.pa)).take f.w)) ∧
        (xl.tdev = 0 → xl.vers = false ∨ s'.txOf a = none → (∀ e ∈ s'.early, e.agent ≠ a) →
          s'.atHome xl = true ∨ (s'.core (s'.coreOf a)).l1Bad = [] → r.1 = leWord (s'.headBytes a xl f.w)) ∧
        ∀ start tx b, xl.tdev = 0 → xl.vers = true → s'.txOf a = some (start, tx) → tx.doomed = none →
          s'.currentBytes (xl.pa / 64) start = some b → b.length = 64 → xl.pa % 64 + f.w ≤ 64 →
          r.1 = leWord ((List.range f.w).map fun j => tx.byte (xl.pa / 64) b (xl.pa % 64 + j))
  ) ∧
  (
    ∀ (s : State) (a : Agent) (i : Instr) (f : LoadForm) (pa loc : Nat),
      let va := s.int a f.a + f.imm.signExtend 64
      Ready s a → (loadForm i = some f ∨ snapLoadForm i = some f) → inFile a [f.d, f.a] → s.mem.wf = true →
      va.toNat % f.w = 0 → Mapped s a (s.userMode a) va .read pa loc →
      ∃ t, exec i s = .next t ∧ Goes s t a s.next ∧
        (∀ e, (t.endRun a e).int a f.d = if f.d = 0 then 0 else extended f.w f.signed (leWord (memBytes s.mem pa f.w))) ∧
        (∀ b n, b.pr = a.pr → (b = a → n ≠ .int f.d) → t.regNow b n = s.regNow b n) ∧
        ∀ x, Untraced s a.pr.1 x → ¬ (loc ≤ x ∧ x < loc + 8) → memRead t.mem x = memRead s.mem x
  ) ∧
  (
    ∀ (s s' : State) (a : Agent) (i : Instr) (f : LoadForm) (xl : Xlate),
      let va := s.int a f.a + f.imm.signExtend 64
      let snap := s.snapFor a
      let r := s'.loadSnap a snap xl f.w
      Ready s a → snapLoadForm i = some f → inFile a [f.d, f.a] → s.readCheck a va f.w (some snap) = .ok (xl, s') →
      ∃ t, exec i s = .next t ∧ (∀ e, (t.endRun a e).int a f.d = if f.d = 0 then 0 else extended f.w f.signed r.1) ∧
        Frame r.2 t a [.int f.d] ∧ Goes s t a s.next ∧
        (∀ b, xl.tdev = 0 → xl.vers = true → snap ≠ 0 →
          (∃ e ∈ s'.snapshots, e.time = snap.toNat ∧ e.part = (s'.pack a.pr.1).part) →
          s'.currentBytes (xl.pa / 64) snap.toNat = some b → r.1 = leWord ((b.drop (xl.pa % 64)).take f.w)) ∧
        (xl.tdev = 0 → xl.vers = false ∨ snap = 0 → s'.atHome xl = true ∨ (s'.core (s'.coreOf a)).l1Bad = [] →
          r.1 = leWord (s'.headBytes a xl f.w))
  )

/-- A generic store that passes the checks and finds room (R129, R130): it stores the low bytes of D at its address, and the
thread goes on with every register as it was. On a versioned page of local memory it is, outside a transaction, a single-line commit: the
line's head takes the next timestamp and the stored bytes, the old head joins the chain, and no other byte of memory changes (R437); inside
one it changes no memory but the transaction's own view of those bytes, or finds no room and dooms it with status 2 (R431, R432).

Stores complete (R129, R130, R132, R394–R402): at an aligned address that the thread's tables map by a writable page of local
memory, the bytes stand in the core's L1 for the thread's place in memory order, no register changes, and no byte of memory but
those of the leaf's entry.

What a store changes (R130, R132, R333). On a cached page of local memory it changes no byte of memory yet, the thread
that stored sees exactly its bytes there, and no thread sees another byte change. On an NC page, past the thread's earlier
writes of the same bytes, exactly the stored bytes of memory change.

A store is seen by a load of the same thread that follows it (R131): on a cached page of local memory, of a line with no reader count
and with no error in the L1, the load returns the bytes just stored.

What the spec leaves open here is read or chosen as the model's assumption log says, entries 37, 38, 43. -/
def Obligations.StoreResults : Prop :=
  (
    ∀ (s s' u : State) (a : Agent) (i : Instr) (f : StoreForm) (xl : Xlate),
      let va := s.int a f.a + f.imm.signExtend 64
      let b := leBytes f.w (s.int a f.d).toNat
      let line := xl.pa / 64
      Ready s a → storeForm i = some f → inFile a [f.d, f.a] → s.writeCheck a va f.w = .ok (xl, s') →
      s'.store a xl b false = some u →
      (∃ t, exec i s = .next t ∧ Frame u t a [] ∧ Goes s t a s.next) ∧
      (xl.tdev = 0 → xl.vers = true → xl.pa % 64 + f.w ≤ 64 →
        (s'.txOf a = none →
          let d := s'.drainFor a xl.pa f.w
          d.mem.wf = true → d.linePoisoned line = false → (∀ pa n, d.mailboxBusy pa n = false) →
          u.cc = d.cc + 1 ∧
          u.vline line =
            { ts := d.cc + 1, chain := { ts := (d.vline line).ts, bytes := d.lineBytes line, poisoned := false } ::
                ((d.reclaim line).vline line).chain } ∧
          (∀ l, l ≠ line → u.vline l = d.vline l) ∧
          ∀ x, memRead u.mem x = if xl.pa ≤ x ∧ x < xl.pa + f.w then b.getD (x - xl.pa) 0 else memRead d.mem x) ∧
        (∀ start tx, s'.txOf a = some (start, tx) → tx.doomed = none → (∀ x ∈ tx.lines, x.bytes.length = 64) →
          ∃ tx', u.txOf a = some (start, tx') ∧ u.mem = s'.mem ∧ u.lines = s'.lines ∧
            ((tx'.lines = tx.lines ∧ tx'.doomed = some 2) ∨
             (tx'.doomed = none ∧ ∀ l base j, j < 64 → tx'.byte l base j =
                if l = line ∧ xl.pa % 64 ≤ j ∧ j < xl.pa % 64 + f.w then b.getD (j - xl.pa % 64) 0 else tx.byte l base j))))
  ) ∧
  (
    ∀ (s : State) (a : Agent) (i : Instr) (f : StoreForm) (pa loc : Nat),
      let va := s.int a f.a + f.imm.signExtend 64
      Ready s a → storeForm i = some f → inFile a [f.d, f.a] → s.mem.wf = true → (s.pack a.pr.1).ospec = none →
      va.toNat % f.w = 0 → Mapped s a (s.userMode a) va .write pa loc → s.coreOf a < s.cores.length →
      ∃ t e, exec i s = .next t ∧ Goes s t a s.next ∧ (t.core (s.coreOf a)).l1 = [e] ∧ e.agent = a ∧ e.pa = pa ∧
        e.bytes = leBytes f.w (s.int a f.d).toNat ∧ (∀ b n, b.pr = a.pr → t.regNow b n = s.regNow b n) ∧
        ∀ x, Untraced s a.pr.1 x → ¬ (loc ≤ x ∧ x < loc + 8) → memRead t.mem x = memRead s.mem x
  ) ∧
  (
    ∀ (s u : State) (a : Agent) (xl : Xlate) (l : List (BitVec 8)),
      xl.tdev = 0 → xl.vers = false → s.store a xl l false = some u →
      (xl.nc = false → s.coreOf a < s.cores.length →
        u.mem = s.mem ∧ u.seenBytes a xl.pa l.length = l ∧
        ∀ (b : Agent) (x : Nat), ¬ (xl.pa ≤ x ∧ x < xl.pa + l.length) → u.seenBytes b x 1 = s.seenBytes b x 1) ∧
      (xl.nc = true →
        let d := s.drainFor a xl.pa l.length
        d.mem.wf = true → d.linePoisoned (xl.pa / 64) = false → d.mailboxBusy xl.pa l.length = false →
        ∀ x, memRead u.mem x = if xl.pa ≤ x ∧ x < xl.pa + l.length then l.getD (x - xl.pa) 0 else memRead d.mem x)
  ) ∧
  (
    ∀ (s u : State) (a : Agent) (xl : Xlate) (w : Nat) (v : BitVec 64),
      xl.tdev = 0 → xl.vers = false → xl.nc = false → tget s.counted (xl.pa / 64) = none → s.coreOf a < s.cores.length →
      (w = 1 ∨ w = 2 ∨ w = 4 ∨ w = 8) →
      (s.core (s.coreOf a)).l1Bad = [] → s.store a xl (leBytes w v.toNat) false = some u →
      ∀ n, ((u.forgetAt a xl.pa w).loadGeneric a n xl w).1 = wrap64 (v.toNat % 2 ^ (8 * w))
  )

/-- A load or store that R129's checks stop traps with the cause and the effective address, and performs nothing; a walk made on
the way keeps what it has set (R402).

The order of R129's checks: alignment first, then bits [63:47], then translation with its cause, then for a store the page
that an ordered-speculative launch may not write, then poison; what a walk has set stands even then (R402).

What the spec leaves open here is read or chosen as the model's assumption log says, entries 135. -/
def Obligations.AccessesTrap : Prop :=
  (
    ∀ (s s' : State) (a : Agent) (i : Instr) (c : BitVec 8), Ready s a →
      (∀ f : LoadForm, loadForm i = some f → inFile a [f.d, f.a] →
        s.readCheck a (s.int a f.a + f.imm.signExtend 64) f.w none = .error (c, s') →
        exec i s = .next (s'.trapsTo a c (s.int a f.a + f.imm.signExtend 64))) ∧
      (∀ f : LoadForm, snapLoadForm i = some f → inFile a [f.d, f.a] →
        s.readCheck a (s.int a f.a + f.imm.signExtend 64) f.w (some (s.snapFor a)) = .error (c, s') →
        exec i s = .next (s'.trapsTo a c (s.int a f.a + f.imm.signExtend 64))) ∧
      (∀ f : StoreForm, storeForm i = some f → inFile a [f.d, f.a] →
        s.writeCheck a (s.int a f.a + f.imm.signExtend 64) f.w = .error (c, s') →
        exec i s = .next (s'.trapsTo a c (s.int a f.a + f.imm.signExtend 64)))
  ) ∧
  (
    ∀ (s : State) (a : Agent) (va : BitVec 64) (w : Nat) (n : Option (BitVec 64)), 0 < w →
      (va.toNat % w ≠ 0 → s.readCheck a va w n = .error (0x05, s) ∧ s.writeCheck a va w = .error (0x05, s)) ∧
      (va.toNat % w = 0 → canonical va = false →
        s.readCheck a va w n = .error (0x07, s) ∧ s.writeCheck a va w = .error (0x07, s)) ∧
      (∀ c, va.toNat % w = 0 → canonical va = true → s.translateFor a va .read = .error c →
        s.readCheck a va w n = .error (c, s) ∧ (c = 0x06 ∨ c = 0x07)) ∧
      (∀ c, va.toNat % w = 0 → canonical va = true → s.translateFor a va .write = .error c →
        s.writeCheck a va w = .error (c, s) ∧ (c = 0x06 ∨ c = 0x07)) ∧
      (∀ xl s', va.toNat % w = 0 → canonical va = true → s.translateFor a va .read = .ok (xl, s') →
        s.readCheck a va w n = if s'.readPoisoned a xl n then .error (0x0A, s') else .ok (xl, s')) ∧
      (∀ xl s', va.toNat % w = 0 → canonical va = true → s.translateFor a va .write = .ok (xl, s') →
        s.writeCheck a va w =
          if (s.pack a.pr.1).ordered = true ∧ xl.vers = false then .error (0x0D, s')
          else if s'.poisoned xl then .error (0x0A, s') else .ok (xl, s'))
  )

/-- A local load or store of a control thread or a strand (R109, R133): misaligned raises 0x05 and an address outside raises
the fault its view gives, with the address; else the load returns the zero-extended bytes of the scratchpad side, or, but not through a
ring, what the thread read of them early (R334, R345), or raises 0x0A where a word is poisoned (R226), and the store writes its bytes there and nowhere else, past the thread's pending wide releases
(R337, R345).

What a scratchpad store leaves (R226): with no poisoned word touched, or all of one poisoned word written, its bytes and
no others change; a poisoned word it covers only in part keeps bytes and poison.

What the spec leaves open here is read or chosen as the model's assumption log says, entries 31. -/
def Obligations.LocalAccesses : Prop :=
  (
    ∀ (s : State) (a : Agent) (i : Instr), Ready s a →
      (∀ (f : LoadForm) (foll : Bool) (off : Nat) (n : Option Nat), localLoadForm i = some f → inFile a [f.d, f.a] →
        let va := s.int a f.a + f.imm.signExtend 64
        va.toNat % f.w = 0 → s.localPlace a va f.w = .at_ foll off n →
        if (s.side a.pr.1 foll).bad off f.w then exec i s = .next (s.trapsTo a 0x0A va)
        else
          let now := leWord (memBytes (s.side a.pr.1 foll).sp off f.w)
          ∃ t v, exec i s = .next t ∧ Frame s t a [.int f.d] ∧ Goes s t a s.next ∧
            (∀ e, (t.endRun a e).int a f.d = if f.d = 0 then 0 else v) ∧
            (v = now ∨ n = none ∧ ∃ x ∈ s.early, x.agent = a ∧ x.base = some f.a ∧ x.sp = some foll ∧ x.pa ≤ off ∧
              off + f.w ≤ x.pa + x.bytes.length ∧ v = leWord ((x.bytes.drop (off - x.pa)).take f.w)) ∧
            (n ≠ none ∨ (∀ x ∈ s.early, x.agent ≠ a) → v = now)) ∧
      (∀ (f : StoreForm) (foll : Bool) (off : Nat) (n : Option Nat), localStoreForm i = some f → inFile a [f.d, f.a] →
        let va := s.int a f.a + f.imm.signExtend 64
        va.toNat % f.w = 0 → s.localPlace a va f.w = .at_ foll off n →
        ∃ t, exec i s = .next t ∧ Goes s t a s.next ∧
          Frame ((s.flushHeld a).modSide a.pr.1 foll fun x => x.store off (leBytes f.w (s.int a f.d).toNat)) t a []) ∧
      (∀ f : LoadForm, localLoadForm i = some f → inFile a [f.d, f.a] →
        let va := s.int a f.a + f.imm.signExtend 64
        (va.toNat % f.w ≠ 0 → exec i s = .next (s.trapsTo a 0x05 va)) ∧
        ∀ c, va.toNat % f.w = 0 → s.localPlace a va f.w = .fault c → exec i s = .next (s.trapsTo a c va)) ∧
      (∀ f : StoreForm, localStoreForm i = some f → inFile a [f.d, f.a] →
        let va := s.int a f.a + f.imm.signExtend 64
        (va.toNat % f.w ≠ 0 → exec i s = .next (s.trapsTo a 0x05 va)) ∧
        ∀ c, va.toNat % f.w = 0 → s.localPlace a va f.w = .fault c → exec i s = .next (s.trapsTo a c va))
  ) ∧
  (
    ∀ (d : Side) (off : Nat) (l : List (BitVec 8)), d.sp.wf = true →
      (d.bad off l.length = false ∨ l.length = 8 →
        ∀ x, memRead (d.store off l).sp x = if off ≤ x ∧ x < off + l.length then l.getD (x - off) 0 else memRead d.sp x) ∧
      (d.bad off l.length = true → l.length < 8 → d.store off l = d) ∧
      (l.length = 8 → off % 8 = 0 → (d.store off l).bad off 8 = false)
  )

/-- The scalar float instructions of R145–R147 and R149: a later run reads the result of the operation under the rounding mode
in force, the row's flags gain those raised, and with E the mask register says whether a selected flag was raised (R59).

The float compares of R148: a later run reads the predicate; the row's flags gain those raised (R24).

Every NaN that an arithmetic, minimum, maximum or fused operation delivers in one of the six formats is that format's
canonical NaN (R17). -/
def Obligations.ScalarFloatResults : Prop :=
  (
    ∀ (s : State) (a : Agent) (i : Instr) (f : FloatForm),
      Ready s a → s.floatForm a i = some f → f.legal → inFile a (f.d :: f.names) → s.guardOn a f.gd = true →
      ∃ t, exec i s = .next t ∧ Goes s t a s.next ∧
        Frame (s.raise a f.result.2) t a (.int f.d :: if f.ex.e then [.pred f.ex.m] else []) ∧
        (∀ e, (t.endRun a e).int a f.d = if f.d = 0 then 0 else wrap64 f.result.1) ∧
        (f.ex.e = true → ∀ e, (t.endRun a e).pred a f.ex.m =
          if f.ex.m = 0 then BitVec.allOnes 64 else bitWord (s.excsel a &&& f.result.2 ≠ 0))
  ) ∧
  (
    ∀ (s : State) (a : Agent) (i : Instr) (f : FloatCmpForm),
      Ready s a → s.floatCmpForm a i = some f → inFile a f.names →
      ∃ t, exec i s = .next t ∧ Goes s t a s.next ∧ Frame (s.raise a f.result.2) t a [.pred f.pd] ∧
        ∀ e, (t.endRun a e).pred a f.pd = if f.pd = 0 then BitVec.allOnes 64 else bitWord (f.result.1 = true)
  ) ∧
  (
    ∀ (f : FFormat) (mode : RMode) (x y z : Nat), f ∈ [fp64, fp32, fp16, bf16, e5m2, e4m3] →
      (∀ g : FBinFn, (f.unpack (f.bin g mode x y).1).isNan = true → (f.bin g mode x y).1 = f.nan) ∧
      ((f.unpack (f.un .sqrt mode x).1).isNan = true → (f.un .sqrt mode x).1 = f.nan) ∧
      ∀ g : FmaFn, (f.unpack (f.fused g mode x y z).1).isNan = true → (f.fused g mode x y z).1 = f.nan
  )

/-! ## Status registers, traps, strands and queues -/

/-- A getsr that no rule forbids (R150, R151), and rdcyc (R154): a later run reads the register's fields at the places of its
map, other bits zero. A getsr of FPSTATUS also merges some strands' flags (R26).

A setsr that no rule forbids (R4, R150, R152): the next run reads the register with its writable fields replaced, every
other status register reads as before, and a write of TFORCE reaches every row of the pack (R289). Outside a handler a setsr of
STRANDSEL does nothing (R113).

What the spec leaves open here is read or chosen as the model's assumption log says, entries 13, 14, 16, 18, 128. -/
def Obligations.StatusRegisterReadWrite : Prop :=
  (
    (∀ (s : State) (p r : Nat) (d a b : BitVec 6),
      let n := a.toNat * 64 + b.toNat
      let c := Agent.control p r
      Ready s c → inFile c [d] → srExists n → n ≠ 0x029 → ¬ (0x031 ≤ n ∧ n ≤ 0x033) →
      ((s.row p r).status.cmode = .user → ¬ srSupOnly n) → (s.row p r).thread.run.owedSr = [] →
      (n ≠ 0x00A →
        ∃ t, exec (.getsr d a b) s = .next t ∧ Frame s t c [.int d] ∧ Goes s t c s.next ∧
          ∀ e, (t.endRun c e).int c d = if d = 0 then 0 else fieldsWord (s.srFields p r n)) ∧
      (n = 0x00A → (s.row p r).vq = [] →
        ∃ t, exec (.getsr d a b) s = .next t ∧ Frame (s.mergeSome p r) t c [.int d] ∧ Goes s t c s.next ∧
          (∀ e, (t.endRun c e).int c d = if d = 0 then 0 else fieldsWord (t.srFields p r n)) ∧
          (t.row p r).fp.excsel = (s.row p r).fp.excsel ∧ (t.row p r).fp.rm = (s.row p r).fp.rm ∧
          (s.row p r).fp.flags &&& ~~~(t.row p r).fp.flags = 0 ∧
          (t.row p r).fp.flags &&& ~~~((s.row p r).strands.foldl (fun f x => f ||| x.flags) (s.row p r).fp.flags) = 0)) ∧
    (∀ (s : State) (p r k : Nat) (d a b : BitVec 6),
      let n := a.toNat * 64 + b.toNat
      let c := Agent.strand p r k
      Ready s c → srOpen n →
      (n ≠ 0x00A →
        ∃ t, exec (.getsr d a b) s = .next t ∧ Frame s t c [.int d] ∧ Goes s t c s.next ∧
          ∀ e, (t.endRun c e).int c d = if d = 0 then 0 else fieldsWord (s.srFields p r n)) ∧
      (n = 0x00A →
        ∃ t, exec (.getsr d a b) s = .next t ∧ Frame (s.mergeSome p r) t c [.int d] ∧ Goes s t c s.next ∧
          (∀ e, (t.endRun c e).int c d = if d = 0 then 0 else fieldsWord (t.srFields p r n)) ∧
          (s.row p r).fp.flags &&& ~~~(t.row p r).fp.flags = 0)) ∧
    (∀ (s : State) (c : Agent) (d : BitVec 6), Ready s c → inFile c [d] →
      ∃ t, exec (.rdcyc d) s = .next t ∧ Frame s t c [.int d] ∧ Goes s t c s.next ∧
        ∀ e, (t.endRun c e).int c d = if d = 0 then 0 else wrap64 s.cycle)
  ) ∧
  (
    ∀ (s : State) (p r : Nat) (d a b : BitVec 6),
      let n := a.toNat * 64 + b.toNat
      let c := Agent.control p r
      let w := s.row p r
      let v := s.int c d
      let new := srWritten w n (s.srWord p r n) v
      let u := (if n = 0x00A then s.mergeSome p r else s).srPut p r n v (w.status.cmode ≠ .user) (w.status.cmode = .firmware)
      Ready s c → inFile c [d] →
      (n = 0x030 → w.status.intrap = false → w.status.cmode ≠ .user →
        ∃ t, exec (.setsr d a b) s = .next t ∧ Goes s t c s.next ∧ Frame s t c []) ∧
      (srExists n → ¬ (0x031 ≤ n ∧ n ≤ 0x033) → (n = 0x00A → w.vq = []) → (n = 0x030 → w.status.intrap = true) →
      (w.status.cmode = .user → ¬ srSupOnly n ∧ (new ^^^ s.srWord p r n) &&& srSupBits n = 0) →
      (n = 0 → (s.thread c).run.count < 23) →
      ∃ t, exec (.setsr d a b) s = .next t ∧ Goes s t c s.next ∧ Frame u t c [] ∧
        (∀ e, (t.endRun c e).srSeen p r n = new) ∧
        (∀ m, m ≠ n → ¬ (0x031 ≤ m ∧ m ≤ 0x033) → u.srWord p r m = s.srWord p r m) ∧
        (n = 0x050 → w.status.cmode ≠ .user → v.toNat / 2 ^ 12 % 2 ^ 20 ≠ 0 →
          ∀ j, j < (s.pack p).rows.length → (t.row p j).preempt.tforce.toNat = v.toNat / 2 ^ 12 % 2 ^ 20))
  )

/-- The registers of the selected strand (R113, R114). In a handler a read gives the strand's PC, leash or state word with the
handler's own writes in it, 0 where there is no such strand; a write is kept for tret: the strand itself stays as it is, and what
the handler then reads is the PC or leash written, or the state and PEND as R113 says. Outside a handler a read gives the register
as it is or as it was at an earlier instant, and a write does nothing.

A getsr or setsr that a rule forbids traps with the encoding (R4, R150, R151): 0x01 for a number that names no register,
0x04 for what the mode or the strand may not do; a strand's setsr of FPSTATUS does nothing (R26).

What the spec leaves open here is read or chosen as the model's assumption log says, entries 17, 125. -/
def Obligations.StrandRegistersAndForbidden : Prop :=
  (
    ∀ (s : State) (p r : Nat) (d a b : BitVec 6),
      let n := a.toNat * 64 + b.toNat
      let c := Agent.control p r
      let k := (s.row p r).strandsel.toNat
      let v := s.int c d
      let now := (s.row p r).edited k (s.strand p r k)
      Ready s c → inFile c [d] → 0x031 ≤ n → n ≤ 0x033 → (s.row p r).status.cmode ≠ .user →
      (s.row p r).thread.run.owedSr = [] →
      ((s.row p r).strands.length ≤ k →
        (∃ t, exec (.getsr d a b) s = .next t ∧ Frame s t c [.int d] ∧ Goes s t c s.next ∧ ∀ e, (t.endRun c e).int c d = 0) ∧
        ∃ t, exec (.setsr d a b) s = .next t ∧ Frame s t c [] ∧ Goes s t c s.next) ∧
      (k < (s.row p r).strands.length → (s.row p r).status.intrap = false →
        (∃ t x, exec (.getsr d a b) s = .next t ∧ Frame s t c [.int d] ∧ Goes s t c s.next ∧
          (∀ e, (t.endRun c e).int c d = if d = 0 then 0 else x) ∧
          (x = fieldsWord (strandFields (s.strand p r k) n) ∨ x = (s.strand p r k).sample.get n)) ∧
        ∃ t, exec (.setsr d a b) s = .next t ∧ Frame s t c [] ∧ Goes s t c s.next) ∧
      (k < (s.row p r).strands.length → (s.row p r).status.intrap = true →
        (∃ t, exec (.getsr d a b) s = .next t ∧ Frame s t c [.int d] ∧ Goes s t c s.next ∧
          ∀ e, (t.endRun c e).int c d = if d = 0 then 0 else fieldsWord (strandFields now n)) ∧
        ∃ t, exec (.setsr d a b) s = .next t ∧ Frame (s.editStrand p r k n v) t c [] ∧ Goes s t c s.next ∧
          (∀ j, t.strand p r j = s.strand p r j) ∧
          (let new := (t.row p r).edited k (t.strand p r k)
           (n = 0x031 → new.thread.pc = v.setWidth 48) ∧
           (n = 0x032 → new.leash = v.setWidth 48) ∧
           (n = 0x033 →
            new.state =
              (if 6 ≤ v.toNat % 8 then now.state
               else if v.toNat % 8 = 0 then .idle else if v.toNat % 8 = 4 then .faulted
               else if v.toNat % 8 = 5 then .halted else .loose) ∧
            new.pend = (now.pend && !v.getLsbD 7 && (decide (v.toNat % 8 = 4) || decide (6 ≤ v.toNat % 8))))) ∧
          ∀ j, j ≠ k → (t.row p r).edited j (t.strand p r j) = (s.row p r).edited j (s.strand p r j))
  ) ∧
  (
    ∀ (s : State) (c : Agent) (d a b : BitVec 6),
      let n := a.toNat * 64 + b.toNat
      Ready s c → inFile c [d] → n ≠ 0x029 →
      (¬ srExists n →
        exec (.getsr d a b) s = .next (s.trapsTo c 0x01 s.fetch.raw) ∧
        exec (.setsr d a b) s = .next (s.trapsTo c 0x01 s.fetch.raw)) ∧
      (∀ p r, c = .control p r → srExists n → (s.row p r).status.cmode = .user →
        (srSupOnly n →
          exec (.getsr d a b) s = .next (s.trapsTo c 0x04 s.fetch.raw) ∧
          exec (.setsr d a b) s = .next (s.trapsTo c 0x04 s.fetch.raw)) ∧
        ((srWritten (s.row p r) n (s.srWord p r n) (s.int c d) ^^^ s.srWord p r n) &&& srSupBits n ≠ 0 →
          exec (.setsr d a b) s = .next (s.trapsTo c 0x04 s.fetch.raw))) ∧
      (∀ p r k, c = .strand p r k → srExists n →
        (¬ srOpen n → exec (.getsr d a b) s = .next (s.trapsTo c 0x04 s.fetch.raw)) ∧
        (n ≠ 0x00A → exec (.setsr d a b) s = .next (s.trapsTo c 0x04 s.fetch.raw)) ∧
        (n = 0x00A → ∃ t, exec (.setsr d a b) s = .next t ∧ Frame s t c [] ∧ Goes s t c s.next))
  )

/-- Taking a trap in a control thread (R278–R280): with a handler that can be entered, the trap registers, PMODE, CMODE and
INTRAP as R279 gives, a new run at HADDR; with none, the row ends and its pack's failure is recorded once, in order. Reaching the
handler's line is an access, which changes no pack; with no scalar write of the core pending, all of memory that it may change
is the A bit of the line's leaf (R402).

tret (R143, R281): a target that passes the check under PMODE is where the thread goes on, in PMODE, with INTRAP and NEST
clear and the row parked after trap 0x12; another traps 0x03 or as its fetch does. The handler's writes to the strands take effect
(R114): a strand with no leash has the PC and state written, but LOCKSTEP becomes LOOSE where either was written, and HELD becomes
LOOSE.

tret completes (R143, R281, R406) in supervisor or firmware mode with TRAPPC naming a slot of a line in a page that the tables
map and PMODE may fetch: the thread goes on there in PMODE, outside the handler, and no register changes.

What the spec leaves open here is read or chosen as the model's assumption log says, entries 20, 21, 92, 93. -/
def Obligations.TrapEntryAndReturn : Prop :=
  (
    ∀ (s : State) (p r : Nat) (cause : BitVec 8) (pc : BitVec 48) (val : BitVec 64) (elem : BitVec 13),
      let u := ((s.endRun (.control p r) false).modRow p r Row.unslotted).trapRegs p r cause pc val elem
      let h := u.handlerBad p r
      let t := s.takeTrap p r cause pc val elem
      s.has (.control p r) →
      h.2.packs = u.packs ∧ h.2.launches = s.launches ∧
      ((s.core (s.coreOf (.control p r))).l1 = [] →
        h.2.mem = u.mem ∨
          ∃ node j, h.2.mem = memPut u.mem (node + 8 * j) (leBytes 8 (u.nodeEntry node j ||| 0x40#64).toNat)) ∧
      (u.row p r).trap =
        { cause := cause, nest := (s.row p r).status.intrap, mcovf := (s.row p r).trap.mcovf, pc := pc, val := val, elem := elem } ∧
      (h.1 = false → Enters h.2 t p r cause pc val elem) ∧
      (h.1 = true → (s.pack p).launch < s.launches.length →
        (t.row p r).life = .ended ∧
        (t.launch (s.pack p).launch).fails =
          (let old := (s.launch (s.pack p).launch).fails
           if ∃ f ∈ old, f.index = (s.pack p).index then old
           else old ++ [{ index := (s.pack p).index, code := 1, tpc := pc.setWidth 64,
                          tcause := fieldsWord [(9, bit01 (s.row p r).trap.mcovf), (8, bit01 (s.row p r).status.intrap),
                                                (0, cause.toNat)] }]) ∧
        ∀ j, j ≠ r → (t.row p j).life = (s.row p j).life)
  ) ∧
  (
    ∀ (s : State) (p r : Nat),
      let c := Agent.control p r
      let w := s.row p r
      let target := w.trap.pc.signExtend 64
      Ready s c → w.status.cmode ≠ .user → w.thread.run.owedSr = [] →
      (∀ e s', s.checkTarget c target (w.status.pmode = .user) = .error (e, s') →
        exec .tret s = .next (s'.trapsTo c e target)) ∧
      (∀ s', s.checkTarget c target (w.status.pmode = .user) = .ok s' →
        ∃ t, exec .tret s = .next t ∧ Goes s t c w.trap.pc ∧
          (t.row p r).status = { w.returned.status with runlong := (t.row p r).status.runlong } ∧
          (t.row p r).trap = w.returned.trap ∧ (t.row p r).preempt = w.returned.preempt ∧ (t.row p r).edits = [] ∧
          Frame (s'.trapReturn p r w.status.pmode w.trap.pc) t c [] ∧
          ∀ k, k < w.strands.length →
            let d := w.edited k (s.strand p r k)
            d.leash = 0 → (t.strand p r k).thread.pc = d.thread.pc ∧ (t.strand p r k).pend = d.pend ∧
              (t.strand p r k).state =
                if d.state = .held ∨ d.state = .lockstep ∧ ∃ e, tget w.edits k = some e ∧ e.moves = true then .loose else d.state)
  ) ∧
  (
    ∀ (s : State) (p r pa loc : Nat),
      let c := Agent.control p r
      let w := s.row p r
      let target := w.trap.pc.signExtend 64
      let slot := target.toNat / 2 % 32
      Ready s c → w.status.cmode ≠ .user → w.thread.run.owedSr = [] → s.mem.wf = true → target.getLsbD 0 = false →
      Mapped s c (w.status.pmode = .user) (target &&& ~~~0x3F#64) .fetch pa loc → slot ≠ 0 →
      slot ≤ leNat (memBytes s.mem pa 2) / 2 ^ 11 →
      ∃ t, exec .tret s = .next t ∧ Goes s t c w.trap.pc ∧ (t.row p r).status.cmode = w.status.pmode ∧
        (t.row p r).status.intrap = false ∧ (t.row p r).trap = { w.trap with nest := false } ∧
        ∀ b n, b.pr = (p, r) → t.regNow b n = s.regNow b n
  )

/-- The events that deliver a machine check (R297) and a strand fault (R112) between two runs of a control thread outside a
handler: the one that waits, a machine check first, is cleared and trap 0x10 or 0x11 is taken, with the syndrome, or with the lowest pending strand's
word as it was and the strand's number.

What the spec leaves open here is read or chosen as the model's assumption log says, entries 19, 21, 24, 121. -/
def Obligations.AsynchronousTraps : Prop :=
  ∀ (s : State) (p r : Nat), s.atBoundary p r = true →
    (∀ m, (s.row p r).mcheck = some m →
      ∃ t, exec (.machineCheck p r) s = .next t ∧
        t = (s.modRow p r fun w => { w with mcheck := none }).takeTrap p r 0x10 (s.row p r).thread.pc m.syndrome m.elem) ∧
    (∀ k, (s.row p r).mcheck = none → k < (s.row p r).strands.length → (s.strand p r k).state = .faulted →
      (s.strand p r k).pend = true →
      (∀ j, j < k → ¬ ((s.strand p r j).state = .faulted ∧ (s.strand p r j).pend = true)) →
      let u := s.modStrand p r k fun t => { t with pend := false }
      let word := fieldsWord (strandFields (s.strand p r k) 0x033)
      ∃ t, exec (.strandFaultTrap p r) s = .next t ∧
        t = if (s.strand p r k).cause = 0x0E then u.debugBreak p r 0x11 (s.row p r).thread.pc word (BitVec.ofNat 13 k)
            else u.takeTrap p r 0x11 (s.row p r).thread.pc word (BitVec.ofNat 13 k))

/-- stop, heel without a leash, and halt in a strand (R101, R140, R141): the strand is IDLE or HALTED at the instruction's own
address; no register and no memory changes.

fetch and fetchr (R138): to a target that passes the check the strand goes on alone, LOOSE, or at its leash if that is the
target; another target is a strand fault with the target as its value.

fetch and fetchr complete (R138, R406) at a native target whose slot its line has, in a page that the tables map with the
permission to fetch: the strand goes on there alone, LOOSE or at its leash, with its registers as they were.

leash and leashr (R102, R139): the leash is written unchecked; a strand whose next instruction stands there arrives. -/
def Obligations.StrandTransitions : Prop :=
  (
    ∀ (s : State) (p r k : Nat),
      let a := Agent.strand p r k
      Ready s a →
      (∃ t, exec .stop s = .next t ∧ Frame s t a [] ∧ (t.strand p r k).state = .idle ∧
        (t.strand p r k).thread.pc = s.fetch.pc) ∧
      (∃ t, exec .halt s = .next t ∧ Frame s t a [] ∧ (t.strand p r k).state = .halted ∧
        (t.strand p r k).thread.pc = s.fetch.pc) ∧
      ((s.strand p r k).leash = 0 →
        ∃ t, exec .heel s = .next t ∧ Frame s t a [] ∧ (t.strand p r k).state = .idle ∧
          (t.strand p r k).thread.pc = s.fetch.pc) ∧
      (∀ s', (s.strand p r k).leash ≠ 0 → s.checkTarget a (va64 (s.strand p r k).leash) (s.userMode a) = .ok s' →
        ∃ t, exec .heel s = .next t ∧ Frame s' t a [] ∧
          s.arrived t p r k (s.strand p r k).leash (s.strand p r k).leash) ∧
      (∀ c s', (s.strand p r k).leash ≠ 0 → s.checkTarget a (va64 (s.strand p r k).leash) (s.userMode a) = .error (c, s') →
        exec .heel s = .next (s'.trapsTo a c (va64 (s.strand p r k).leash)))
  ) ∧
  (
    ∀ (s : State) (p r k : Nat) (imm : BitVec 38) (b : BitVec 6) (i : Instr) (target : BitVec 64),
      let a := Agent.strand p r k
      Ready s a → s.fetch.sub = false →
      (i = .fetch imm ∧ target = s.targetOf imm.toInt ∧ (s.fetch.adtan → imm &&& 3 = 0) ∨ i = .fetchr b ∧ target = s.int a b) →
      (∀ c s', s.checkTarget a target (s.userMode a) = .error (c, s') → exec i s = .next (s'.trapsTo a c target)) ∧
      (∀ s', s.checkTarget a target (s.userMode a) = .ok s' →
        let dest := s.arriveAt a (target.setWidth 48) false
        ∃ t, exec i s = .next t ∧ Frame s' t a [] ∧
          (s.leashAt p dest (s.strand p r k).leash → s.arrived t p r k dest (s.strand p r k).leash) ∧
          (¬ s.leashAt p dest (s.strand p r k).leash →
            (t.strand p r k).state = .loose ∧ (t.strand p r k).leash = (s.strand p r k).leash ∧
              (t.strand p r k).thread.pc = dest))
  ) ∧
  (
    ∀ (s : State) (p r k : Nat) (imm : BitVec 38) (b : BitVec 6) (i : Instr) (target : BitVec 64) (pa loc : Nat),
      let a := Agent.strand p r k
      let slot := target.toNat / 2 % 32
      Ready s a → s.fetch.sub = false →
      (i = .fetch imm ∧ target = s.targetOf imm.toInt ∧ (s.fetch.adtan → imm &&& 3 = 0) ∨ i = .fetchr b ∧ target = s.int a b) →
      s.mem.wf = true → target.getLsbD 0 = false → Mapped s a true (target &&& ~~~0x3F#64) .fetch pa loc → slot ≠ 0 →
      slot ≤ leNat (memBytes s.mem pa 2) / 2 ^ 11 →
      ∃ t, exec i s = .next t ∧ (t.strand p r k).thread.pc = target.setWidth 48 ∧
        (¬ s.leashAt p (target.setWidth 48) (s.strand p r k).leash → (t.strand p r k).state = .loose) ∧
        ∀ b n, b.pr = (p, r) → t.regNow b n = s.regNow b n
  ) ∧
  (
    ∀ (s : State) (p r k : Nat) (imm : BitVec 38) (b : BitVec 6) (i : Instr) (l : BitVec 48),
      let a := Agent.strand p r k
      Ready s a → s.fetch.sub = false →
      (i = .leash imm ∧ l = (s.targetOf imm.toInt).setWidth 48 ∨ i = .leashr b ∧ l = (s.int a b).setWidth 48) →
      ∃ t, exec i s = .next t ∧ Frame s t a [] ∧
        (s.leashAt p s.next l → s.arrived t p r k s.next l) ∧
        (¬ s.leashAt p s.next l →
          (t.strand p r k).leash = l ∧ (t.strand p r k).state = (s.strand p r k).state ∧ Goes s t a s.next)
  )

/-- RELEASE (R101, R103): the strands held at a leash that every other strand lets go become one LOCKSTEP group there, and no
other strand changes; with one that does not let go, nothing changes. -/
def Obligations.ReleaseFormsGroup : Prop :=
  ∀ (s : State) (p r : Nat) (l : BitVec 48),
    let n := (s.row p r).strands.length
    let held := fun j => j < n ∧ (s.strand p r j).state = .held ∧ (s.strand p r j).leash = l
    s.rowRuns p r = true → (s.row p r).status.intrap = false → l ≠ 0 →
    ∃ t, exec (.release p r l) s = .next t ∧
      ((∃ j, j < n ∧ (s.strand p r j).leash = l ∧ (s.strand p r j).state.letsGo = false) → t = s) ∧
      ((∀ j, j < n → (s.strand p r j).leash = l → (s.strand p r j).state.letsGo = true) →
        (∀ j, held j → (t.strand p r j).state = .lockstep ∧ (t.strand p r j).leash = 0 ∧
          (t.strand p r j).thread.pc = (s.strand p r j).thread.pc ∧ (t.strand p r j).g = (s.strand p r j).g ∧
          (t.strand p r j).p = (s.strand p r j).p ∧ ∀ i, held i → (t.strand p r i).group = (t.strand p r j).group) ∧
        (∀ j, ¬ held j → t.strand p r j = s.strand p r j) ∧ t.rest = s.rest ∧ t.mem = s.mem ∧
        (∀ q, q ≠ p → t.pack q = s.pack q) ∧ ∀ j, j ≠ r → t.row p j = s.row p j)

/-- The cross-lane queues (R106, R107, R144, R198): a send or push appends the register to its link, a receive or pop takes the
oldest entry, seen in a later run; a full or empty link makes the thread wait at its instruction, with QBLK set in a strand; a
strand dispatched as idempotent faults with 0x01.

What the spec leaves open here is read or chosen as the model's assumption log says, entries 126. -/
def Obligations.QueueTransfers : Prop :=
  (∀ (s : State) (p r k : Nat) (q1 : Bool) (d : BitVec 6),
    let a := Agent.strand p r k
    let send := if q1 then Instr.qsendQ1 d else .qsendQ0 d
    let recv := if q1 then Instr.qrecvQ1 d else .qrecvQ0 d
    let out := (s.row p r).link q1 (k + 1)
    let in_ := (s.row p r).link q1 k
    Ready s a →
    ((s.strand p r k).idem = true →
      exec send s = .next (s.trapsTo a 0x01 0) ∧ exec recv s = .next (s.trapsTo a 0x01 0)) ∧
    ((s.strand p r k).idem = false →
      (out.length < 4 → k + 1 < ((s.row p r).chain q1).length →
        ∃ t, exec send s = .next t ∧ Goes s t a s.next ∧ (t.row p r).link q1 (k + 1) = out ++ [s.int a d] ∧
          Frame (s.modRow p r fun w => w.modLink q1 (k + 1) fun _ => out ++ [s.int a d]) t a []) ∧
      (4 ≤ out.length →
        ∃ t, exec send s = .next t ∧ Frame s t a [] ∧ (t.thread a).waiting = some (.qsend q1 d, s.fetch) ∧
          (t.strand p r k).qblk = true ∧ (t.thread a).pc = (s.thread a).pc) ∧
      (∀ v l, in_ = v :: l →
        ∃ t, exec recv s = .next t ∧ Goes s t a s.next ∧ (t.row p r).link q1 k = l ∧
          (∀ e, (t.endRun a e).int a d = if d = 0 then 0 else v) ∧
          Frame (s.modRow p r fun w => w.modLink q1 k fun _ => l) t a [.int d]) ∧
      (in_ = [] →
        ∃ t, exec recv s = .next t ∧ Frame s t a [] ∧ (t.thread a).waiting = some (.qrecv q1 d, s.fetch) ∧
          (t.strand p r k).qblk = true ∧ (t.thread a).pc = (s.thread a).pc))) ∧
  (∀ (s : State) (p r : Nat) (q1 : Bool) (xd : BitVec 5),
    let a := Agent.control p r
    let n := (s.row p r).strands.length
    let push := if q1 then Instr.xqpushQ1 xd else .xqpushQ0 xd
    let pop := if q1 then Instr.xqpopQ1 xd else .xqpopQ0 xd
    let out := (s.row p r).link q1 0
    Ready s a →
    (out.length < 4 → 0 < ((s.row p r).chain q1).length →
      ∃ t, exec push s = .next t ∧ Goes s t a s.next ∧ (t.row p r).link q1 0 = out ++ [s.xr a xd] ∧
        Frame (s.modRow p r fun w => w.modLink q1 0 fun _ => out ++ [s.xr a xd]) t a []) ∧
    (4 ≤ out.length →
      ∃ t, exec push s = .next t ∧ Frame s t a [] ∧ (t.thread a).waiting = some (.xqpush q1 xd, s.fetch)) ∧
    (∀ v l, (s.row p r).vq = [] → (s.row p r).link q1 n = v :: l →
      ∃ t, exec pop s = .next t ∧ Goes s t a s.next ∧ (t.row p r).link q1 n = l ∧
        (∀ e, (t.endRun a e).xr a xd = if xd = 0 then 0 else v) ∧
        Frame (s.modRow p r fun w => w.modLink q1 n fun _ => l) t a [.int (xd.setWidth 6)]) ∧
    ((s.row p r).vq ≠ [] ∨ (s.row p r).link q1 n = [] →
      ∃ t, exec pop s = .next t ∧ Frame s t a [] ∧ (t.thread a).waiting = some (.xqpop q1 xd, s.fetch)))

/-- The events that complete a waiting instruction (R104, R107, R197, R242, R365): a thread of a row that runs, waiting in a
queue operation, an rfetch, an rwait, a tlwait or a barrier, performs the instruction it keeps, with its own latch.

A run that stands at 24 instructions ends, and RUNLONG is set (R63); a shorter one goes on.

Halt in a control thread (R141): while strands hold the lanes, the queue has entries, or outside a handler a strand's fault is
pending it waits; else its row ends with the strands' flags merged, the others live on, and the pack ends with its last row.

What the spec leaves open here is read or chosen as the model's assumption log says, entries 22. -/
def Obligations.RunsWaitsAndHalt : Prop :=
  (
    ∀ (s : State) (a : Agent) (f : Fetch) (i : Instr) (w : Waiting),
      let u := { s with issuer := a, fetch := f }
      s.rowRuns a.pr.1 a.pr.2 = true → (s.thread a).waiting = some (w, f) →
      (match a with
       | .control .. => True
       | .strand p r k => (s.row p r).status.intrap = false ∧
          ((s.strand p r k).state = .lockstep ∨ (s.strand p r k).state = .loose)) →
      ((∃ q1 d, w = .qsend q1 d ∧ i = (if q1 then .qsendQ1 d else .qsendQ0 d)) ∨
       (∃ q1 d, w = .qrecv q1 d ∧ i = (if q1 then .qrecvQ1 d else .qrecvQ0 d)) ∨
       (∃ q1 d, w = .xqpush q1 d ∧ i = (if q1 then .xqpushQ1 d else .xqpushQ0 d)) ∨
       (∃ q1 d, w = .xqpop q1 d ∧ i = (if q1 then .xqpopQ1 d else .xqpopQ0 d)) →
        ∃ t, exec (.queueWaitComplete a) s = .next t ∧ exec i u = .next t) ∧
      (∀ p r, a = .control p r →
        ((∃ imm, w = .rfetch false (some imm) 0 ∧ i = .rfetch imm) ∨ (∃ imm, w = .rfetch true (some imm) 0 ∧ i = .rfetchIdem imm) ∨
         (∃ x, w = .rfetch false none x ∧ i = .rfetchr x) ∨ (∃ x, w = .rfetch true none x ∧ i = .rfetchrIdem x) →
          ∃ t, exec (.rfetchTakeEffect p r) s = .next t ∧ exec i u = .next t) ∧
        (w = .rwait → ∃ t, exec (.rwaitComplete p r) s = .next t ∧ exec .rwait u = .next t) ∧
        ((∃ gd x y sc, w = .tlwait gd x y sc ∧ i = .tlwait gd x y sc) →
          ∃ t, exec (.tlwaitReturn p r) s = .next t ∧ exec i u = .next t) ∧
        ((∃ n, w = .barWait n ∧ i = .barWait n) ∨ (∃ n, w = .barSync n ∧ i = .barSync n) →
          ∃ t, exec (.barWaitReturn p r) s = .next t ∧ exec i u = .next t))
  ) ∧
  (
    ∀ (s : State) (a : Agent), s.has a →
      ∃ t, exec (.runLimit a) s = .next t ∧
        (24 ≤ (s.thread a).run.count →
          (t.thread a).run = Run.empty ∧ (t.row a.pr.1 a.pr.2).status.runlong = true ∧ (t.thread a).pc = (s.thread a).pc ∧
          Frame s t a []) ∧
        ((s.thread a).run.count < 24 → t = s)
  ) ∧
  (
    ∀ (s : State) (p r : Nat), Ready s (.control p r) →
      let pending := (s.row p r).status.intrap = false ∧ ∃ k ∈ (s.row p r).strands, k.state = .faulted ∧ k.pend = true
      ((s.row p r).strandsActive = true ∨ (s.row p r).vq ≠ [] ∨ pending →
        ∃ t, exec .halt s = .next t ∧ Frame s t (.control p r) [] ∧ (t.row p r).thread.waiting = some (.room, s.fetch) ∧
          (t.row p r).life = (s.row p r).life) ∧
      ((s.row p r).strandsActive = false → (s.row p r).vq = [] → ¬ pending →
        ∃ t, exec .halt s = .next t ∧ (t.row p r).life = .ended ∧
          (t.row p r).fp.flags = (s.row p r).strands.foldl (fun f k => f ||| k.flags) (s.row p r).fp.flags ∧ (t.row p r).tx = none ∧
          (∀ k, (t.strand p r k).state = (s.strand p r k).state) ∧
          (∀ n, t.regNow (.control p r) n = s.regNow (.control p r) n) ∧
          (∀ j, j ≠ r → (t.row p j).life = (s.row p j).life) ∧
          ((s.pack p).ospec = none → (∀ j, j < (s.pack p).rows.length → j ≠ r → (s.row p j).life = .ended) →
            (t.pack p).life = .ended) ∧
          (∀ j, j < (s.pack p).rows.length → j ≠ r → (s.row p j).life = .live → (t.pack p).life = (s.pack p).life) ∧
          (∀ q, q ≠ p → (t.pack q).life = (s.pack q).life) ∧
          (s.mem.wf = true → ∀ x, Untraced s p x → memRead t.mem x = memRead s.mem x))
  )

/-! ## Vector instructions -/

/-- A per-element instruction with a free queue entry, group bases that are multiples of the group factor, and a type its
operation is defined for: the thread goes on, and the row's queue has one more entry, with the work, type and scalar operands
as they stood (R170, R190). A full queue lets nothing happen; a bad base or type raises 0x01 (R165, R194).

What the spec leaves open here is read or chosen as the model's assumption log says, entries 25. -/
def Obligations.VectorQueueIssue : Prop :=
  ∀ (s : State) (p r : Nat) (i : Instr) (f : QueueForm),
    let a := Agent.control p r
    let c := s.vctx p r
    Ready s a → s.queueForm a i = some f → f.legal →
    (64 ≤ (s.row p r).vq.length → exec i s = .next s) ∧
    ((s.row p r).vq.length < 64 → ¬ ((∀ b ∈ f.groups, b.toNat % c.grp = 0) ∧ f.fits c) →
      exec i s = .next (s.trapsTo a 0x01 s.fetch.raw)) ∧
    ((s.row p r).vq.length < 64 → (∀ b ∈ f.groups, b.toNat % c.grp = 0) → f.fits c →
      ∃ t, exec i s = .next t ∧ Goes s t a s.next ∧
        (t.row p r).vq = (s.row p r).vq ++ [s.entryOf p r f.op f.gd] ∧
        Frame (s.modRow p r fun w => { w with vq := w.vq ++ [s.entryOf p r f.op f.gd], issueSeq := w.issueSeq + 1 }) t a [])

/-- What the lanes leave when they execute a computing entry at the head of a row's queue (R57, R164, R199–R203, R206, R208):
each active element and mask bit as the tables say, from the registers as they stood; every other element, bit and register as
it was; the flags raised joined to FPSTATUS, and with E the exception mask (R59). Strands that hold the lanes keep the entry
waiting (R191). No register of the strands is poisoned (R296).

What the spec leaves open here is read or chosen as the model's assumption log says, entries 25, 29. -/
def Obligations.VectorElementResults : Prop :=
  ∀ (s : State) (p r : Nat) (x : VEntry) (rest : List VEntry) (vd : Option (BitVec 6)) (md : Option (BitVec 5)) (ex : Exc),
    let w := s.row p r
    let c := x.ctx
    let wv := c.wv w.width
    let st := w.strands
    let act := elemActive st wv c.vl x.guard
    let eff := x.op.onElem c wv st
    s.lanesRun p r = true → w.vq = x :: rest → (∀ y ∈ rest, y.op.loadsPending = false) → (∀ k ∈ st, k.bad = []) →
    x.op.dests = some (vd, md, ex) → c.sound w → (∀ b, vd = some b → b.toNat % c.grp = 0) →
    (match x.op with
     | .compress .. => x.guard.g = 0
     | .expand .. => x.guard.g = 0
     | .ins .. => x.guard.g = 0
     | _ => True) →
    ∃ t, exec (.vqueueExecute p r) s = .next t ∧
      (w.lanesFree = false → (t.row p r).strands = st ∧ (t.row p r).vq = w.vq ∧ t.mem = s.mem) ∧
      (w.lanesFree = true →
        let lt := (t.row p r).strands
        Laned s t p r ∧ (t.row p r).vq = rest ∧ lt.length = st.length ∧
        (∀ b e, vd = some b → e < wv * c.grp * (64 / c.ew) →
          elemGet lt wv c.ew b e =
            if groupReg c wv b e = 0 then 0
            else if act e then ((eff e).value.map fun v => v % 2 ^ c.ew).getD (elemGet st wv c.ew b e)
            else elemGet st wv c.ew b e) ∧
        (∀ k n, (k < wv → ∀ b, vd = some b → ¬ inGroup c b n) →
          (lt.getD k Strand.idle).greg n = (st.getD k Strand.idle).greg n) ∧
        (∀ m e, e < 64 * wv →
          maskGet lt wv m e =
            if m = 0 then true
            else if act e = true ∧ ex.e = true ∧ m = ex.m then decide (c.excsel &&& (eff e).flags ≠ 0)
            else if act e = true ∧ md = some m then (eff e).bit.getD (maskGet st wv m e)
            else maskGet st wv m e) ∧
        (∀ e, e < 64 * wv → mdGet lt wv e = if act e then (eff e).mark.getD (mdGet st wv e) else mdGet st wv e) ∧
        (∀ k, { lt.getD k Strand.idle with g := Vector.replicate 64 0, p := Vector.replicate 32 0, md := 0 } =
          { st.getD k Strand.idle with g := Vector.replicate 64 0, p := Vector.replicate 32 0, md := 0 }) ∧
        (∀ k, wv ≤ k → lt.getD k Strand.idle = st.getD k Strand.idle) ∧
        (t.row p r).fp.flags =
          (List.range c.vl).foldl (fun f e => if act e then f ||| (eff e).flags else f) w.fp.flags)

/-- The instructions that wait for the lanes and write an x register (R170, R174, R204, R206, R207): behind an empty queue with the
lanes free they complete, a later run reads the result, the flags raised join FPSTATUS, and the queue entry is given back; before
that they wait with it.

setvl (R195, R285): a brace span on an unbraced row raises 0x01; a request to pre-empt, outside a handler with every strand
IDLE or HALTED and every link empty, raises 0x12 with value 0; else the granted length is the request up to VLMAX of the new
type, in VL and in D, VTYPE is the new type and VSTART 0. -/
def Obligations.VectorScalarAndLength : Prop :=
  (
    ∀ (s : State) (p r : Nat) (i : Instr) (f : LaneScalarForm),
      let a := Agent.control p r
      let c := s.vctx p r
      Ready s a → s.laneScalarForm a c (s.row p r) i = some f → f.legal →
      (¬ ((∀ b ∈ f.groups, b.toNat % c.grp = 0) ∧ f.fits) → exec i s = .next (s.trapsTo a 0x01 s.fetch.raw)) ∧
      ((∀ b ∈ f.groups, b.toNat % c.grp = 0) → f.fits →
        s.WaitsForLanes s p r i f.gd ∧
        (¬ (s.row p r).behind → (s.row p r).vq.length < 64 ∨ (s.row p r).holdsEntry →
          ∃ t, exec i s = .next t ∧ Goes s t a s.next ∧ (t.row p r).vq = [] ∧
            Frame (((s.modRow p r fun w => { w with vq := [] }).raise a f.result.2).withRecord p r c f.gd (s.takenAt p r)) t a
              [.int (f.xd.setWidth 6)] ∧
            ∀ e, (t.endRun a e).xr a f.xd = if f.xd = 0 then 0 else f.result.1))
  ) ∧
  (
    ∀ (s : State) (p r : Nat) (xd xa vt : BitVec 5),
      let a := Agent.control p r
      let w := s.row p r
      let wv := if vt.getLsbD 4 then 2 * w.width.grant.toNat else w.width.grant.toNat
      let vlmax := wv * 2 ^ (vt.toNat / 4 % 4) * (64 / (8 * 2 ^ (vt.toNat % 4)))
      let vl := min (s.xr a xa).toNat vlmax
      let pending := w.preempt.req = true ∧ w.status.intrap = false ∧
        (∀ k ∈ w.strands, k.state = .idle ∨ k.state = .halted) ∧ (∀ l ∈ w.q0, l = []) ∧ (∀ l ∈ w.q1, l = [])
      Ready s a →
      (vt.getLsbD 4 = true → w.width.braced = false → exec (.setvl xd xa vt) s = .next (s.trapsTo a 0x01 s.fetch.raw)) ∧
      ((vt.getLsbD 4 = true → w.width.braced = true) → pending → exec (.setvl xd xa vt) s = .next (s.trapsTo a 0x12 0)) ∧
      ((vt.getLsbD 4 = true → w.width.braced = true) → ¬ pending →
        ∃ t, exec (.setvl xd xa vt) s = .next t ∧ Goes s t a s.next ∧
          Frame (s.modRow p r fun w => { w with
            vl := BitVec.ofNat 14 vl, vstart := 0,
            vtype := { bs := vt.getLsbD 4, g := BitVec.ofNat 2 (vt.toNat / 4), ew := BitVec.ofNat 2 vt.toNat } }) t a
            [.int (xd.setWidth 6)] ∧
          ∀ e, (t.endRun a e).xr a xd = if xd = 0 then 0 else wrap64 vl)
  )

/-- The four dispatches and rwait (R101, R104, R196, R197). While the queue has entries or strands hold the lanes they wait. An
rfetch to a target that passes the check in user mode makes one LOCKSTEP group of the IDLE strands that ROWMASK binds, at the
target, with no leash; the other strands stay as they are, and so does every register; an .idem form records the set and the
target, the others leave the record. A target that does not pass traps. rwait merges the strands' flags and is a safe point.

The four dispatches complete (R104, R196, R406) once the queue is empty and no strand holds the lanes, at a native target whose
slot its line has, in a page that the tables map with the permission to fetch in user mode: the thread goes on with its registers,
and every IDLE strand that ROWMASK binds is LOCKSTEP at the target.

vdrain and its forms, and the strip-ahead hint (R175, R220): with a queued load not yet read, or a queued store not yet
written, of the kind named, the thread waits; else it goes on, and no earlier write of its own is left in an L1. The hint
changes nothing.

What the spec leaves open here is read or chosen as the model's assumption log says, entries 30. -/
def Obligations.DispatchWaitAndDrain : Prop :=
  (
    ∀ (s : State) (p r : Nat),
      let a := Agent.control p r
      let w := s.row p r
      let idle := w.vq = [] ∧ w.strandsActive = false
      Ready s a →
      (∀ (i : Instr) (idem : Bool) (target : BitVec 64) (wait : Waiting),
        ((∃ imm, i = (if idem then .rfetchIdem imm else .rfetch imm) ∧ target = s.targetOf imm.toInt ∧
            wait = .rfetch idem (some imm) 0 ∧ (s.fetch.adtan → imm &&& 3 = 0)) ∨
         (∃ xa, i = (if idem then .rfetchrIdem xa else .rfetchr xa) ∧ target = s.xr a xa ∧ wait = .rfetch idem none xa)) →
        (¬ idle → ∃ t, exec i s = .next t ∧ Frame s t a [] ∧ (t.thread a).waiting = some (wait, s.fetch)) ∧
        (∀ c s', idle → s.checkTarget a target true = .error (c, s') → exec i s = .next (s'.trapsTo a c target)) ∧
        (∀ s', idle → s.checkTarget a target true = .ok s' → w.thread.run.owedSr = [] →
          let bound := fun k => decide (k < w.strands.length) && w.rowmask.getLsbD (k % w.width.grant.toNat) &&
            decide ((s.strand p r k).state = .idle)
          ∃ t, exec i s = .next t ∧ Goes s t a s.next ∧
            (∀ n, t.regNow a n = s.regNow a n) ∧ (∀ q, q ≠ p → t.pack q = s.pack q) ∧ (∀ j, j ≠ r → t.row p j = s.row p j) ∧
            (∀ k, bound k = false → t.strand p r k = s.strand p r k) ∧
            (∀ k, bound k = true →
              (t.strand p r k).state = .lockstep ∧ (t.strand p r k).thread = Thread.start (target.setWidth 48) ∧
              (t.strand p r k).leash = 0 ∧ (t.strand p r k).idem = idem ∧ (t.strand p r k).g = (s.strand p r k).g ∧
              (t.strand p r k).p = (s.strand p r k).p ∧ ∀ j, bound j = true → (t.strand p r j).group = (t.strand p r k).group) ∧
            (t.row p r).recorded =
              if idem then some { entry := target.setWidth 48, set := (List.range w.strands.length).filter bound }
              else w.recorded)) ∧
      (∀ (idem : Bool) (imm : BitVec 38), idle → s.fetch.adtan = true → imm &&& 3 ≠ 0 →
        exec (if idem then .rfetchIdem imm else .rfetch imm) s = .next (s.trapsTo a 0x03 (s.targetOf imm.toInt))) ∧
      (¬ idle → ∃ t, exec .rwait s = .next t ∧ Frame s t a [] ∧ (t.thread a).waiting = some (.rwait, s.fetch)) ∧
      (idle →
        ∃ t, exec .rwait s = .next t ∧ Goes s t a (s.arriveAt a s.next true) ∧ (∀ n, t.regNow a n = s.regNow a n) ∧
          (t.row p r).fp.flags = w.strands.foldl (fun f k => f ||| k.flags) w.fp.flags ∧
          (∀ k, (t.strand p r k).flags = 0 ∧ (t.strand p r k).g = (s.strand p r k).g ∧
            (t.strand p r k).p = (s.strand p r k).p ∧ (t.strand p r k).state = (s.strand p r k).state) ∧
          (∀ q, q ≠ p → t.pack q = s.pack q) ∧ (∀ j, j ≠ r → t.row p j = s.row p j) ∧
          (Calm s → Frame (s.mergeFlags p r) t a []))
  ) ∧
  (
    ∀ (s : State) (p r : Nat) (i : Instr) (target : BitVec 64) (pa loc : Nat),
      let a := Agent.control p r
      let w := s.row p r
      let slot := target.toNat / 2 % 32
      Ready s a → w.vq = [] → w.strandsActive = false →
      ((∃ imm, (i = .rfetch imm ∨ i = .rfetchIdem imm) ∧ target = s.targetOf imm.toInt ∧ (s.fetch.adtan → imm &&& 3 = 0)) ∨
        ∃ xa, (i = .rfetchr xa ∨ i = .rfetchrIdem xa) ∧ target = s.xr a xa) →
      s.mem.wf = true → target.getLsbD 0 = false → Mapped s a true (target &&& ~~~0x3F#64) .fetch pa loc → slot ≠ 0 →
      slot ≤ leNat (memBytes s.mem pa 2) / 2 ^ 11 →
      ∃ t, exec i s = .next t ∧ Goes s t a s.next ∧ (∀ b n, b.pr = (p, r) → t.regNow b n = s.regNow b n) ∧
        (w.thread.run.owedSr = [] →
          ∀ k, k < w.strands.length → w.rowmask.getLsbD (k % w.width.grant.toNat) = true → (s.strand p r k).state = .idle →
            (t.strand p r k).state = .lockstep ∧ (t.strand p r k).thread.pc = target.setWidth 48)
  ) ∧
  (
    (∀ (s : State) (p r : Nat) (i : Instr) (f : VOp → Bool),
      let a := Agent.control p r
      Ready s a →
      (i = .vdrainLd ∧ f = VOp.loadsPending ∨ i = .vdrainSt ∧ f = VOp.storesPending ∨
        i = .vdrain ∧ f = fun o => o.loadsPending || o.storesPending) →
      ((∃ y ∈ (s.row p r).vq, f y.op = true) →
        ∃ t, exec i s = .next t ∧ Frame s t a [] ∧ (t.thread a).waiting = some (.room, s.fetch)) ∧
      ((∀ y ∈ (s.row p r).vq, f y.op = false) →
        ∃ t, exec i s = .next t ∧ Goes s t a s.next ∧ (∀ b n, b.pr = (p, r) → t.regNow b n = s.regNow b n) ∧
          (∀ y ∈ (t.core (s.pack p).core).l1, y.agent ≠ a) ∧ (Calm s → Frame s t a []))) ∧
    ∀ (s : State) (p r : Nat), ∃ t, exec (.stripAheadHint p r) s = .next t ∧ t = s
  )

/-- The ordered sum of the lanes, in every float element format (R42): from init, each element below VL that is active under
the governing mask is added in ascending order, every addition rounded to nearest even in the element format, and the flags
joined; with no element active the result is init, unrounded. -/
def Obligations.OrderedSum : Prop :=
  ∀ (half : Bool) (l : List Strand) (c : VCtx) (wv : Nat) (gd : Guard) (va : BitVec 6) (init : BitVec 64),
    let first := init.toNat % 2 ^ c.ew
    (c.ew = 16 ∨ half = false ∧ (c.ew = 32 ∨ c.ew = 64)) →
    laneReduce .ordered half l c wv gd va init =
      (List.range c.vl).foldl (fun acc e =>
        if elemActive l wv c.vl gd e then
          (((elemFormat c.ew half).bin .add .rne acc.1 (elemGet l wv c.ew va e)).1,
            acc.2 ||| ((elemFormat c.ew half).bin .add .rne acc.1 (elemGet l wv c.ew va e)).2)
        else acc) (first, 0) ∧
    ((∀ e, e < c.vl → elemActive l wv c.vl gd e = false) → laneReduce .ordered half l c wv gd va init = (first, 0))

/-- Issue of the vector memory forms (R172, R192, R193, R209–R215): the elements to perform are checked in ascending order at
the addresses of R209; when all pass, the queue takes the work, which may already have read some data (R171), VSTART is 0 after
an in-order form, and no register changes. An indexed form first waits, with its queue entry, for its offsets.

A vector memory form that meets a failing element traps there (R192, R193, R211, R212, R282): the trap registers name the
cause, its address and the element; VSTART holds the element after an in-order form; the elements before it, and for an indexed
form all that pass, stay queued, unless the row ends in a transaction (R280, R436). vldff beyond VSTART shortens VL to the element
instead.

What the spec leaves open here is read or chosen as the model's assumption log says, entries 26, 27, 28. -/
def Obligations.VectorMemoryIssue : Prop :=
  (
    ∀ (s : State) (p r : Nat) (i : Instr),
      let a := Agent.control p r
      let c := s.vctx p r
      let w := s.row p r
      Ready s a →
      (∀ (f : VMemForm) (acc : List ElemAcc) (u : State),
        s.vmemForm a c i = some f → f.legal → f.fits → w.vq.length < 64 → f.vd.toNat % c.grp = 0 →
        w.guardSettled f.gd = true → s.elemStop a c.vstart c.vl = none →
        checkElems a f.addr (c.ew / 8) f.kind (inOrderElems w c f.gd) s [] = .pass acc u →
        (acc.map fun x => (x.e, x.va)) = (inOrderElems w c f.gd).map (fun e => (e, f.addr e)) ∧
        ∃ t y, exec i s = .next t ∧ Goes s t a s.next ∧ (t.row p r).vq = w.vq ++ [y] ∧
          { y with op := y.op.unread } = s.entryOf p r (f.op acc).unread f.gd ∧ (t.row p r).vstart = 0 ∧
          (t.row p r).vl = w.vl ∧ (∀ b n, b.pr = (p, r) → t.regNow b n = s.regNow b n) ∧
          (∀ q, q ≠ p → t.pack q = s.pack q) ∧ (∀ j, j ≠ r → t.row p j = s.row p j) ∧
          (Calm s → u.mem.wf = true → ∀ x, Untraced s p x → memRead t.mem x = memRead u.mem x)) ∧
      (∀ (f : VSpForm) (acc : List SpAcc) (u : State),
        s.vspForm a c i = some f → f.legal → w.vq.length < 64 → f.vd.toNat % c.grp = 0 → w.guardSettled f.gd = true →
        s.elemStop a c.vstart c.vl = none → checkSp p r f.addr (c.ew / 8) s (inOrderElems w c f.gd) [] = .pass acc u →
        (acc.map fun x => x.e) = inOrderElems w c f.gd ∧
        ∃ t y, exec i s = .next t ∧ Goes s t a s.next ∧ (t.row p r).vq = w.vq ++ [y] ∧
          { y with rings := [] } = s.entryOf p r (f.op acc) f.gd ∧
          Frame (s.modRow p r fun w => { w with vq := w.vq ++ [y], issueSeq := w.issueSeq + 1, vstart := 0 }) t a []) ∧
      (∀ (f : VIndexForm) (acc : List ElemAcc) (u : State),
        s.vindexForm a i = some f → f.gd.wf → f.vd.toNat % c.grp = 0 → f.vb.toNat % c.grp = 0 →
        s.WaitsForLanes s p r i f.gd ∧
        (¬ w.behind → w.vq.length < 64 ∨ w.holdsEntry →
          checkIndexed a (fun e => wrap64 (f.base.toNat + elemGet w.strands (c.wv w.width) c.ew f.vb e)) (c.ew / 8) f.kind
            (indexedElems w c f.gd) (s.modRow p r fun w => { w with vq := [] }) = (acc, u, none) →
          (acc.map fun x => x.e) = indexedElems w c f.gd ∧
          ∃ t, exec i s = .next t ∧ Goes s t a s.next ∧ (t.row p r).vq = [s.entryOf p r (f.op acc) f.gd] ∧
            Frame (u.modRow p r fun w => { w with
              vq := [s.entryOf p r (f.op acc) f.gd], issueSeq := w.issueSeq + 1 }) t a [])) ∧
      (∀ f : VLaneForm,
        let l := fun e => wrap64 (f.base.toNat + elemGet w.strands (c.wv w.width) c.ew f.vb e)
        let acc := (indexedElems w c f.gd).map fun e =>
          let at_ := sliceAt w.width.grant.toNat (c.wv w.width) e (l e)
          ({ e := e, follower := at_.1, off := at_.2, landed := none, bad := false } : SpAcc)
        s.vlaneForm a i = some f → f.gd.wf → f.vd.toNat % c.grp = 0 → f.vb.toNat % c.grp = 0 →
        s.WaitsForLanes s p r i f.gd ∧
        (¬ w.behind → w.vq.length < 64 ∨ w.holdsEntry →
          (∀ e ∈ indexedElems w c f.gd, (l e).toNat % (c.ew / 8) = 0 ∧ (l e).toNat < 2048 * (s.pack p).units) →
          ∃ t, exec i s = .next t ∧ Goes s t a s.next ∧ (t.row p r).vq = [s.entryOf p r (f.op acc) f.gd] ∧
            Frame (s.modRow p r fun w => { w with
              vq := [s.entryOf p r (f.op acc) f.gd], issueSeq := w.issueSeq + 1 }) t a []))
  ) ∧
  (
    ∀ (s : State) (p r : Nat) (i : Instr) (u : State) (e : Nat) (cause : BitVec 8) (va : BitVec 64),
      let a := Agent.control p r
      let c := s.vctx p r
      let w := s.row p r
      let stops := fun (t : State) =>
        (t.row p r).trap.cause = cause ∧ (t.row p r).trap.val = va ∧ (t.row p r).trap.elem = BitVec.ofNat 13 e ∧
        (t.row p r).trap.pc = s.fetch.pc ∧ (∀ b n, b.pr = (p, r) → t.regNow b n = s.regNow b n)
      let stays := fun (t : State) => w.tx = none ∨ (t.row p r).life = .live
      Ready s a →
      (∀ (f : VMemForm) (acc : List ElemAcc),
        s.vmemForm a c i = some f → f.legal → f.fits → w.vq.length < 64 → f.vd.toNat % c.grp = 0 →
        w.guardSettled f.gd = true → s.elemStop a c.vstart c.vl = none →
        checkElems a f.addr (c.ew / 8) f.kind (inOrderElems w c f.gd) s [] = .fail acc u e cause va →
        va = f.addr e ∧ (acc.map fun x => x.e) = (inOrderElems w c f.gd).filter (fun j => decide (j < e)) ∧
        ∃ t y, exec i s = .next t ∧ y.op.unread = (f.op acc).unread ∧
          (stays t → (t.row p r).vq = (if f.trims = true ∧ c.vstart < e then w else w.unslotted).vq ++ [y]) ∧
          (if f.trims = true ∧ c.vstart < e then
            Goes s t a s.next ∧ (t.row p r).vl = BitVec.ofNat 14 e ∧ (t.row p r).vstart = 0
          else stops t ∧ (t.row p r).vstart = BitVec.ofNat 13 e ∧ y.stop = true)) ∧
      (∀ (f : VSpForm) (acc : List SpAcc),
        s.vspForm a c i = some f → f.legal → w.vq.length < 64 → f.vd.toNat % c.grp = 0 → w.guardSettled f.gd = true →
        s.elemStop a c.vstart c.vl = none →
        checkSp p r f.addr (c.ew / 8) s (inOrderElems w c f.gd) [] = .fail acc u e cause va →
        ∃ t y, exec i s = .next t ∧ (stays t → (t.row p r).vq = w.unslotted.vq ++ [y]) ∧
          y.op.unread = (f.op acc).unread ∧ stops t ∧
          (t.row p r).vstart = BitVec.ofNat 13 e ∧ y.stop = true) ∧
      (∀ (f : VIndexForm) (acc : List ElemAcc),
        s.vindexForm a i = some f → f.gd.wf → f.vd.toNat % c.grp = 0 → f.vb.toNat % c.grp = 0 →
        ¬ w.behind → w.vq.length < 64 ∨ w.holdsEntry →
        checkIndexed a (fun e => wrap64 (f.base.toNat + elemGet w.strands (c.wv w.width) c.ew f.vb e)) (c.ew / 8) f.kind
          (indexedElems w c f.gd) (s.modRow p r fun w => { w with vq := [] }) = (acc, u, some (e, cause)) →
        va = wrap64 (f.base.toNat + elemGet w.strands (c.wv w.width) c.ew f.vb e) →
        ∃ t y, exec i s = .next t ∧ (stays t → (t.row p r).vq = [y]) ∧ stops t ∧ y.stop = true ∧
          (match y.op with
           | .loadX _ _ l st => (l.map fun x => x.e) = acc.map (fun x => x.e) ∧ st = true
           | .storeX _ l st => l = acc ∧ st = true
           | _ => False))
  )

/-- A load that executes at the head of a row's queue (R171, R210, R214, R215): every element it performs takes its datum, what
was read before or what memory or scratchpad holds now; nothing else of the registers or memory changes, and md as R193 says.

A store that executes at the head of a row's queue (R210, R211, R214–R217): in ascending element order its bytes go to the
elements' addresses, and no other byte of memory or of the scratchpads changes; no register changes, md as R193 says; after
vstrc each line it wrote carries its count (R414).

What the spec leaves open here is read or chosen as the model's assumption log says, entries 26, 29, 39, 129. -/
def Obligations.VectorMemoryExecutes : Prop :=
  (
    ∀ (s : State) (p r : Nat) (x : VEntry) (rest : List VEntry) (vd : BitVec 6) (es : List (Nat × BitVec 64))
      (mk : Option Bool),
      let w := s.row p r
      let c := x.ctx
      let wv := c.wv w.width
      let st := w.strands
      s.lanesRun p r = true → w.lanesFree = true → w.vq = x :: rest → (∀ y ∈ rest, y.op.loadsPending = false) →
      (∀ k ∈ st, k.bad = []) → Calm s →
      x.op.fetched s p (c.ew / 8) = some (vd, es, mk) → x.op.plainElems s p (c.ew / 8) → c.sound w → vd.toNat % c.grp = 0 →
      (es.map fun y => y.1).Nodup → (∀ y ∈ es, y.1 < c.vl) →
      ∃ t, exec (.vqueueExecute p r) s = .next t ∧
        (let lt := (t.row p r).strands
         Laned s t p r ∧ (t.row p r).vq = rest ∧ (t.row p r).fp = w.fp ∧ lt.length = st.length ∧
         (∀ e, e < wv * c.grp * (64 / c.ew) →
           elemGet lt wv c.ew vd e =
             if groupReg c wv vd e = 0 then 0
             else ((es.find? fun y => y.1 == e).map fun y => y.2.toNat % 2 ^ c.ew).getD (elemGet st wv c.ew vd e)) ∧
         (∀ k n, (k < wv → ¬ inGroup c vd n) → (lt.getD k Strand.idle).greg n = (st.getD k Strand.idle).greg n) ∧
         (∀ k, { lt.getD k Strand.idle with g := Vector.replicate 64 0, md := 0 } =
           { st.getD k Strand.idle with g := Vector.replicate 64 0, md := 0 }) ∧
         marked st lt wv (mk.map fun b => (es.map fun y => y.1, b)))
  ) ∧
  (
    ∀ (s : State) (p r : Nat) (x : VEntry) (rest : List VEntry) (o : Stores),
      let w := s.row p r
      let c := x.ctx
      let wv := c.wv w.width
      let st := w.strands
      s.lanesRun p r = true → w.lanesFree = true → w.vq = x :: rest → (∀ y ∈ rest, y.op.loadsPending = false) →
      (∀ k ∈ st, k.bad = []) → Calm s →
      x.op.stored st c wv (dieOf (s.pack p).core) = some o → x.op.plainElems s p (c.ew / 8) → c.sound w →
      s.mem.wf = true → (s.side p false).sp.wf = true → (s.side p true).sp.wf = true → p < s.packs.length →
      ∃ t, exec (.vqueueExecute p r) s = .next t ∧ (t.row p r).vq = rest ∧
        (∀ y, (∀ m ∈ o.mem, s.mailboxBusy m.1 m.2.length = false) → (∀ q ∈ s.partitions, ∀ m ∈ o.mem,
            ¬ (q.mailbox < m.1 + m.2.length ∧ m.1 < q.mailbox + 8)) →
          memRead t.mem y = overlay o.mem y (memRead s.mem y)) ∧
        (∀ y, memRead (t.side p false).sp y = overlay o.lead y (memRead (s.side p false).sp y)) ∧
        (∀ y, memRead (t.side p true).sp y = overlay o.foll y (memRead (s.side p true).sp y)) ∧
        (∀ b n, b.pr = (p, r) → t.regNow b n = s.regNow b n) ∧ marked st (t.row p r).strands wv o.marks ∧
        (∀ q, q ≠ p → t.pack q = s.pack q) ∧ (∀ j, j ≠ r → t.row p j = s.row p j) ∧
        (∀ n vd acc, x.op = .store (.readerCount n) vd acc →
          ∀ y ∈ acc, y.xl.repl = false → y.xl.nc = false →
            (tget t.counted (y.xl.pa / 64)).map (fun k => k.count) = some n.toNat)
  )

/-! ## Atomics, synchronization and memory order -/

/-- A scalar atomic whose guard is on (R350–R354): the first check that fails traps with ea, as a poisoned line does, with nothing
ordered; else, past the thread's writes of those bytes and, with release order and unless a cas fails, all that the release covers, memory holds the new value at ea and no other byte changes, a later run reads the old value, zero-extended, and the flags of fadd join FPSTATUS. Stated for a line of local
memory without versions or reader count.

The scalar atomics complete (R350–R354, R394–R402): at an aligned address that the thread's tables map by a readable and writable
page of local memory, a later run reads the old value, zero-extended; no other register changes, and no byte of memory but those
at ea and those of the leaf's entry.

lda, lda32, strl and strl32 with their guard on (R356, R357): they check and act as the plain load or store of their size. A
load finds its datum in program order, and the row has acquired the ring edits released there at pack scope or wider (R276, R338).
The thread's writes before a store are visible to its core first; the store is held in the L1 where its scope spans cores
(R337).

The ordered accesses complete (R356, R357, R394–R402): at an aligned address that the thread's tables map by a page of local memory
with the permission needed, a later run reads the bytes there, zero-extended, or the bytes stored stand in the core's L1; no other
register changes, and no byte of memory but those of the leaf's entry.

A vector atomic (R193, R211, R218, R219): behind an empty queue with the lanes free, with every element passing its check on
unversioned local memory, the updates are made in ascending element order, each seeing the one before; with `old` the group
takes the values before each; md is clear. Until then it waits with its queue entry. A failing element traps with nothing applied but
what walks set.

What the spec leaves open here is read or chosen as the model's assumption log says, entries 37 to 39, 43. -/
def Obligations.AtomicsAndOrderedAccesses : Prop :=
  (
    ∀ (s : State) (p r : Nat) (i : Instr) (f : AmoForm),
      let a := Agent.control p r
      let va := s.xr a f.xa
      Ready s a → amoForm i = some f → f.gd.wf → f.sc ≤ 5 → s.guardOn a f.gd = true →
      (∀ c s1, s.elemCheck a va f.w .readWrite = .error (c, s1) → exec i s = .next (s1.trapsTo a c va)) ∧
      (∀ xl s1, s.elemCheck a va f.w .readWrite = .ok (xl, s1) → xl.tdev = 0 → xl.vers = false →
        let lo := fun (v : BitVec 64) => v.toNat % 2 ^ (8 * f.w)
        let update := fun (u : State) =>
          amoResult f.f f.w (leNat (memBytes u.mem xl.pa f.w)) (lo (s.xr a f.xb)) (lo (s.xr a f.xc))
        let d1 := s1.drainFor a xl.pa f.w
        let d := if (f.ord = 2 ∨ f.ord = 3) ∧ (update d1).1.isSome = true then d1.releaseWrites a f.sc.toNat else d1
        let old := leNat (memBytes d.mem xl.pa f.w)
        let new := update d
        (s1.linePoisoned (xl.pa / 64) = true → exec i s = .next (s1.trapsTo a 0x0A va)) ∧
        (s1.linePoisoned (xl.pa / 64) = false → d.mailboxBusy xl.pa f.w = false → tget d.counted (xl.pa / 64) = none →
          d.mem.wf = true →
          ∃ t, exec i s = .next t ∧ Goes s t a s.next ∧
            (∀ e, (t.endRun a e).xr a f.xd = if f.xd = 0 then 0 else wrap64 old) ∧
            (t.row p r).fp.flags = (s.row p r).fp.flags ||| new.2 ∧
            (∀ b n, b.pr = (p, r) → (b = a → n ≠ .int (f.xd.setWidth 6)) → t.regNow b n = s.regNow b n) ∧
            ∀ x, Untraced s p x →
              memRead t.mem x =
                match new.1 with
                | some v => if xl.pa ≤ x ∧ x < xl.pa + f.w then (leBytes f.w v).getD (x - xl.pa) 0 else memRead d.mem x
                | none => memRead d.mem x))
  ) ∧
  (
    ∀ (s : State) (p r : Nat) (i : Instr) (f : AmoForm) (pa loc : Nat),
      let a := Agent.control p r
      let va := s.xr a f.xa
      Ready s a → amoForm i = some f → f.gd.wf → f.sc ≤ 5 → s.guardOn a f.gd = true → s.mem.wf = true →
      (s.pack p).ospec = none → va.toNat % f.w = 0 → Mapped s a (s.userMode a) va .readWrite pa loc →
      ∃ t, exec i s = .next t ∧ Goes s t a s.next ∧
        (∀ e, (t.endRun a e).xr a f.xd = if f.xd = 0 then 0 else wrap64 (leNat (memBytes s.mem pa f.w))) ∧
        (∀ b n, b.pr = (p, r) → (b = a → n ≠ .int (f.xd.setWidth 6)) → t.regNow b n = s.regNow b n) ∧
        ∀ x, Untraced s p x → ¬ (loc ≤ x ∧ x < loc + 8) → ¬ (pa ≤ x ∧ x < pa + f.w) → memRead t.mem x = memRead s.mem x
  ) ∧
  (
    ∀ (s : State) (p r : Nat) (gd : Guard) (xd xa : BitVec 5) (sc : BitVec 4) (w32 : Bool),
      let a := Agent.control p r
      let va := s.xr a xa
      let w := if w32 then 4 else 8
      let load := if w32 then Instr.lda32 gd xd xa sc else .lda gd xd xa sc
      let store := if w32 then Instr.strl32 gd xd xa sc else .strl gd xd xa sc
      Ready s a → gd.wf → sc ≤ 5 → s.guardOn a gd = true →
      (∀ c s', s.readCheck a va w none = .error (c, s') → exec load s = .next (s'.trapsTo a c va)) ∧
      (∀ c s', s.writeCheck a va w = .error (c, s') → exec store s = .next (s'.trapsTo a c va)) ∧
      (∀ xl s', s.readCheck a va w none = .ok (xl, s') →
        let v := (s'.acquireTimeline p r sc.toNat xl).loadPlain a xl w
        ∃ t, exec load s = .next t ∧ Goes s t a s.next ∧ Frame v.2 t a [.int (xd.setWidth 6)] ∧
          ∀ e, (t.endRun a e).xr a xd = if xd = 0 then 0 else v.1) ∧
      (∀ xl s', s.writeCheck a va w = .ok (xl, s') → xl.tdev = 0 → xl.vers = false → xl.nc = false →
        s.coreOf a < s.cores.length →
        ∃ t, exec store s = .next t ∧ Goes s t a s.next ∧ (∀ b n, b.pr = (p, r) → t.regNow b n = s.regNow b n) ∧
          (∃ l e, (t.core (s.coreOf a)).l1 = l ++ [e] ∧ e.agent = a ∧ e.pa = xl.pa ∧
            e.bytes = leBytes w (s.xr a xd).toNat ∧ (e.held = true ↔ s.wide a sc.toNat) ∧
            ∀ x ∈ l, x.agent = a → x.settled = true ∧ x.shown = true) ∧
          (s'.mem.wf = true → ∀ x, Untraced s' p x → memRead t.mem x = memRead s'.mem x)) ∧
      (∀ xl s' u, s.writeCheck a va w = .ok (xl, s') →
        (if xl.tdev ≠ 0 then s'.releaseWrites a sc.toNat else s'.settleFor a).store a xl
          (leBytes w (s.xr a xd).toNat) (s.wideScope a sc.toNat) = some u →
        ∃ t, exec store s = .next t ∧ Goes s t a s.next ∧ Frame u t a [])
  ) ∧
  (
    ∀ (s : State) (p r : Nat) (gd : Guard) (xd xa : BitVec 5) (sc : BitVec 4) (w32 : Bool) (pa loc : Nat),
      let a := Agent.control p r
      let va := s.xr a xa
      let w := if w32 then 4 else 8
      let load := if w32 then Instr.lda32 gd xd xa sc else .lda gd xd xa sc
      let store := if w32 then Instr.strl32 gd xd xa sc else .strl gd xd xa sc
      let outside := fun (t : State) =>
        ∀ x, Untraced s p x → ¬ (loc ≤ x ∧ x < loc + 8) → memRead t.mem x = memRead s.mem x
      Ready s a → gd.wf → sc ≤ 5 → s.guardOn a gd = true → s.mem.wf = true → va.toNat % w = 0 →
      (Mapped s a (s.userMode a) va .read pa loc →
        ∃ t, exec load s = .next t ∧ Goes s t a s.next ∧ outside t ∧
          (∀ e, (t.endRun a e).xr a xd = if xd = 0 then 0 else leWord (memBytes s.mem pa w)) ∧
          ∀ b n, b.pr = (p, r) → (b = a → n ≠ .int (xd.setWidth 6)) → t.regNow b n = s.regNow b n) ∧
      (Mapped s a (s.userMode a) va .write pa loc → (s.pack p).ospec = none → s.coreOf a < s.cores.length →
        ∃ t e, exec store s = .next t ∧ Goes s t a s.next ∧ outside t ∧ (t.core (s.coreOf a)).l1 = [e] ∧ e.agent = a ∧
          e.pa = pa ∧ e.bytes = leBytes w (s.xr a xd).toNat ∧ (e.held = true ↔ s.wide a sc.toNat) ∧
          ∀ b n, b.pr = (p, r) → t.regNow b n = s.regNow b n)
  ) ∧
  (
    ∀ (s : State) (p r : Nat) (i : Instr) (f : VamoForm),
      let a := Agent.control p r
      let c := s.vctx p r
      let w := s.row p r
      let wv := c.wv w.width
      let addr := fun e => wrap64 ((s.xr a f.xa).toNat + elemGet w.strands wv c.ew f.vb e)
      Ready s a → vamoForm i = some f → f.gd.wf → (f.old = false → f.vd = 0) → c.sound w →
      (∀ b ∈ [f.vd, f.vb, f.vc], b.toNat % c.grp = 0) →
      (c.ew < 32 → exec i s = .next (s.trapsTo a 0x01 s.fetch.raw)) ∧
      (32 ≤ c.ew →
        s.WaitsForLanes s p r i f.gd ∧
        (¬ w.behind → w.vq.length < 64 ∨ w.holdsEntry →
          let s0 := s.modRow p r fun w => { w with vq := [] }
          (∀ acc u e cause, checkIndexed a addr (c.ew / 8) .readWrite (indexedElems w c f.gd) s0 = (acc, u, some (e, cause)) →
            ∃ v : State, exec i s = .next (v.takeTrap p r cause s.fetch.pc (addr e) (BitVec.ofNat 13 e)) ∧
              (v.row p r).strands = w.strands ∧ v.mem = u.mem) ∧
          (∀ acc u, checkIndexed a addr (c.ew / 8) .readWrite (indexedElems w c f.gd) s0 = (acc, u, none) → Calm s →
            (∀ x ∈ acc, x.xl.tdev = 0 ∧ x.xl.vers = false) →
            (∀ q ∈ s.partitions, ∀ x ∈ acc, ¬ (q.mailbox < x.xl.pa + c.ew / 8 ∧ x.xl.pa < q.mailbox + 8)) → u.mem.wf = true →
            let run := amoRun f.f (c.ew / 8) (acc.map fun x => (x.e, x.xl.pa, elemGet w.strands wv c.ew f.vc x.e)) u.mem
            ∃ t, exec i s = .next t ∧ Goes s t a s.next ∧ (∀ x, Untraced s p x → memRead t.mem x = memRead run.2.1 x) ∧
              (t.row p r).fp.flags = w.fp.flags ||| run.2.2 ∧ (∀ n, t.regNow a n = s.regNow a n) ∧
              (∀ k, (t.strand p r k).md = if k < wv then 0 else (s.strand p r k).md) ∧
              (∀ e, e < wv * c.grp * (64 / c.ew) →
                elemGet (t.row p r).strands wv c.ew f.vd e =
                  if groupReg c wv f.vd e = 0 then 0
                  else ((if f.old then run.1.find? fun y => y.1 == e else none).map fun y => y.2).getD
                    (elemGet w.strands wv c.ew f.vd e)) ∧
              (∀ k n, (k < wv → f.old = true → ¬ inGroup c f.vd n) → (t.strand p r k).greg n = (s.strand p r k).greg n))))
  )

/-- The fences (R337, R339, R358), and a pending write leaving its L1 (R182, R333). A full fence at a scope that spans cores
leaves none of the scalar writes the thread sees pending in the core's L1, and at a narrower one makes them visible in the core;
fence.rel puts a marker behind those pending, which holds the thread's later writes; fence.acq keeps no read done early. A write leaves only past earlier writes of the same
bytes and past a held release of its own thread, and then exactly its bytes reach memory.

What the spec leaves open here is read or chosen as the model's assumption log says, entries 37, 38, 117. -/
def Obligations.FencesAndVisibility : Prop :=
  (∀ (s : State) (p r : Nat) (sc : BitVec 6),
    let a := Agent.control p r
    Ready s a →
    (5 < sc → ∀ i ∈ [Instr.fence sc, .fenceAcq sc, .fenceRel sc], exec i s = .next (s.trapsTo a 0x01 s.fetch.raw)) ∧
    (sc ≤ 5 →
      (∃ t, exec (.fence sc) s = .next t ∧ Goes s t a s.next ∧ Frame (s.releaseWrites a sc.toNat) t a [] ∧
        (∀ b n, b.pr = (p, r) → t.regNow b n = s.regNow b n) ∧
        (∀ e ∈ t.early, e.agent ≠ a) ∧
        (s.wide a sc.toNat →
          ∀ e ∈ (t.core (s.coreOf a)).l1, e.agent ≠ a ∧ e ∉ l1Visible a [] (s.core (s.coreOf a)).l1) ∧
        (¬ s.wide a sc.toNat →
          ∀ e ∈ (t.core (s.coreOf a)).l1, e.agent = a → e.held = false ∧ e.settled = true ∧ e.shown = true)) ∧
      (∃ t, exec (.fenceAcq sc) s = .next t ∧ Goes s t a s.next ∧ Frame s t a [] ∧ ∀ e ∈ t.early, e.agent ≠ a) ∧
      (∃ t, exec (.fenceRel sc) s = .next t ∧ Goes s t a s.next ∧ Frame (s.releaseMarker a sc.toNat) t a [] ∧
        (s.wide a sc.toNat → s.coreOf a < s.cores.length →
          (t.core (s.coreOf a)).l1 = (s.core (s.coreOf a)).l1 ++
            [{ agent := a, pa := 0, bytes := [], held := true, settled := true, shown := true }])))) ∧
  (∀ (s : State) (core idx : Nat) (e : L1Store),
    let l := (s.core core).l1
    let free := (e.held = true → idx = 0) ∧ (e.held = false → ∀ j, j < idx → ∀ x, l[j]? = some x →
      ¬ (x.agent = e.agent ∧ x.held = true) ∧ overlaps x.pa x.bytes.length e.pa e.bytes.length = false)
    l[idx]? = some e →
    ∃ t, exec (.writeBecomesVisible core idx) s = .next t ∧ (¬ free → t = s) ∧
      (free → core < s.cores.length → (t.core core).l1 = l.eraseIdx idx ∧ t.packs = s.packs ∧
        (s.mem.wf = true → s.linePoisoned (e.pa / 64) = false → s.mailboxBusy e.pa e.bytes.length = false →
          ∀ x, memRead t.mem x =
            if e.pa ≤ x ∧ x < e.pa + e.bytes.length then e.bytes.getD (x - e.pa) 0 else memRead s.mem x)))

/-- Barriers (R360–R365). A number the pack does not have raises 0x01. With an earlier arrival outstanding, arrive waits; else
AP rises and the arrival is issued. A wait returns at once when nothing is outstanding. bar.sync arrives once, then waits, and
its entry is cleared when the wait returns.

The count of a row's oldest barrier arrival (R361, R364): with the writes it covers visible, it is counted, and a pack
barrier whose live rows have all arrived for the next phase completes that phase; no other phase changes. -/
def Obligations.Barriers : Prop :=
  (
    ∀ (s : State) (p r : Nat) (b : BitVec 6),
      let a := Agent.control p r
      let n := b.toNat
      let w := s.row p r
      let ok := n < 8 ∨ (n < 16 ∧ s.litterOf p ≠ none)
      let out := s.cpOf p n < w.ap.getD n 0
      let arrived := fun (t : State) =>
        (t.row p r).ap = w.ap.set n (w.ap.getD n 0 + 1) ∧
        (t.row p r).barArr = w.barArr ++ [{ n := n, gen := (w.ap.getD n 0 + 1).toNat, seq := w.issueSeq }]
      let same := fun (t : State) => ∀ c m, c.pr = (p, r) → t.regNow c m = s.regNow c m
      let named := ∃ y, w.barSync = some y ∧ y.n = n ∧ y.pc = s.fetch.pc
      Ready s a →
      (¬ ok → ∀ i ∈ [Instr.barArrive b, .barWait b, .barSync b], exec i s = .next (s.trapsTo a 0x01 s.fetch.raw)) ∧
      (ok → out →
        (∃ t, exec (.barArrive b) s = .next t ∧ Frame s t a [] ∧ (t.thread a).waiting = some (.room, s.fetch)) ∧
        (∃ t, exec (.barWait b) s = .next t ∧ Frame s t a [] ∧ (t.thread a).waiting = some (.barWait b, s.fetch)) ∧
        (∃ t, exec (.barSync b) s = .next t ∧ Frame s t a [] ∧
          (t.thread a).waiting = some (if w.barSync.any fun y => y.n == n && y.pc == s.fetch.pc then .barSync b else .room,
            s.fetch))) ∧
      (ok → ¬ out →
        (∃ t, exec (.barArrive b) s = .next t ∧ Goes s t a s.next ∧ arrived t ∧ same t) ∧
        (∃ t, exec (.barWait b) s = .next t ∧ Goes s t a s.next ∧ Frame (s.acquireBar p r n) t a []) ∧
        (¬ named → ∃ t, exec (.barSync b) s = .next t ∧ arrived t ∧ same t ∧ (t.thread a).pc = (s.thread a).pc ∧
          (t.thread a).waiting = some (.barSync b, s.fetch) ∧
          (t.row p r).barSync = some { n := n, pc := s.fetch.pc, gen := ((w.ap.set n (w.ap.getD n 0 + 1)).getD n 0).toNat }) ∧
        (named → ∃ t, exec (.barSync b) s = .next t ∧ Goes s t a s.next ∧ (t.row p r).barSync = none ∧ same t))
  ) ∧
  (
    ∀ (s : State) (p r : Nat), s.has (.control p r) →
      ∃ t, exec (.barArrivalCount p r) s = .next t ∧
        ((s.row p r).barArr = [] → t = s) ∧
        ∀ x l, (s.row p r).barArr = x :: l →
          (t.row p r).barArr = l ∧
          (∀ e ∈ (t.core (s.pack p).core).l1, e.agent = .control p r →
            ¬ s.wide (.control p r) (scopeOfBarrier x.n) ∧ e.held = false ∧ e.settled = true ∧ e.shown = true) ∧
          (∀ j, (t.row p j).ap = (s.row p j).ap) ∧ (∀ c n, c.pr.1 = p → t.regNow c n = s.regNow c n) ∧
          ∀ b, b < 8 →
            let here := fun (w : Row) =>
              decide ((s.pack p).cp.getD b 0 < w.ap.getD b 0 - if w.barArr.any fun y => y.n == b then 1 else 0)
            (t.pack p).cp.getD b 0 =
              if (∀ w ∈ (t.pack p).rows, w.life = .ended ∨ here w = true) ∧
                 (∃ w ∈ (t.pack p).rows, w.life = .live ∧ here w = true)
              then (s.pack p).cp.getD b 0 + 1 else (s.pack p).cp.getD b 0
  )

/-- tlwait (R269) and tlpost (R271) with their guard on, inside a transaction as outside. A failing check traps with ea. tlwait goes on
when the timeline it sees has reached xB, else it waits at its instruction. tlpost leaves its addition in the row's post buffer and a marker that holds the
thread's later writes behind what it covers (R337), or waits for room there; the row's oldest post, also of a pack that has ended, is
added once every queued instruction before it has executed: the counter at ea rises by xB modulo
2^64 and no other byte changes.

tlwait and tlpost complete (R269, R271, R394–R402) at an address that is a multiple of 8 and mapped by a page of local memory with the
permission needed: tlwait where the bytes there have reached xB, tlpost where the row's post buffer has room.

What the spec leaves open here is read or chosen as the model's assumption log says, entries 49, 51. -/
def Obligations.TimelineWaitAndPost : Prop :=
  (
    (∀ (s : State) (p r : Nat) (gd : Guard) (xa xb : BitVec 5) (sc : BitVec 4),
      let a := Agent.control p r
      let va := s.xr a xa
      Ready s a → gd.wf → sc ≤ 5 → s.guardOn a gd = true →
      (∀ c s', s.elemCheck a va 8 .read = .error (c, s') → exec (.tlwait gd xa xb sc) s = .next (s'.trapsTo a c va)) ∧
      (∀ xl s', s.elemCheck a va 8 .read = .ok (xl, s') →
        let v := s'.timelineValue a xl
        (s'.poisoned xl = true → exec (.tlwait gd xa xb sc) s = .next (s'.trapsTo a 0x0A va)) ∧
        (s'.poisoned xl = false → (s.xr a xb).toNat ≤ v.1.toNat →
          ∃ t, exec (.tlwait gd xa xb sc) s = .next t ∧ Goes s t a s.next ∧
            ∀ c n, c.pr = (p, r) → t.regNow c n = s.regNow c n) ∧
        (s'.poisoned xl = false → v.1.toNat < (s.xr a xb).toNat →
          ∃ t, exec (.tlwait gd xa xb sc) s = .next t ∧ Frame v.2 t a [] ∧ (t.thread a).pc = (s.thread a).pc ∧
            (t.thread a).waiting = some (.tlwait gd xa xb sc, s.fetch))) ∧
      (∀ c s', s.elemCheck a va 8 .readWrite = .error (c, s') → exec (.tlpost gd xa xb sc) s = .next (s'.trapsTo a c va)) ∧
      (∀ xl s', s.elemCheck a va 8 .readWrite = .ok (xl, s') →
        let post : Post := { va := va, xl := xl, add := s.xr a xb, scope := sc.toNat, seq := (s.row p r).issueSeq }
        (s'.poisoned xl = true → exec (.tlpost gd xa xb sc) s = .next (s'.trapsTo a 0x0A va)) ∧
        (s'.poisoned xl = false → (s.row p r).posts.length < 16 →
          ∃ t, exec (.tlpost gd xa xb sc) s = .next t ∧ Goes s t a s.next ∧
            Frame ((s'.releaseMarker a sc.toNat).modRow p r fun w =>
              { w with posts := w.posts ++ [post], issueSeq := w.issueSeq + 1 }) t a []) ∧
        (s'.poisoned xl = false → 16 ≤ (s.row p r).posts.length →
          ∃ t, exec (.tlpost gd xa xb sc) s = .next t ∧ Frame s t a [] ∧ (t.thread a).waiting = some (.room, s.fetch)))) ∧
    (∀ (s : State) (p r : Nat) (x : Post) (l : List Post),
      s.has (.control p r) → ((s.pack p).life = .resident ∨ (s.pack p).life = .ended) → (s.row p r).posts = x :: l →
      ((∃ e ∈ (s.row p r).vq, e.seq < x.seq) → ∃ t, exec (.tlpostApply p r) s = .next t ∧ t = s) ∧
      ((∀ e ∈ (s.row p r).vq, x.seq ≤ e.seq) → Calm s → x.xl.tdev = 0 → x.xl.vers = false → s.mem.wf = true →
        s.owned (s.pack p).part x.xl.pa = true →
        ∃ t, exec (.tlpostApply p r) s = .next t ∧ (t.row p r).posts = l ∧
          ∀ y, memRead t.mem y =
            if x.xl.pa ≤ y ∧ y < x.xl.pa + 8
            then (leBytes 8 (leWord (memBytes s.mem x.xl.pa 8) + x.add).toNat).getD (y - x.xl.pa) 0
            else memRead s.mem y))
  ) ∧
  (
    ∀ (s : State) (p r : Nat) (gd : Guard) (xa xb : BitVec 5) (sc : BitVec 4) (pa loc : Nat),
      let a := Agent.control p r
      let va := s.xr a xa
      let same := fun (t : State) => ∀ b n, b.pr = (p, r) → t.regNow b n = s.regNow b n
      Ready s a → gd.wf → sc ≤ 5 → s.guardOn a gd = true → s.mem.wf = true → va.toNat % 8 = 0 →
      (Mapped s a (s.userMode a) va .read pa loc → (s.xr a xb).toNat ≤ leNat (memBytes s.mem pa 8) →
        ∃ t, exec (.tlwait gd xa xb sc) s = .next t ∧ Goes s t a s.next ∧ same t) ∧
      (Mapped s a (s.userMode a) va .readWrite pa loc → (s.pack p).ospec = none → (s.row p r).posts.length < 16 →
        ∃ t x, exec (.tlpost gd xa xb sc) s = .next t ∧ Goes s t a s.next ∧ same t ∧
          (t.row p r).posts = (s.row p r).posts ++ [x] ∧ x.va = va ∧ x.xl.pa = pa ∧ x.add = s.xr a xb ∧ x.scope = sc.toNat)
  )

/-- The ring instructions (R272–R275). A number at or above the pack's ring count raises 0x07 with the number. ringdef defines
an undefined ring that fits, with CG, every count and every row's generation 0. ringarr and ringgen move the row's generation
on by one, or stall past CG + S; ringarr issues an arrival, ringgen gives the new generation. ringfree undefines the ring and
discards its arrivals, and the instructions of other rows that stall on it trap 0x0C. On an undefined ring the last three raise 0x0C.

The events of a ring (R244, R245): the row's first arrival that no earlier queued instruction holds back, past the thread's pending
wide releases (R337), counts for its generation; the P-th arrival of generation CG + 1 completes it, with those after it that have theirs; arrivals beyond P, and at an
undefined ring, are discarded. A stalled thread may issue again when CG has reached the generation it needs, or the ring is gone.

What the spec leaves open here is read or chosen as the model's assumption log says, entries 44. -/
def Obligations.Rings : Prop :=
  (
    ∀ (s : State) (p r : Nat) (n : BitVec 3),
      let a := Agent.control p r
      let k := s.pack p
      let w := s.row p r
      Ready s a → k.ringEdits = [] → n.toNat < k.rings.length → n.toNat < w.gens.length →
      (∀ xa xb xc st xd, 2 ≤ st → st ≤ 16 → k.ringCount ≤ n.toNat →
        ∀ i ∈ [Instr.ringdef n xa xb xc st, .ringarr n, .ringgen xd n, .ringfree n],
          exec i s = .next (s.trapsTo a 0x07 (wrap64 n.toNat))) ∧
      (n.toNat < k.ringCount → k.rings.getD n.toNat none = none →
        (∀ xd, ∀ i ∈ [Instr.ringarr n, .ringgen xd n, .ringfree n], exec i s = .next (s.trapsTo a 0x0C (wrap64 n.toNat))) ∧
        ∀ xa xb xc st : BitVec 5, 2 ≤ st → st ≤ 16 →
          ringFits k (s.xr a xa).toNat (s.xr a xb).toNat (s.xr a xc).toNat st.toNat →
          ∃ t, exec (.ringdef n xa xb xc st) s = .next t ∧ Goes s t a s.next ∧
            (t.pack p).rings.getD n.toNat none =
              some { base := (s.xr a xa).toNat - k.base.toNat, s := st.toNat, size := (s.xr a xb).toNat,
                     parties := (s.xr a xc).toNat, cg := 0, counts := List.replicate st.toNat 0 } ∧
            (∀ m, m ≠ n.toNat → (t.pack p).rings.getD m none = k.rings.getD m none) ∧
            (∀ j, j < k.rows.length → n.toNat < (s.row p j).gens.length → (t.row p j).gens.getD n.toNat 0 = 0) ∧
            (t.pack p).lead = k.lead ∧ (∀ c m, c.pr = (p, r) → t.regNow c m = s.regNow c m)) ∧
      (∀ g, n.toNat < k.ringCount → k.rings.getD n.toNat none = some g →
        let gen := w.gens.getD n.toNat 0 + 1
        (∀ xa xb xc st, 2 ≤ st → st ≤ 16 → exec (.ringdef n xa xb xc st) s = .next (s.trapsTo a 0x01 s.fetch.raw)) ∧
        (g.cg + g.s < gen → ∀ xd, ∀ i ∈ [Instr.ringarr n, .ringgen xd n],
          ∃ t, exec i s = .next t ∧ Frame s t a [] ∧
            (t.thread a).waiting = some (.ringStall n.toNat (gen - g.s) (wrap64 n.toNat) none, s.fetch)) ∧
        (gen ≤ g.cg + g.s →
          (∃ t, exec (.ringarr n) s = .next t ∧ Goes s t a s.next ∧
            Frame (s.modRow p r fun w => { w with
              gens := w.gens.set n.toNat gen,
              ringArr := w.ringArr ++ [{ n := n.toNat, gen := gen, seq := w.issueSeq }] }) t a []) ∧
          ∀ xd, ∃ t, exec (.ringgen xd n) s = .next t ∧ Goes s t a s.next ∧
            Frame (s.modRow p r fun w => { w with gens := w.gens.set n.toNat gen }) t a [.int (xd.setWidth 6)] ∧
            ∀ e, (t.endRun a e).xr a xd = if xd = 0 then 0 else wrap64 gen) ∧
        ((∀ e ∈ w.vq, n.toNat ∉ e.rings) → w.life = .live → w.thread.waiting = none →
          ∃ t, exec (.ringfree n) s = .next t ∧ Goes s t a s.next ∧ (t.pack p).rings.getD n.toNat none = none ∧
            (∀ m, m ≠ n.toNat → (t.pack p).rings.getD m none = k.rings.getD m none) ∧
            (∀ j, (t.row p j).ringArr = (s.row p j).ringArr.filter fun x => x.n != n.toNat) ∧
            (∀ j need v e f, j < k.rows.length → (s.row p j).thread.waiting = some (.ringStall n.toNat need v e, f) →
              (t.row p j).trap.cause = 0x0C ∧ (t.row p j).trap.val = v ∧ (t.row p j).trap.pc = f.pc ∧
              (t.row p j).thread.waiting = none) ∧
            (t.pack p).lead = k.lead ∧ (∀ c m, c.pr = (p, r) → t.regNow c m = s.regNow c m)) ∧
        ((∃ e ∈ w.vq, n.toNat ∈ e.rings) →
          ∃ t, exec (.ringfree n) s = .next t ∧ Frame s t a [] ∧ (t.thread a).waiting = some (.room, s.fetch)))
  ) ∧
  (
    (∀ (s : State) (p r : Nat) (x : Arrival) (before l : List Arrival),
      s.has (.control p r) → (s.pack p).life = .resident → (s.row p r).ringArr = before ++ x :: l →
      (∀ y ∈ before, ∃ e ∈ (s.row p r).vq, e.seq < y.seq ∧ y.n ∈ e.rings) →
      (∀ e ∈ (s.row p r).vq, e.seq < x.seq → x.n ∉ e.rings) → x.n < (s.pack p).rings.length →
      let u := s.flushHeld (.control p r)
      ∃ t, exec (.ringArrivalCount p r) s = .next t ∧ (t.row p r).ringArr = before ++ l ∧ t.mem = u.mem ∧ t.rest = u.rest ∧
        (∀ m, m ≠ x.n → (t.pack p).rings.getD m none = (s.pack p).rings.getD m none) ∧
        ((s.pack p).rings.getD x.n none = none → (t.pack p).rings.getD x.n none = none) ∧
        ∀ g, (s.pack p).rings.getD x.n none = some g → g.counts.length = g.s →
          let i := x.gen - g.cg - 1
          let count := g.counts.getD i 0
          ((x.gen ≤ g.cg ∨ g.cg + g.s < x.gen ∨ g.parties ≤ count) → (t.pack p).rings.getD x.n none = some g) ∧
          (g.cg < x.gen → x.gen ≤ g.cg + g.s → count < g.parties → (i ≠ 0 ∨ count + 1 < g.parties) →
            g.counts.getD 0 0 < g.parties →
            (t.pack p).rings.getD x.n none = some { g with counts := g.counts.set i (count + 1) }) ∧
          ∀ m, g.cg + 1 = x.gen → count + 1 = g.parties → 0 < m → m ≤ g.s → (∀ j, 0 < j → j < m → g.parties ≤ g.counts.getD j 0) →
            (m = g.s ∨ g.counts.getD m 0 < g.parties) →
            (t.pack p).rings.getD x.n none = some { g with cg := g.cg + m, counts := g.counts.drop m ++ List.replicate m 0 }) ∧
    (∀ (s : State) (p r n need : Nat) (v : BitVec 64) (e : Option Nat) (f : Fetch),
      s.rowRuns p r = true → (s.row p r).thread.waiting = some (.ringStall n need v e, f) →
      ∃ t, exec (.ringStallEnd p r) s = .next t ∧
        ((∀ g, (s.pack p).rings.getD n none = some g → need ≤ g.cg) →
          t = s.modThread (.control p r) fun t => { t with waiting := none }) ∧
        (∀ g, (s.pack p).rings.getD n none = some g → g.cg < need → t = s))
  )

/-! ## Matrix, snapshots, transactions, copies, collectives -/

/-- Issue of mma and the accumulator transfers (R248, R249, R253, R258, R263, R266). A full queue lets nothing happen. The checks
listed first trap, then a tile the pack does not have, then an address that is no multiple of 64, outside the allocation or
outside its ring, or of the partner with both cores at work. An operand on a stage not yet reached makes the thread wait.
Otherwise the thread goes on, its earlier writes are released at core scope (R344), and the row's queue has one more entry with the
operand's places; nothing else changes.

What the spec leaves open here is read or chosen as the model's assumption log says, entries 34, 36. -/
def Obligations.MatrixIssue : Prop :=
  (∀ (s : State) (p r : Nat) (i : Instr) (f : MatForm),
    let a := Agent.control p r
    Ready s a → s.matForm a i = some f →
    (64 ≤ (s.row p r).vq.length → exec i s = .next s) ∧
    ((s.row p r).vq.length < 64 →
      (∀ c v, f.early = some (c, v) → exec i s = .next (s.trapsTo a c v)) ∧
      (f.early = none → (s.pack p).tiles ≤ f.z.toNat → exec i s = .next (s.trapsTo a 0x07 (f.z.setWidth 64))) ∧
      (f.early = none → f.z.toNat < (s.pack p).tiles →
        (f.addr.toNat % 64 ≠ 0 → exec i s = .next (s.trapsTo a 0x05 f.addr)) ∧
        (f.addr.toNat % 64 = 0 →
          (∀ c, s.spResolve p r f.addr f.bytes = .fault c → exec i s = .next (s.trapsTo a c f.addr)) ∧
          (∀ n need, s.spResolve p r f.addr f.bytes = .stall n need →
            ∃ t, exec i s = .next t ∧ Frame s t a [] ∧ (t.thread a).waiting = some (.ringStall n need f.addr none, s.fetch)) ∧
          (∀ off ring, s.spResolve p r f.addr f.bytes = .at_ true off ring → f.both = true →
            exec i s = .next (s.trapsTo a 0x07 f.addr)) ∧
          (∀ foll off ring, s.spResolve p r f.addr f.bytes = .at_ foll off ring → ¬ (foll = true ∧ f.both = true) →
            let places := if f.both then [⟨false, off⟩, ⟨true, off⟩] else [⟨foll, off⟩]
            let y := { s.entryOf p r (f.op places) noGuard with rings := ring.toList }
            ∃ t, exec i s = .next t ∧ Goes s t a s.next ∧ (t.row p r).vq = (s.row p r).vq ++ [y] ∧
              Frame ((s.startCommand a).modRow p r fun w =>
                { w with vq := w.vq ++ [y], issueSeq := w.issueSeq + 1 }) t a []))))) ∧
  (∀ (s : State) (p r : Nat) (i : Instr) (z : BitVec 4) (bad : Bool) (op : VOp),
    let a := Agent.control p r
    Ready s a → tileForm i = some (z, bad, op) →
    (64 ≤ (s.row p r).vq.length → exec i s = .next s) ∧
    ((s.row p r).vq.length < 64 →
      (bad = true → exec i s = .next (s.trapsTo a 0x01 s.fetch.raw)) ∧
      (bad = false → (s.pack p).tiles ≤ z.toNat → exec i s = .next (s.trapsTo a 0x07 (z.setWidth 64))) ∧
      (bad = false → z.toNat < (s.pack p).tiles →
        let y := s.entryOf p r op noGuard
        ∃ t, exec i s = .next t ∧ Goes s t a s.next ∧ (t.row p r).vq = (s.row p r).vq ++ [y] ∧
          Frame (s.modRow p r fun w => { w with vq := w.vq ++ [y], issueSeq := w.issueSeq + 1 }) t a [])))

/-- What a matrix or accumulator entry, none of whose words has been applied before (R250), does at the head of a queue with the lanes
free and no register of the strands poisoned (R254–R258, R264–R267): mma adds the
products of A and B to the rows below the grant of the tile of each core at work; the transfers clear, load, store, convert or
move a tile or a quarter of it. Every other word, SAT flag, register and scratchpad byte stays. mma leaves the latch as keep
says.

mmaff (R253, R257, R260, R261): behind the row's earlier queue work, for which it waits with its queue entry, it checks its latch and types, its request, its tile and
its address, then row by row its memory. With row K0 failing it traps there and changes nothing; else it adds the products of
the rows that pass to the tile of the row's core, writes their number into xC[7:0], and leaves the latch as keep says. Stated
for rows in unversioned local memory.

What the spec leaves open here is read or chosen as the model's assumption log says, entries 31 to 36. -/
def Obligations.MatrixResults : Prop :=
  (
    ∀ (s : State) (p r : Nat) (x : VEntry) (rest : List VEntry) (e : TileEffect),
      let w := s.row p r
      s.lanesRun p r = true → w.lanesFree = true → w.vq = x :: rest → (∀ y ∈ rest, y.op.loadsPending = false) →
      x.op.onTiles s p r x.ctx = some e → x.op.operandOk s p → x.words = [] → x.met = none → w.width.grant.toNat ≤ 64 →
      (∀ k ∈ w.strands, k.bad = []) →
      ∃ t, exec (.vqueueExecute p r) s = .next t ∧ Tiled s t p r ∧ (t.row p r).vq = rest ∧
        (∀ f z i j, z < 16 → i < 64 → j < 64 →
          (t.side p f).accGet z i j = ((if z = e.z then e.word f i j else none).getD ((s.side p f).accGet z i j))) ∧
        (∀ f z, z < 16 →
          (t.side p f).sat.getLsbD z = ((if z = e.z then e.sat f else none).getD ((s.side p f).sat.getLsbD z))) ∧
        (∀ f o, memRead (t.side p f).sp o = (e.out f o).getD (memRead (s.side p f).sp o)) ∧
        (t.row p r).strands.length = w.strands.length ∧
        (∀ k n, k < w.strands.length → (t.strand p r k).greg n = (e.reg k n).getD ((s.strand p r k).greg n)) ∧
        (∀ k, { t.strand p r k with g := Vector.replicate 64 0 } = { s.strand p r k with g := Vector.replicate 64 0 }) ∧
        (match x.op with
         | .mma _ va _ ta _ keep brace _ => latched s t p r va ta keep brace
         | _ => (t.pack p).latch = (s.pack p).latch)
  ) ∧
  (
    ∀ (s : State) (p r : Nat) (zd : BitVec 4) (va : BitVec 6) (xb xc : BitVec 5) (ta tb : BitVec 3) (keep clear : Bool),
      let a := Agent.control p r
      let i := Instr.mmaff zd va xb xc ta tb keep clear
      let w := s.row p r
      let u := (s.startCommand a).modRow p r fun w => { w with vq := [] }
      let addr := s.xr a xb
      let req := s.xr a xc
      let k0 := req.toNat / 256 % 256
      let n := req.toNat % 256
      let size := 64 * matSize tb.toNat
      Ready s a → ta.toNat ≤ 5 → tb.toNat ≤ 5 →
      s.WaitsForLanes (s.startCommand a) p r i noGuard ∧
      (¬ w.behind → w.vq.length < 64 ∨ w.holdsEntry →
        (∀ c v, s.mmaEarly p r va ta tb keep false clear = some (c, v) → exec i s = .next (u.trapsTo a c v)) ∧
        (s.mmaEarly p r va ta tb keep false clear = none →
          (¬ (req.toNat < 65536 ∧ k0 ≤ 63 ∧ 1 ≤ n ∧ n ≤ 64 ∧ k0 + n ≤ 64) → exec i s = .next (u.trapsTo a 0x01 s.fetch.raw)) ∧
          (req.toNat < 65536 → k0 ≤ 63 → 1 ≤ n → n ≤ 64 → k0 + n ≤ 64 →
            ((s.pack p).tiles ≤ zd.toNat → exec i s = .next (u.trapsTo a 0x07 (zd.setWidth 64))) ∧
            (zd.toNat < (s.pack p).tiles → addr.toNat % 64 ≠ 0 → exec i s = .next (u.trapsTo a 0x05 addr)) ∧
            (zd.toNat < (s.pack p).tiles → addr.toNat % 64 = 0 →
              (∀ v c va', checkRows a addr size ((List.range n).map fun j => k0 + j) u = ([], v, some (c, va')) →
                exec i s = .next (v.trapsTo a c va')) ∧
              (∀ rows v f, checkRows a addr size ((List.range n).map fun j => k0 + j) u = (rows, v, f) → rows ≠ [] →
                Calm s → w.width.grant.toNat ≤ 64 → (s.side p false).accPoison = [] →
                (∀ x ∈ rows, ∀ xl ∈ x.2, xl.tdev = 0 ∧ xl.vers = false ∧ xl.pa % 64 = 0) →
                let g := w.width.grant.toNat
                let row := fun (k : Nat) =>
                  (rows.filter fun x => x.1 == k).flatMap fun x => x.2.flatMap fun xl => memBytes v.mem xl.pa 64
                let new := s.mmaWord p r zd.toNat false va (matType ta) (matType tb) clear (rows.map fun x => x.1) fun k j =>
                  elemOf (matType tb) (row k) ((matType tb).width * j)
                (rows.map fun x => x.1) = (List.range rows.length).map (fun j => k0 + j) ∧
                ∃ t, exec i s = .next t ∧ Goes s t a s.next ∧
                  (∀ e, (t.endRun a e).xr a xc =
                    if xc = 0 then 0 else wrap64 (256 * k0 + rows.length)) ∧
                  (∀ z b j, z < 16 → b < 64 → j < 64 → (t.side p false).accGet z b j =
                    if z = zd.toNat ∧ b < g then (new b j).1 else (s.side p false).accGet z b j) ∧
                  (∀ z, z < 16 → (t.side p false).sat.getLsbD z =
                    if z = zd.toNat then (!clear && (s.side p false).sat.getLsbD z) || anySat g new
                    else (s.side p false).sat.getLsbD z) ∧
                  t.side p true = s.side p true ∧ (t.side p false).sp = (s.side p false).sp ∧
                  latched s t p r va (matType ta) keep false ∧
                  (∀ b m, b.pr = (p, r) → (b = a → m ≠ .int (xc.setWidth 6)) → t.regNow b m = s.regNow b m) ∧
                  (∀ q, q ≠ p → t.pack q = s.pack q) ∧ (∀ j, j ≠ r → t.row p j = s.row p j) ∧
                  (v.mem.wf = true → ∀ x, Untraced s p x → memRead t.mem x = memRead v.mem x))))))
  )

/-- snopen, snclose and snset (R426, R429): snopen registers an entry at CC and puts CC into SNAP and D, or with no room gives 0;
snclose removes one entry of the partition at the time xA, one of its own launch first, and gives 0, or 1 where there is none;
snset writes SNAP. Nothing else changes. -/
def Obligations.SnapshotInstructions : Prop :=
  ∀ (s : State) (p r : Nat) (xd xa : BitVec 5),
    let a := Agent.control p r
    let k := s.pack p
    let lid := (s.launch k.launch).lid
    let mine := fun (e : Snapshot) => e.time = (s.xr a xa).toNat ∧ e.part = k.part
    let reads := fun (t : State) (v : BitVec 64) => ∀ e, (t.endRun a e).xr a xd = if xd = 0 then 0 else v
    Ready s a →
    (s.snapshotRoom k.part →
      ∃ t, exec (.snopen xd) s = .next t ∧ Goes s t a s.next ∧ reads t (wrap64 s.cc) ∧
        t.snapshots = s.snapshots ++ [{ time := s.cc, part := k.part, lid := lid }] ∧ (t.row p r).snap = wrap64 s.cc ∧
        Frame (({ s with snapshots := t.snapshots } : State).modRow p r fun w => { w with snap := wrap64 s.cc }) t a
          [.int (xd.setWidth 6)]) ∧
    (¬ s.snapshotRoom k.part →
      ∃ t, exec (.snopen xd) s = .next t ∧ Goes s t a s.next ∧ reads t 0 ∧ Frame s t a [.int (xd.setWidth 6)]) ∧
    ((∃ e ∈ s.snapshots, mine e) →
      ∃ t l e m, exec (.snclose xd xa) s = .next t ∧ Goes s t a s.next ∧ reads t 0 ∧ s.snapshots = l ++ e :: m ∧
        t.snapshots = l ++ m ∧ mine e ∧ ((∃ x ∈ s.snapshots, mine x ∧ x.lid = lid) → e.lid = lid) ∧
        Frame { s with snapshots := l ++ m } t a [.int (xd.setWidth 6)]) ∧
    ((∀ e ∈ s.snapshots, ¬ mine e) →
      ∃ t, exec (.snclose xd xa) s = .next t ∧ Goes s t a s.next ∧ reads t 1 ∧ Frame s t a [.int (xd.setWidth 6)]) ∧
    (∃ t, exec (.snset xa) s = .next t ∧ Goes s t a s.next ∧ (t.row p r).snap = s.xr a xa ∧
      Frame (s.modRow p r fun w => { w with snap := s.xr a xa }) t a [])

/-- txbegin, txcommit and txabort (R433–R435). txbegin in a transaction, txcommit outside one, and both in a speculative pack,
raise 0x01. Each waits for the row's earlier vector accesses and posts. txbegin opens a transaction at CC and gives CC. txcommit commits
every line at one timestamp or none, gives the status, and closes the transaction; txabort closes it; outside one it does
nothing, and in a speculative pack it discards the pack.

The commit of a speculative pack (R440) and the crumb collector (R438). A pack whose rows have all ended with their vector
accesses and posts performed, in a transaction, with every lower pack of its launch committed, commits as a transaction does: on status 0 it ends; on status 1 with a lower pack
open at its start it is to run again as a transaction, on status 3 so once the lower packs have committed, on any other in
serial mode. Reclaiming takes versions of one line only, and a read at any time from the live floor on finds the same value.

What the spec leaves open here is read or chosen as the model's assumption log says, entries 41, 55, 56. -/
def Obligations.TransactionsAndSpeculation : Prop :=
  (
    ∀ (s : State) (p r : Nat) (xd : BitVec 5),
      let a := Agent.control p r
      let w := s.row p r
      let waits := fun (i : Instr) =>
        ∃ t, exec i s = .next t ∧ Frame s t a [] ∧ (t.thread a).waiting = some (.room, s.fetch)
      let reads := fun (t : State) (v : BitVec 64) => ∀ e, (t.endRun a e).xr a xd = if xd = 0 then 0 else v
      Ready s a →
      (w.tx ≠ none ∨ (s.pack p).ospec ≠ none → exec (.txbegin xd) s = .next (s.trapsTo a 0x01 s.fetch.raw)) ∧
      (w.tx = none ∨ (s.pack p).ospec ≠ none → exec (.txcommit xd) s = .next (s.trapsTo a 0x01 s.fetch.raw)) ∧
      (w.tx = none → (s.pack p).ospec = none → w.hasPending → waits (.txbegin xd)) ∧
      (∀ x, w.tx = some x → (s.pack p).ospec = none → w.hasPending → waits (.txcommit xd) ∧ waits .txabort) ∧
      ((s.pack p).ospec ≠ none → w.hasPending → waits .txabort) ∧
      (w.tx = none → (s.pack p).ospec = none → ¬ w.hasPending →
        ∃ t, exec (.txbegin xd) s = .next t ∧ Goes s t a s.next ∧ reads t (wrap64 s.cc) ∧
          (t.row p r).tx = some { lines := [], doomed := none } ∧ (t.row p r).txstart = wrap64 s.cc ∧
          (∀ y ∈ (t.core (s.pack p).core).l1, y.agent ≠ a) ∧
          (Calm s → Frame (s.modRow p r fun w => { w with tx := (t.row p r).tx, txstart := wrap64 s.cc }) t a
            [.int (xd.setWidth 6)])) ∧
      (∀ x, w.tx = some x → (s.pack p).ospec = none → ¬ w.hasPending → Calm s → (x.lines.map fun y => y.line).Nodup →
        s.mem.wf = true →
        ∃ t, exec (.txcommit xd) s = .next t ∧ Goes s t a s.next ∧ reads t (wrap64 (s.commitStatus w.txstart.toNat x)) ∧
          Committed s t w.txstart.toNat x ∧ (t.row p r).tx = none ∧ (t.row p r).txstart = 0 ∧
          (∀ b n, b.pr = (p, r) → (b = a → n ≠ .int (xd.setWidth 6)) → t.regNow b n = s.regNow b n) ∧
          ∀ y, Untraced s p y → memRead t.mem y = s.committedByte w.txstart.toNat x y) ∧
      ((s.pack p).ospec = none → w.tx = none → ∃ t, exec .txabort s = .next t ∧ Goes s t a s.next ∧ Frame s t a []) ∧
      (∀ x, w.tx = some x → (s.pack p).ospec = none → ¬ w.hasPending →
        ∃ t, exec .txabort s = .next t ∧ Goes s t a s.next ∧
          Frame (s.modRow p r fun w => { w with tx := none, txstart := 0 }) t a []) ∧
      (∀ o, (s.pack p).ospec = some o → ¬ w.hasPending →
        (o.serial = true → ∃ t, exec .txabort s = .next t ∧ Goes s t a s.next ∧ Frame s t a []) ∧
        (o.serial = false → ∃ t, exec .txabort s = .next t ∧ Discarded s t p o true true ∧ t.mem = s.mem))
  ) ∧
  (
    (∀ (s : State) (p : Nat),
      let k := s.pack p
      let lower := ∀ q ∈ s.packs, q.launch = k.launch → q.index < k.index → q.life = .ended
      (k.ospec = none → ∃ t, exec (.ospecCommit p) s = .next t ∧ t = s) ∧
      ∀ o, k.ospec = some o →
        (k.life ≠ .resident ∨ o.serial = true ∨ (∃ w ∈ k.rows, w.life ≠ .ended ∨ w.hasPending) ∨ ¬ lower →
          ∃ t, exec (.ospecCommit p) s = .next t ∧ t = s) ∧
        (p < s.packs.length → k.life = .resident → o.serial = false → (∀ w ∈ k.rows, w.life = .ended ∧ ¬ w.hasPending) → lower →
          Calm s →
          (o.tx.lines.map fun y => y.line).Nodup → s.mem.wf = true →
          let st := s.commitStatus o.start o.tx
          ∃ t, exec (.ospecCommit p) s = .next t ∧ Committed s t o.start o.tx ∧
            (∀ y, memRead t.mem y = s.committedByte o.start o.tx y) ∧
            (st = 0 → (t.pack p).life = .ended ∧ ∀ q, q ≠ p → t.pack q = s.pack q) ∧
            (st = 1 → o.lowerOpen = true → Discarded s t p o false false) ∧
            (st = 1 → o.lowerOpen = false → Discarded s t p o true true) ∧
            (st = 3 → Discarded s t p o false true) ∧
            (st ≠ 0 → st ≠ 1 → st ≠ 3 → Discarded s t p o true true))) ∧
    ∀ (s : State) (line : Nat),
      ∃ t, exec (.crumbReclaim line) s = .next t ∧ t = { s with lines := t.lines } ∧
        (∀ l, l ≠ line → t.vline l = s.vline l) ∧ (t.vline line).ts = (s.vline line).ts ∧
        (t.vline line).chain <+: (s.vline line).chain ∧
        ∀ time, s.liveFloor ≤ time →
          (t.versions line)[currentAt time (t.versions line)]? = (s.versions line)[currentAt time (s.versions line)]?
  )

/-- cpgo (R233, R234, R268): in a strand it faults with 0x04. A description that breaks the shape rules raises 0x01; a timeline
or gate address that is misaligned or not accessible raises 0x05, 0x06 or 0x07 with it; an undefined arrival ring 0x0C. With 2,048
transfers in flight it waits. Else, its earlier writes released at core scope (R344), a held transfer with the captured registers, generations and translations is in flight, D is
its TID, and the row's next TID skips 0.

COPY_START and COPY_COMPLETE (R232, R234–R237, R244). A held transfer starts once its gate, as the engine reads it for the
transfer's issuer, has reached GVAL, its pack's rows run if it has them, and its rings have completed its generations; until then
nothing happens. As it starts its ring stages are resolved for good, or it fails. A started one performs some of what is left, at COPY_COMPLETE all of it, each element's bytes going from its source to
its destination and no other byte changing (stated for plain elements from memory to scratchpad). Its increment is added to
its timeline after those of the row's earlier transfers that name the same.

What the spec leaves open here is read or chosen as the model's assumption log says, entries 45 to 49, 58. -/
def Obligations.CopyEngine : Prop :=
  (
    (∀ (s : State) (p r k : Nat) (d : BitVec 6),
      Ready s (.strand p r k) → exec (.cpgo d) s = .next (s.trapsTo (.strand p r k) 0x04 s.fetch.raw)) ∧
    ∀ (s : State) (p r : Nat) (d : BitVec 6),
      let a := Agent.control p r
      let u := s.startCommand a
      let c := s.copySeen p r
      let k := s.pack p
      let w := s.row p r
      let next := if w.nextTid + 1 = 0 then 1 else w.nextTid + 1
      Ready s a →
      (32 ≤ d → exec (.cpgo d) s = .next (s.trapsTo a 0x01 s.fetch.raw)) ∧
      (d < 32 → c.illegal k.ringCount (recLitter (s.record p)) → exec (.cpgo d) s = .next (u.trapsTo a 0x01 s.fetch.raw)) ∧
      (d < 32 → ¬ c.illegal k.ringCount (recLitter (s.record p)) →
        (c.tl.toNat % 8 ≠ 0 → exec (.cpgo d) s = .next (u.trapsTo a 0x05 c.tl)) ∧
        (c.tl.toNat % 8 = 0 → c.gate.toNat % 8 ≠ 0 → exec (.cpgo d) s = .next (u.trapsTo a 0x05 c.gate)) ∧
        (c.tl.toNat % 8 = 0 → c.gate.toNat % 8 = 0 →
          (∀ e, u.timelineCheck a c.tl = .error e → exec (.cpgo d) s = .next (u.trapsTo a e c.tl)) ∧
          (∀ tl v e, u.timelineCheck a c.tl = .ok (tl, v) → v.timelineCheck a c.gate = .error e →
            exec (.cpgo d) s = .next (u.trapsTo a e c.gate)) ∧
          (∀ tl v gate x, u.timelineCheck a c.tl = .ok (tl, v) → v.timelineCheck a c.gate = .ok (gate, x) →
            (c.arr = true → u.ringSeen p r c.aring.toNat = none →
              exec (.cpgo d) s = .next (x.trapsTo a 0x0C (c.aring.setWidth 64))) ∧
            ((c.arr = true → u.ringSeen p r c.aring.toNat ≠ none) → 2048 ≤ s.flying k.core →
              ∃ t, exec (.cpgo d) s = .next t ∧ Frame u t a [] ∧ (t.thread a).waiting = some (.room, s.fetch)) ∧
            ((c.arr = true → u.ringSeen p r c.aring.toNat ≠ none) → s.flying k.core < 2048 →
              ∃ t y, exec (.cpgo d) s = .next t ∧ Goes s t a s.next ∧ t.copies = s.copies ++ [y] ∧
                y.pack = p ∧ y.row = r ∧ y.core = k.core ∧ y.tid = w.nextTid ∧ y.regs = c ∧ y.life = .held ∧ y.tl = tl ∧
                y.gate = gate ∧ y.user = s.userMode a ∧ y.cause = none ∧ y.base = k.base ∧
                (∀ n, dstIsSp c.dir = true → copyRing c.dst = some n → y.genDst = w.gens.getD n 0) ∧
                (∀ n, srcIsSp c.dir = true → copyRing c.src = some n → y.genSrc = w.gens.getD n 0) ∧
                (c.arr = true → y.genArr = w.gens.getD c.aring.toNat 0) ∧
                (∀ e, (t.endRun a e).int a d = if d = 0 then 0 else w.nextTid.setWidth 64) ∧
                Frame (({ x with copies := s.copies ++ [y] } : State).modRow p r fun w => { w with nextTid := next }) t a
                  [.int d]))))
  ) ∧
  (
    (∀ (s : State) (i : Nat) (tr : Transfer),
      let k := s.pack tr.pack
      let look := s.gateLook tr
      let v := look.2
      let may := (∀ x, look.1 = some x → tr.regs.gval.toNat ≤ x.toNat) ∧ (k.life ≠ .resident ∨ k.started = true) ∧
        ∀ x ∈ tr.rings, ∀ g, k.rings.getD x.1 none = some g → x.2 ≤ g.cg
      s.copies[i]? = some tr → tr.life = .held →
      v.packs = s.packs ∧
      (¬ may → ∃ t, exec (.copyStart i) s = .next t ∧ t = v) ∧
      (may → v.startFails tr = none →
        ∃ t y, exec (.copyStart i) s = .next t ∧ t.copies[i]? = some y ∧ y.life = .started ∧ y.tid = tr.tid ∧
          y.regs = tr.regs ∧ y.base = k.base ∧ y.stageSrc = s.copyStage tr.pack tr.regs.src tr.genSrc ∧
          y.stageDst = s.copyStage tr.pack tr.regs.dst tr.genDst ∧ (∀ j, j ≠ i → t.copies[j]? = s.copies[j]?)) ∧
      (∀ c, may → v.startFails tr = some c → s.has (.control tr.pack tr.row) →
        ∃ t y, exec (.copyStart i) s = .next t ∧ t.copies[i]? = some y ∧ y.life = .started ∧ y.left = tr.left ∧
          (t.row tr.pack tr.row).copyErr =
            (if (s.row tr.pack tr.row).copyErr.valid then (s.row tr.pack tr.row).copyErr
             else { tid := tr.tid, valid := true, cause := c }) ∧
          t.mem = v.mem ∧ (t.pack tr.pack).lead = k.lead)) ∧
    (∀ (s : State) (i : Nat) (tr : Transfer) (xl : Nat → Xlate),
      s.copies[i]? = some tr → tr.life = .started → PlainCopy s tr xl → Calm s →
      (∃ t y, exec (.copyStart i) s = .next t ∧ t.copies[i]? = some y ∧ y = { tr with left := y.left, reads := y.reads } ∧
        y.left ⊆ tr.left ∧
        s.copied t tr xl y.left ∧ t.mem = s.mem) ∧
      (tr.regs.arr = false → tr.tl = none →
        ∃ t y, exec (.copyComplete i) s = .next t ∧ t.copies[i]? = some y ∧ y.life = .done ∧ y.left = [] ∧
          s.copied t tr xl [] ∧ t.mem = s.mem)) ∧
    ∀ (s : State) (i : Nat) (tr : Transfer),
      s.copies[i]? = some tr → tr.life = .adding →
      (tr.tl = none → ∃ t, exec (.copyComplete i) s = .next t ∧ t = { s with copies := s.copies.set i { tr with life := .done } }) ∧
      (∀ xl, tr.tl = some xl → (∃ j u, j < i ∧ s.copies[j]? = some u ∧ u.pack = tr.pack ∧ u.row = tr.row ∧
          u.regs.tl = tr.regs.tl ∧ u.life ≠ .done) → ∃ t, exec (.copyComplete i) s = .next t ∧ t = s) ∧
      (∀ xl, tr.tl = some xl → (∀ j u, j < i → s.copies[j]? = some u → u.pack = tr.pack → u.row = tr.row →
          u.regs.tl = tr.regs.tl → u.life = .done) → Calm s → xl.tdev = 0 → xl.vers = false → s.mem.wf = true →
        s.owned (s.pack tr.pack).part xl.pa = true →
        ∃ t y, exec (.copyComplete i) s = .next t ∧ t.copies[i]? = some y ∧ y.life = .done ∧
          ∀ b, memRead t.mem b =
            if xl.pa ≤ b ∧ b < xl.pa + 8
            then (leBytes 8 (leWord (memBytes s.mem xl.pa 8) + tr.regs.inc).toNat).getD (b - xl.pa) 0 else memRead s.mem b)
  )

/-- xdred (R488–R491): it takes a queue entry like a vector instruction, past the checks of its type and its descriptor's
address. Once every other participant's strip has come over the collective's connection (R372, R373), each active element becomes
the contributions combined in position order, the flags joining FPSTATUS at position 0 only; with a route down, a participant
that disagrees, or after the descriptor's timeout, D is unchanged and the status word keeps the first failure. Until then nothing
happens. Stated for a descriptor in unversioned local memory with no timeline, from the state in which the routes' words have been
read. The 1,050 cycles of a µs of the timeout, and that it runs from the issue, are the model's choice (log 149).

What the spec leaves open here is read or chosen as the model's assumption log says, entries 52, 115, 149. -/
def Obligations.CollectiveReduction : Prop :=
  (∀ (s : State) (p r : Nat) (gd : Guard) (vd : BitVec 6) (xa : BitVec 5) (op : BitVec 4),
    let a := Agent.control p r
    let i := Instr.xdred gd vd xa op
    let c := s.vctx p r
    let va := s.xr a xa
    Ready s a → gd.wf →
    (64 ≤ (s.row p r).vq.length → exec i s = .next s) ∧
    ((s.row p r).vq.length < 64 →
      (vd.toNat % c.grp ≠ 0 ∨ 8 < op.toNat ∨ (op.toNat ∈ [0, 2, 3] ∧ c.ew < 32) → exec i s = .next (s.trapsTo a 0x01 s.fetch.raw)) ∧
      (vd.toNat % c.grp = 0 → op.toNat ≤ 8 → ¬ (op.toNat ∈ [0, 2, 3] ∧ c.ew < 32) →
        (va.toNat % 64 ≠ 0 → exec i s = .next (s.trapsTo a 0x05 va)) ∧
        (va.toNat % 64 = 0 →
          (canonical va = false → exec i s = .next (s.trapsTo a 0x07 va)) ∧
          (∀ e, canonical va = true → s.translateFor a va .read = .error e → exec i s = .next (s.trapsTo a e va)) ∧
          (∀ xl u, canonical va = true → s.translateFor a va .read = .ok (xl, u) →
            (u.poisoned xl = true → exec i s = .next (u.trapsTo a 0x0A va)) ∧
            (u.poisoned xl = false →
              let y := s.entryOf p r (.xdred vd va xl op) gd
              ∃ t, exec i s = .next t ∧ Goes s t a s.next ∧ (t.row p r).vq = (s.row p r).vq ++ [y] ∧
                Frame ((u.startCommand a).modRow p r fun w =>
                  { w with vq := w.vq ++ [y], issueSeq := w.issueSeq + 1 }) t a [])))))) ∧
  ∀ (s : State) (p r : Nat) (x : VEntry) (rest : List VEntry) (vd : BitVec 6) (va : BitVec 64) (xl : Xlate) (op : BitVec 4),
    let w := s.row p r
    let c := x.ctx
    let wv := c.wv w.width
    let st := w.strands
    let looked := s.xdredRoutes p va (s.stripSize xl) (s.stripOwn xl)
    let v := looked.2
    let up := s.routesUp p looked.1
    let mine := fun e => if elemActive st wv c.vl x.guard e then some (elemGet st wv c.ew vd e) else none
    s.lanesRun p r = true → w.lanesFree = true → w.vq = x :: rest → x.op = .xdred vd va xl op → Calm s → s.mem.wf = true →
    c.sound w → vd.toNat % c.grp = 0 → op.toNat ≤ 8 → (op.toNat ∈ [0, 2, 3] → 32 ≤ c.ew) → xl.tdev = 0 → xl.vers = false →
    s.stripWord xl 0x10 = 0 → (∀ pa n, v.mailboxBusy pa n = false) →
    (up = false →
      ∃ t, exec (.xdredTimeout p r) s = .next t ∧ (t.row p r).strands = st ∧ StripEnds s v t p r rest xl 2) ∧
    (up = true → s.stripLate xl x.cycle →
      ∃ t, exec (.xdredTimeout p r) s = .next t ∧ (t.row p r).strands = st ∧ StripEnds s v t p r rest xl 1) ∧
    (up = true → ¬ s.stripLate xl x.cycle → ∃ t, exec (.xdredTimeout p r) s = .next t ∧ t = s) ∧
    ∀ peers : List PeerStrip,
      let joined := ∃ cn ∈ s.conns, cn.owner = .collective p r x.seq ∧ cn.slots ≠ []
      (¬ s.stripThere xl peers ∨ ¬ joined → ∃ t, exec (.xdredComplete p r peers) s = .next t ∧ t = s) ∧
      (s.stripThere xl peers → joined → 2 ≤ s.stripSize xl → s.stripSize xl ≤ 128 →
        (up = false → ∃ t, exec (.xdredComplete p r peers) s = .next t ∧ (t.row p r).strands = st ∧
          StripEnds s v t p r rest xl 2) ∧
        (up = true → ¬ s.stripAgrees xl c op peers → ∃ t, exec (.xdredComplete p r peers) s = .next t ∧
          (t.row p r).strands = st ∧ StripEnds s v t p r rest xl 3) ∧
        (up = true → s.stripAgrees xl c op peers →
          let res := fun e => stripOf op.toNat c.ew (s.stripParts xl c peers mine e)
          ∃ t, exec (.xdredComplete p r peers) s = .next t ∧ StripEnds s v t p r rest xl 0 ∧
            (∀ e, e < wv * c.grp * (64 / c.ew) →
              elemGet (t.row p r).strands wv c.ew vd e =
                if groupReg c wv vd e = 0 then 0
                else if elemActive st wv c.vl x.guard e then ((res e).1.map fun v => v % 2 ^ c.ew).getD (elemGet st wv c.ew vd e)
                else elemGet st wv c.ew vd e) ∧
            (∀ k n, (k < wv → ¬ inGroup c vd n) →
              ((t.row p r).strands.getD k Strand.idle).greg n = (st.getD k Strand.idle).greg n) ∧
            (t.row p r).fp.flags =
              if s.stripOwn xl = 0 then (List.range c.vl).foldl (fun f e => f ||| (res e).2) w.fp.flags else w.fp.flags))

/-! ## Launches, scheduling and errors -/

/-- launch (R379, R380): the checks in order, each with the record's or the slot's address; a queue not owned by the device
raises 0x07; one that is disabled or full gives 0 and takes nothing. Else the record stands in the queue's next slot with a new
launch identifier and VALID, WRIDX has risen by one, and D is the identifier. Stated for records and slots in unversioned local
memory.

The front end takes records (R376, R378) and launches (R381). A record whose VALID it observes gets an identifier if it has
none, and RDIDX rises by one: a legal one waits at its queue's head, a refused one completes at once with code 3. Of the heads
whose gates are met, the one of lowest PRIO is taken next; a head whose gate cannot be read is refused.

What the spec leaves open here is read or chosen as the model's assumption log says, entries 57, 70, 71, 143. -/
def Obligations.LaunchesAreMade : Prop :=
  (
    ∀ (s : State) (p r : Nat) (xd xa : BitVec 5),
      let a := Agent.control p r
      let va := s.xr a xa
      let i := Instr.launch xd xa
      let c := s.context (s.pack p).ctx
      Ready s a →
      (va.toNat % 128 ≠ 0 → exec i s = .next (s.trapsTo a 0x05 va)) ∧
      (va.toNat % 128 = 0 →
        (canonical va = false → exec i s = .next (s.trapsTo a 0x07 va)) ∧
        (∀ e, canonical va = true → s.translateFor a va .read = .error e → exec i s = .next (s.trapsTo a e va)) ∧
        (∀ xl u, canonical va = true → s.translateFor a va .read = .ok (xl, u) →
          (u.recordPoisoned a xl = true → exec i s = .next (u.trapsTo a 0x0A va)) ∧
          (u.recordPoisoned a xl = false → (s.pack p).ospec ≠ none → exec i s = .next (u.trapsTo a 0x0D va)) ∧
          (Calm s → (s.pack p).ospec = none → xl.tdev = 0 → xl.vers = false →
            let rec_ := u.recordAt xl.pa
            let q := bitsOf (recWord rec_ 4) 53 48
            let d := c.queue q
            let w := u.writeIndex c q
            let f := u.forgetAt a xl.pa 128
            (d.owner = false → exec i s = .next (u.trapsTo a 0x07 va)) ∧
            (d.owner = true → ¬ d.read ∨ 2 ^ d.log2 ≤ (w + 2 ^ 64 - u.readIndex c q) % 2 ^ 64 →
              ∃ t, exec i s = .next t ∧ Goes s t a s.next ∧ Frame u t a [.int (xd.setWidth 6)] ∧
                ∀ e, (t.endRun a e).xr a xd = 0) ∧
            (d.owner = true → d.read → (w + 2 ^ 64 - u.readIndex c q) % 2 ^ 64 < 2 ^ d.log2 →
              (∀ e v, f.writeCheck a (d.slot w) 8 = .error (e, v) → exec i s = .next (v.trapsTo a e (d.slot w))) ∧
              (∀ y v, f.writeCheck a (d.slot w) 8 = .ok (y, v) → y.tdev = 0 → y.vers = false → v.mem.wf = true →
                (y.pa + 128 ≤ c.descriptor q + 0x10 ∨ c.descriptor q + 0x18 ≤ y.pa) →
                (∀ m ∈ s.partitions, ¬ (m.mailbox < y.pa + 128 ∧ y.pa < m.mailbox + 8)) →
                ∃ t, exec i s = .next t ∧ Goes s t a s.next ∧ t.nextLid = lidNext s.nextLid ∧
                  (∀ e, (t.endRun a e).xr a xd = if xd = 0 then 0 else s.nextLid.setWidth 64) ∧
                  (∀ b n, b.pr = (p, r) → (b = a → n ≠ .int (xd.setWidth 6)) → t.regNow b n = s.regNow b n) ∧
                  ∀ b, Untraced s p b → memRead t.mem b =
                    if y.pa ≤ b ∧ b < y.pa + 128 then (placedRecord rec_ s.nextLid).getD (b - y.pa) 0
                    else if c.descriptor q + 0x10 ≤ b ∧ b < c.descriptor q + 0x18
                    then (leBytes 8 (w + 1)).getD (b - (c.descriptor q + 0x10)) 0 else memRead v.mem b)))))
  ) ∧
  (
    (∀ (s : State) (ctx q : Nat),
      let c := s.context ctx
      let d := c.queue q
      let i := s.readIndex c q
      (s.ctxRuns ctx = false ∨ ¬ d.read ∨ (∃ h ∈ s.heads, h.ctx = ctx ∧ h.q = q) →
        ∃ t, exec (.launchRecordTake ctx q) s = .next t ∧ t = s) ∧
      (∀ xl, s.ctxRuns ctx = true → d.read → (∀ h ∈ s.heads, ¬ (h.ctx = ctx ∧ h.q = q)) → Calm s → s.mem.wf = true →
        s.translate ctx frontDie (d.slot i) .readWrite false = .ok (xl, s) → xl.tdev = 0 → xl.vers = false →
        (xl.pa + 128 ≤ c.descriptor q + 0x18 ∨ c.descriptor q + 0x20 ≤ xl.pa) →
        (∀ m ∈ s.partitions, ¬ (m.mailbox < xl.pa + 128 ∧ xl.pa < m.mailbox + 8)) →
        let rec_ := s.recordAt xl.pa
        let w := recWord rec_ 15
        let lid := if w.setWidth 32 = 0#32 then s.nextLid else w.setWidth 32
        let w' := wrap64 (bitsOf w 62 32 * 2 ^ 32 + lid.toNat)
        let rec' := rec_.set 15 w'
        (w.getLsbD 63 = false → ∃ t, exec (.launchRecordTake ctx q) s = .next t ∧ t = s) ∧
        (w.getLsbD 63 = true → (ctx, lid) ∉ s.pendingEnd →
          ∃ t, exec (.launchRecordTake ctx q) s = .next t ∧
            t.nextLid = (if w.setWidth 32 = 0#32 then lidNext s.nextLid else s.nextLid) ∧
            (∀ b, memRead t.mem b =
              if xl.pa + 120 ≤ b ∧ b < xl.pa + 128 then (leBytes 8 w'.toNat).getD (b - (xl.pa + 120)) 0
              else if c.descriptor q + 0x18 ≤ b ∧ b < c.descriptor q + 0x20
              then (leBytes 8 ((i + 1) % 2 ^ 64)).getD (b - (c.descriptor q + 0x18)) 0 else memRead s.mem b) ∧
            (recordLegal rec' → t.heads = s.heads ++ [{ ctx := ctx, q := q, rec_ := rec', lid := lid }] ∧
              t.launches = s.launches) ∧
            (¬ recordLegal rec' → t.heads = s.heads ∧ ∃ l : Launch, t.launches = s.launches ++ [l] ∧ l.ctx = ctx ∧ l.lid = lid ∧
              l.refused = true ∧ l.block = [3 * 256 + 2, 0, 0, 0])))) ∧
    ∀ (s : State),
      let ready := fun (h : Head) => s.gateOf h = some true
      let prio := fun (h : Head) => bitsOf (recWord h.rec_ 4) 42 40
      ((∀ h ∈ s.heads, s.gateOf h = some false) → ∃ t, exec .launchSelect s = .next t ∧ t = s) ∧
      ((∃ h ∈ s.heads, s.gateOf h = none) →
        ∃ (t : State) (h : Head) (l : Launch), exec .launchSelect s = .next t ∧ h ∈ s.heads ∧ s.gateOf h = none ∧ h ∉ t.heads ∧
          t.launches = s.launches ++ [l] ∧ l.ctx = h.ctx ∧ l.lid = h.lid ∧ l.refused = true) ∧
      ((∀ h ∈ s.heads, s.gateOf h ≠ none) → (∃ h ∈ s.heads, ready h) → (∀ k ∈ s.packs, k.life = .resident → k.started = true) →
        ∃ (t : State) (h : Head) (l : Launch), exec .launchSelect s = .next t ∧ h ∈ s.heads ∧ ready h ∧
          (∀ k ∈ s.heads, ready k → prio h < prio k ∨ (prio h = prio k ∧ s.headTurn h ≤ s.headTurn k)) ∧
          t.heads = s.heads.filter (fun k => decide (k ≠ h)) ∧ t.launches = s.launches ++ [l] ∧ t.packs = s.packs ∧ l.ctx = h.ctx ∧ l.lid = h.lid ∧ l.rec_ = h.rec_ ∧ l.refused = false ∧
          l.completed = false ∧ tget t.served (prio h) = some (h.ctx, h.q))
  )

/-- PACK_PLACE and PACK_RESUME serve the first waiting pack alone (R382–R384, R387, R390, R295). One that could fit nowhere ends
with code 5. One that fits is placed on the core chosen, at the lowest base and row contexts, its rows at ENTRY in user mode
(stated without a litter). One that fits nowhere now makes the requests of R387, or changes nothing. A saved pack whose image is
refused, or cannot be read, ends with code 2 in its launch's failure record; one whose image stands resumes with its x and p registers,
PCs and scratchpad as the image has them.

What placement gives a row (R157, R184, R25, R384): one strand state and register file per strand, all IDLE and clear,
user mode, INTRAP clear, EXCSEL 7, RM 1, VL 0, TFORCE 100, the granted lanes in service, the handler of its context.

What the spec leaves open here is read or chosen as the model's assumption log says, entries 10, 11, 64, 67, 74 to 76, 116, 142. -/
def Obligations.PacksArePlaced : Prop :=
  (
    (∀ s : State, s.waiting = [] →
      (∃ t, exec .packPlace s = .next t ∧ t = s) ∧ ∃ t, exec .packResume s = .next t ∧ t = s) ∧
    (∀ (s : State) (c : Cand), s.firstWaiting = some c → s.comesFirst c) ∧
    (∀ (s : State) (n : Need) (core : Nat) (contexts : List Nat) (base : Nat),
      s.chooseFit n = some (core, contexts, base) → s.fitsBest n core contexts base) ∧
    (∀ (s : State) (l : Nat),
      let k := s.launch l
      let c := Cand.fresh l
      let n := s.candNeed c
      let p := s.packs.length
      s.firstWaiting = some c → l < s.launches.length →
      (s.unplaceable n = true →
        ∃ t, exec .packPlace s = .next t ∧ (t.pack p).life = .ended ∧ t.packs.length = p + 1 ∧
          ((∀ f ∈ k.fails, f.index ≠ BitVec.ofNat 32 k.nextPack) → (t.launch l).fails =
            k.fails ++ [{ index := BitVec.ofNat 32 k.nextPack, code := 5, tcause := 0, tpc := 0 }]) ∧
          ∀ q, q < p → (t.pack q).life = (s.pack q).life) ∧
      (∀ core contexts base a, s.unplaceable n = false → s.chooseFit n = some (core, contexts, base) →
        s.kennelRoom k.ctx (largestImage n) (s.reservations k.ctx []) = some a → recLitter k.rec_ < 2 →
        ∃ t, exec .packPlace s = .next t ∧ t.packs.length = p + 1 ∧ (∀ q, q < p → (t.pack q).life = (s.pack q).life) ∧
          t.mem = s.mem ∧ (t.pack p).life = .resident ∧ (t.pack p).started = true ∧ (t.pack p).core = core ∧
          (t.pack p).base.toNat = 65536 * base % 2 ^ 22 ∧ (t.pack p).packId = s.nextPackId ∧
          (t.pack p).index = BitVec.ofNat 32 k.nextPack ∧ (t.launch l).nextPack = k.nextPack + 1 ∧
          (t.pack p).kaddr = BitVec.ofNat 48 a ∧ (t.pack p).lead = Side.empty ∧ (t.pack p).foll = Side.empty ∧
          (∀ m, (t.pack p).rings.getD m none = none) ∧ (t.pack p).rows.length = contexts.length ∧
          ∀ j, j < contexts.length →
            RowPlaced (t.row p j) (BitVec.ofNat 48 (bitsOf (recWord k.rec_ 0) 47 0)) ((s.context k.ctx).haddr &&& ~~~1)
              (s.widthAt n core) ((s.widthAt n core).grant.toNat * if n.braced then 2 else 1) (contexts.getD j 0)
              (foreignTag k.rec_)) ∧
      (s.unplaceable n = false → s.chooseFit n = none → s.askedStill l k.nextPack = false →
        (s.preemptFor c (s.candKey c).1 = none → ∃ t, exec .packPlace s = .next t ∧ t = s) ∧
        ∀ ps, s.preemptFor c (s.candKey c).1 = some ps →
          ∃ t, exec .packPlace s = .next t ∧
            ∀ q ∈ ps, ∀ m ∈ s.litterPacks q, (s.pack m).life = .resident → s.askedToLeave t m)) ∧
    ∀ (s u : State) (p : Nat) (v : Saved) (core : Nat) (contexts : List Nat) (base : Nat) (b : List (BitVec 8)),
      let k := s.pack p
      let n := s.candNeed (.old p)
      s.firstWaiting = some (.old p) → k.life = .saved → k.saved = some v → s.unplaceable n = false →
      s.chooseFit n = some (core, contexts, base) → s.litterOf p = none →
      (∃ t, exec .packPlace s = .next t ∧ t = s) ∧
      let refused := ∃ t, exec .packResume s = .next t ∧ (t.pack p).life = .ended ∧
        (∀ q, q ≠ p → (t.pack q).life = (s.pack q).life) ∧
        (k.launch < s.launches.length → (∀ f ∈ (s.launch k.launch).fails, f.index ≠ k.index) →
          (t.launch k.launch).fails = (s.launch k.launch).fails ++ [{ index := k.index, code := 2, tcause := 0, tpc := 0 }])
      (s.imgReads k.ctx core (va64 k.kaddr) v.size = (none, u) → refused) ∧
      (s.imgReads k.ctx core (va64 k.kaddr) v.size = (some b, u) →
        (u.imageBad p v b = true → refused) ∧
        (u.imageBad p v b = false → (∀ w ∈ k.rows, w.debugWrites = []) →
          ∃ t, exec .packResume s = .next t ∧ (t.pack p).life = .resident ∧ (t.pack p).core = core ∧
            (t.pack p).base.toNat = 65536 * base % 2 ^ 22 ∧ (∀ q, q ≠ p → (t.pack q).life = (s.pack q).life) ∧ t.mem = u.mem ∧
            (∀ j, j < k.rows.length → ∀ i : BitVec 6, i ≠ 0 → i < 32 →
              t.regNow (.control p j) (.int i) = imgAt b (4096 + 4096 * j + 8 * i.toNat)) ∧
            (∀ j, j < k.rows.length → ∀ i : BitVec 5, i ≠ 0 →
              t.regNow (.control p j) (.pred i) = imgAt b (4096 + 4096 * j + 256 + 8 * i.toNat)) ∧
            (∀ j, j < k.rows.length →
              let word := fun i => (imgAt b (4096 + 4096 * j + 8 * i)).setWidth 48
              let pc := if (imgAt b (4096 + 4096 * j + 0x208)).getLsbD 1 then word 130 else word 64
              (t.row p j).width = s.widthAt n core ∧
              match (s.row p j).thread.waiting with
              | some (.slot, f) => (t.row p j).thread.waiting = some (.slot, { f with npc := pc })
              | _ => (t.row p j).thread.pc = pc) ∧
            ∀ o, o < 65536 * k.units →
              memRead (t.pack p).lead.sp o =
                b.getD (imgSp k.rows.length v.held (if k.braced then 2 else 1) k.tiles + o) 0))
  ) ∧
  (
    ∀ (entry : BitVec 48) (n : Nat) (w : Width) (haddr : BitVec 48) (foreign right : Bool) (c m slot : Nat),
      let r := Row.placed entry n w haddr foreign right c m slot
      r.thread.pc = entry ∧ r.haddr = haddr ∧ (∀ i : Fin 32, r.x[i] = 0) ∧ (∀ i : Fin 32, r.p[i] = 0) ∧
      r.strands.length = n ∧ (∀ t ∈ r.strands, t.state = .idle ∧ t.leash = 0 ∧ t.idem = false ∧ t.pend = false ∧
        (∀ i : Fin 64, t.g[i] = 0)) ∧
      r.status.word 0 = 0 ∧ r.fp.word = 0x70001 ∧ r.vl = 0 ∧ r.vstart = 0 ∧ r.snap = 0 ∧ r.txstart = 0 ∧ r.scratch = 0 ∧
      r.width = w ∧ (∀ i, i < 64 → r.rowmask.getLsbD i = decide (i < w.grant.toNat)) ∧ r.preempt.word = 100 * 2 ^ 12 ∧
      r.copyErr.valid = false ∧ r.vq = [] ∧ r.tx = none
  )

/-- Saves, their withdrawal, and the swap (R285–R289, R388). A pack whose every row is parked or ended, with its queues and posts
empty, is saved; after a request a forced save first stops every other row and sets FORCED, and is taken once what must
complete has. A withdrawn request lets parked and stopped rows go on, but one for a core that retires part of itself stands. A die whose resident rows have not issued for the limit
of the first waiting pack asks its pack of highest PRIO value and earliest placement to leave; it rejoins after the packs of its PRIO.

What the spec leaves open here is read or chosen as the model's assumption log says, entries 58 to 60, 67, 68, 77, 139, 144. -/
def Obligations.SavesAndSwap : Prop :=
  (∀ (s : State) (p : Nat),
    let k := s.pack p
    let running := p < s.packs.length ∧ k.life = .resident ∧ k.started = true
    let calmCopies := ∀ x ∈ s.copies, x.pack = p → x.life ≠ .started
    let leaving := s.coreLeaving k.core = true ∨ (k.braced = true ∧ s.coreLeaving (k.core + 1) = true)
    (¬ (running ∧ (∀ w ∈ k.rows, w.settled) ∧ ∃ w ∈ k.rows, w.preempt.park = true) →
      ∃ t, exec (.setvlSave p) s = .next t ∧ t = s) ∧
    (running → (∀ w ∈ k.rows, w.settled) → (∃ w ∈ k.rows, w.preempt.park = true) → calmCopies → s.kennelTakes p false false →
      ∃ t, exec (.setvlSave p) s = .next t ∧ Shelved s t p false) ∧
    (∀ discard, ¬ (running ∧ k.ospec = none ∧ ∃ w ∈ k.rows, w.preempt.req = true) →
      ∃ t, exec (.forcedSave p discard) s = .next t ∧ t = s) ∧
    (∀ discard, running → k.ospec = none → (∃ w ∈ k.rows, w.preempt.req = true) →
      let idle := fun (w : Row) => w.stopped = true ∨ w.preempt.park = true ∨ w.life = .ended
      ((∃ w ∈ k.rows, ¬ idle w) →
        ∃ t, exec (.forcedSave p discard) s = .next t ∧ (t.pack p).life = .resident ∧
          (∀ j, j < k.rows.length → (t.row p j).preempt.forced = true ∧ idle (t.row p j) ∧
            (s.row p j).preempt.park = (t.row p j).preempt.park ∧
            ((s.row p j).thread.slotWait.isSome = true → (t.row p j).vq = (s.row p j).vq) ∧
            (t.row p j).unslotted.vq = (s.row p j).unslotted.vq) ∧
          (∀ b n, b.pr.1 = p → t.regNow b n = s.regNow b n) ∧
          (∀ j i, (t.strand p j i).state = (s.strand p j i).state ∧ (t.strand p j i).thread.pc = (s.strand p j i).thread.pc) ∧
          ∀ q, q ≠ p → t.pack q = s.pack q) ∧
      ((∀ w ∈ k.rows, w.halfway ∨ w.settled) → (∃ w ∈ k.rows, w.stopped = true) → (∀ w ∈ k.rows, idle w) → calmCopies →
        (s.cutLoads p).kennelTakes p true discard →
        ∃ t, exec (.forcedSave p discard) s = .next t ∧ Shelved s t p true)) ∧
    (k.life ≠ .resident ∨ leaving → ∃ t, exec (.preemptWithdraw p) s = .next t ∧ t = s) ∧
    (k.life = .resident → ¬ leaving → ∃ t, exec (.preemptWithdraw p) s = .next t ∧
      (t.pack p).rest = { k.rest with swapping := false } ∧ (t.pack p).rows.length = k.rows.length ∧ t.mem = s.mem ∧
      (∀ j, j < k.rows.length → t.row p j =
        { s.row p j with stopped := false, preempt := { (s.row p j).preempt with req := false, park := false, forced := false } }) ∧
      ∀ q, q ≠ p → t.pack q = s.pack q)) ∧
  ∀ (s : State) (d : Nat),
    let here := fun p => p < s.packs.length ∧ (s.pack p).life = .resident ∧ dieOf (s.pack p).core = d
    let quiet := fun c => s.swapLimit d c ≤ s.cycle - (s.dies.getD d Die.reset).lastIssue
    (s.firstWaiting = none ∨ (∃ c, s.firstWaiting = some c ∧ ¬ quiet c) ∨ (∀ p, ¬ here p) →
      ∃ t, exec (.swapExpiry d) s = .next t ∧ t = s) ∧
    ∀ c, s.firstWaiting = some c → quiet c → (∃ p, here p) →
      ∃ t p, exec (.swapExpiry d) s = .next t ∧ here p ∧
        (∀ q, here q → (s.pack q).prio < (s.pack p).prio ∨
          ((s.pack q).prio = (s.pack p).prio ∧ (s.pack p).placedAt ≤ (s.pack q).placedAt)) ∧
        ((∃ w ∈ (s.pack p).rows, w.preempt.req = true) → t = s) ∧
        ((∀ w ∈ (s.pack p).rows, w.preempt.req = false) →
          ∀ q ∈ s.litterPacks p, (s.pack q).life = .resident → s.askedToLeave t q ∧
            ((t.pack q).life = .resident → (t.pack q).swapping = true) ∧
            ((t.pack q).life ≠ .resident → (t.pack q).swapping = false ∧ ∃ n, (t.pack q).swapped = some n ∧ s.nextOrder ≤ n))

/-- LAUNCH_COMPLETE (R390, R391, R430): once every pack has ended and every transfer of theirs has completed, the status block
stands at STATP, DONEINC is added at DONETL, the launch's snapshots are closed, and the launch has completed; before that, and
twice, nothing happens. Stated for addresses in unversioned local memory.

What the spec leaves open here is read or chosen as the model's assumption log says, entries 70, 72, 146. -/
def Obligations.LaunchCompletes : Prop :=
  ∀ (s : State) (l : Nat),
    let k := s.launch l
    let allEnded := (k.refused = true ∨ k.ended + k.cut = bitsOf (recWord k.rec_ 3) 31 0) ∧
      ∀ x ∈ s.copies, (s.pack x.pack).launch = l → x.life = .done
    let statp := recWord k.rec_ 9
    let done := recWord k.rec_ 7
    let open_ := s.snapshots.filter fun e => decide (e.lid ≠ k.lid ∨ e.part ≠ (s.context k.ctx).part)
    let words := k.block.flatMap fun v => leBytes 8 v
    let written := fun (x : Xlate) => ({ s with snapshots := open_, mem := memPut s.mem x.pa words } : State)
    (s.launches.length ≤ l ∨ k.completed = true ∨ ¬ allEnded → ∃ t, exec (.launchComplete l) s = .next t ∧ t = s) ∧
    (∀ x y, l < s.launches.length → k.completed = false → allEnded → Calm s → s.mem.wf = true →
      statp ≠ 0 → statp.toNat % 32 = 0 → canonical statp = true → done ≠ 0 → done.toNat % 8 = 0 → canonical done = true →
      s.translate k.ctx frontDie statp .write false = .ok (x, s) → x.tdev = 0 → x.vers = false →
      (written x).translate k.ctx frontDie done .readWrite false = .ok (y, written x) → y.tdev = 0 → y.vers = false →
      s.owned (s.context k.ctx).part y.pa = true → (x.pa + 32 ≤ y.pa ∨ y.pa + 8 ≤ x.pa) → (∀ m ∈ s.partitions, ¬ (m.mailbox < y.pa + 8 ∧ y.pa < m.mailbox + 8)) →
      ∃ t, exec (.launchComplete l) s = .next t ∧ (t.launch l).completed = true ∧ (t.launch l).lid = k.lid ∧
        t.snapshots = open_ ∧
        t.packs = s.packs ∧
        ∀ b, memRead t.mem b =
          if x.pa ≤ b ∧ b < x.pa + 32 then words.getD (b - x.pa) 0
          else if y.pa ≤ b ∧ b < y.pa + 8
          then (leBytes 8 (leWord (memBytes s.mem y.pa 8) + recWord k.rec_ 8).toNat).getD (b - y.pa) 0 else memRead s.mem b)

/-- SECDED_ERROR and the lane groups (R168, R169, R226, R229, R296–R298). A correctable error is corrected and counted, and one
that makes the count marks its lane. An uncorrectable one poisons the word, be it of a register, the scratchpad, an accumulator or the
L1: where it is scrubbed, row 0 of the owning pack may take a machine check with the syndrome of R297. A control thread's or a LOOSE
strand's instruction that reads a poisoned register consumes it, and its row takes the machine check. An uncorrectable error in a strand's
register or datapath marks the lane. A parity error of the instruction cache is counted apart.

What the spec leaves open here is read or chosen as the model's assumption log says, entries 23, 79 to 82. -/
def Obligations.CoreSramErrors : Prop :=
  (∀ (s : State) (c : Nat) (e : SramError), e.unit = .icache →
    ∃ t, exec (.secdedError c e) s = .next t ∧ t = s.modCore c fun k => { k with icacheErrors := k.icacheErrors + 1 }) ∧
  (∀ (s : State) (c : Nat) (e : SramError), e.unit ≠ .icache → e.correctable = true → c < s.cores.length →
    ∃ t, exec (.secdedError c e) s = .next t ∧ (t.core c).corrected = (s.core c).corrected + 1 ∧
      (t.core c).uncorrected = (s.core c).uncorrected ∧
      (∀ lane,
        (∃ p r, e.unit = .datapath p r lane) ∨
          (∃ p r k reg, e.unit = .strandReg p r k reg ∧ lane = laneAt (s.core c).healthy (s.row p r).width.grant.toNat k) →
        let marks := s.laneRetire ≤ errorsNow (s.core c).laneErrors lane s.cycle
        (marks → s.laneMarked t c lane) ∧
        (¬ marks → t.packs = s.packs ∧ (t.core c).retire = (s.core c).retire ∧ t.mem = s.mem)) ∧
      ((∀ p r lane, e.unit ≠ .datapath p r lane) → (∀ p r k reg, e.unit ≠ .strandReg p r k reg) →
        t = s.modCore c fun k => { k with corrected := k.corrected + 1 })) ∧
  (∀ (s : State) (c : Nat) (e : SramError), e.unit ≠ .icache → e.correctable = false → c < s.cores.length →
    ∃ t, exec (.secdedError c e) s = .next t ∧ (t.core c).uncorrected = (s.core c).uncorrected + 1 ∧
      (∀ p r reg, e.unit = .controlReg p r reg → (s.pack p).on c = true → reg < 64 →
        let n : RegName := if reg < 32 then .int (BitVec.ofNat 6 reg) else .pred (BitVec.ofNat 5 (reg - 32))
        (∀ b m, b ≠ .control p r ∨ m ≠ n → t.regNow b m = s.regNow b m) ∧ (n = .int 0 ∨ n = .pred 0 → t.packs = s.packs) ∧
        (n ≠ .int 0 → n ≠ .pred 0 → r < (s.pack p).rows.length →
          (∀ m, m ∈ (t.row p r).bad ↔ m = n ∨ m ∈ (s.row p r).bad) ∧
          (s.row p 0).mayReport (t.row p 0) (syndromeOf 1 false (reg % 32) 0))) ∧
      (∀ p r pa, e.unit = .l1 p r pa → (s.pack p).on c = true →
        (∀ w, w ∈ (t.core c).l1Bad ↔ w = pa / 8 ∨ w ∈ (s.core c).l1Bad) ∧ t.mem = s.mem ∧
        (0 < (s.pack p).rows.length →
          (s.row p 0).mayBeChecked (t.row p 0) (syndromeOf 5 (decide ((s.pack p).core ≠ c)) 0 pa))) ∧
      (∀ p tile word foll, e.unit = .accumulator p tile word foll → (s.pack p).on c = true → p < s.packs.length →
        (∀ w, w ∈ (t.side p foll).accPoison ↔ w = 4096 * tile + word % 4096 ∨ w ∈ (s.side p foll).accPoison) ∧
        t.side p (!foll) = s.side p (!foll) ∧
        (0 < (s.pack p).rows.length → (s.row p 0).mayBeChecked (t.row p 0) (syndromeOf 4 foll tile 0))) ∧
      (∀ addr p foll off, e.unit = .scratchpad addr → e.persistent = false → s.ownerOf c addr = some (p, foll, off) →
        (∀ w, w ∈ (t.side p foll).spPoison ↔ w = off / 8 ∨ w ∈ (s.side p foll).spPoison) ∧
        (t.side p foll).sp = (s.side p foll).sp) ∧
      (∀ p r lane, e.unit = .datapath p r lane → s.laneMarked t c lane) ∧
      (∀ p r k reg, e.unit = .strandReg p r k reg →
        s.laneMarked t c (laneAt (s.core c).healthy (s.row p r).width.grant.toNat k) ∧
        ((s.pack p).on c = true → reg < 96 → (s.pack p).ospec = none → (s.pack p).started = true → k < (s.row p r).strands.length →
          let n : RegName := if reg < 64 then .int (BitVec.ofNat 6 reg) else .pred (BitVec.ofNat 5 (reg - 64))
          n ≠ .int 0 → n ≠ .pred 0 →
          (∀ m, m ∈ (t.strand p r k).bad ↔ m = n ∨ m ∈ (s.strand p r k).bad) ∧
          (s.row p 0).mayReport (t.row p 0)
            (syndromeOf 2 (decide ((s.row p r).width.grant.toNat ≤ k)) (if reg < 64 then reg else reg - 64) 0))) ∧
      (∀ addr, e.unit = .scratchpad addr → e.persistent = true →
        addr / 65536 ∈ (t.core c).unitsMarked ∧ s.coreAsked t c)) ∧
  (∀ (s u : State) (a : Agent) (i : Instr) (n : RegName),
    let p := a.pr.1
    let r := a.pr.2
    (s.thread a).waiting = none → s.thread a ≠ u.thread a → (s.reading a i).find? (fun m => decide (m ∈ s.badRegs a)) = some n →
    r < (s.pack p).rows.length → r < (u.pack p).rows.length → (u.row p r).mcheck = none →
    let check := fun (syn : BitVec 64) (elem : Nat) =>
      ((s.consumed u a i).row p r).mcheck = some { syndrome := syn, elem := BitVec.ofNat 13 elem }
    (a = .control p r → check (syndromeOf 1 false n.unit 0) 0) ∧
    ∀ k, a = .strand p r k → s.groupOf p r k = [k] → (u.row p r).discardable = false →
      check (syndromeOf 2 (decide ((u.row p r).width.grant.toNat ≤ k)) n.unit 0) k) ∧
  ∀ (s : State) (c g : Nat), c < s.cores.length → g < 4 →
    (s.groupUsed c g = true → ∃ t, exec (.laneGroupGate c g) s = .next t ∧ t = s) ∧
    (s.groupUsed c g = false → ∃ t, exec (.laneGroupGate c g) s = .next t ∧ ∃ b : BitVec 4,
      t = s.modCore c (fun k => { k with gated := b }) ∧ ∀ i, i < 4 → b.getLsbD i = ((s.core c).gated.getLsbD i || i == g)) ∧
    ∃ t, exec (.laneGroupWake c g) s = .next t ∧ ∃ b : BitVec 4,
      t = s.modCore c (fun k => { k with gated := b }) ∧ ∀ i, i < 4 → b.getLsbD i = ((s.core c).gated.getLsbD i && i != g)

/-- L2_ERROR, BENES_PARITY_ERROR and TLB_PARITY_ERROR (R318, R325–R328): every error of a way in service is counted; 16
correctable ones of a way within the span, or a persistent uncorrectable one, retire it; the data of a dirty line, or of one
transaction's copy, are lost; an error in the network's repeated pass marks its core; a TLB entry in error is counted, and dropped
with every other copy of its translation in the cluster. An index that names no entry changes nothing.

CORE_QUIESCE and ROUTER_PARITY_ERROR (R168, R226, R392, R393): a core with no resident pack retires what is marked; once the
cores of a die's failed routers are all out of use its new route set passes none of them. A router's error is counted with its
CYCLE; a second one in its slot-table or route entry within the span fails the router and marks its cluster's cores, and one that held
a ring port takes every pack off the die; around an IO die's router the routes pass at once.

SLOT_TABLE_EDIT and the routes (R367, R368, R370, R373, R385): on a die with its first route set a flit goes along x, then
along y; the ring is taken the way with fewer hops, clockwise where they are equal. Connections no longer wanted leave the
tables, and those that wait for slots take what is free; a litter placed whole gets connections, each with its slots on every link, and
starts, or is withdrawn where a link has too few free slots; a collective's connection changes no pack.

What the spec leaves open here is read or chosen as the model's assumption log says, entries 56, 73, 82, 132, 133, 140, 141. -/
def Obligations.SliceErrorsAndUpkeep : Prop :=
  (
    (∀ (s : State) (cluster bank way : Nat) (kind : L2ErrorKind) (line : Nat),
      (s.wayIn cluster bank way = false ∨ bankOf line ≠ bank → ∃ t, exec (.l2Error cluster bank way kind line) s = .next t ∧ t = s) ∧
      (cluster < s.clusters.length → s.wayIn cluster bank way = true → bankOf line = bank →
      let key := 16 * bank + way
      let k := s.clusters.getD cluster Cluster.reset
      let k' := fun (t : State) => t.clusters.getD cluster Cluster.reset
      let kept := fun (t : State) => t.packs = s.packs ∧ t.mem = s.mem ∧ t.poison = s.poison ∧ t.cores = s.cores ∧ (k' t).waysOut = k.waysOut
      ∃ t, exec (.l2Error cluster bank way kind line) s = .next t ∧
        tget (k' t).errors key = some ((tget k.errors key).getD 0 + 1) ∧
        (kind = .correctable → (16 ≤ errorsNow k.recent key s.cycle → s.wayGone t cluster bank way) ∧
          (errorsNow k.recent key s.cycle < 16 → kept t)) ∧
        (kind = .uncorrectableClean true → s.wayGone t cluster bank way) ∧
        (kind = .uncorrectableClean false ∨ kind = .tag false → kept t) ∧
        (kind = .uncorrectableDirty true → s.wayGone t cluster bank way) ∧
        (kind = .uncorrectableDirty false ∨ kind = .tag true → s.lineLost t cluster line ∧ t.mem = s.mem ∧ t.cores = s.cores))) ∧
    (∀ (s : State) (c : Nat) (again : Bool),
      ∃ t, exec (.benesParityError c again) s = .next t ∧
        (c < s.cores.length → (t.core c).networkErrors = (s.core c).networkErrors + 1) ∧
        (again = false → t = s.modCore c fun k => { k with networkErrors := k.networkErrors + 1 }) ∧
        (again = true → s.coreMarked t c)) ∧
    ∀ (s : State) (cluster idx : Nat),
      let k := s.clusters.getD cluster Cluster.reset
      let l1 := (s.core (4 * cluster + (idx - 8704) / 512)).tlb
      let struck := if idx < 8192 then k.tlb[idx]? else if idx < 8704 then none
        else if idx < 8704 + 2048 then l1[(idx - 8704) % 512]? else none
      let named := struck ≠ none ∨ 8192 ≤ idx ∧ idx < 8704 ∧ idx - 8192 < k.walks.length
      ∃ t, exec (.tlbParityError cluster idx) s = .next t ∧ t = { s with cores := t.cores, clusters := t.clusters } ∧
        (¬ named → t = s) ∧
        (cluster < s.clusters.length → named → (t.clusters.getD cluster Cluster.reset).tlbErrors = k.tlbErrors + 1) ∧
        (∀ e, struck = some e → cluster < s.clusters.length → 4 * cluster + 4 ≤ s.cores.length →
          let same := fun (y : TlbEntry) => y.part = e.part ∧ y.asid = e.asid ∧ y.page = e.page ∧ y.size = e.size
          (∀ y ∈ (t.clusters.getD cluster Cluster.reset).tlb, ¬ same y) ∧ ∀ j, j < 4 → ∀ y ∈ (t.core (4 * cluster + j)).tlb, ¬ same y) ∧
        (∀ c, (t.core c).tlb.Sublist (s.core c).tlb ∧ { t.core c with tlb := [] } = { s.core c with tlb := [] }) ∧
        ∀ c, let k := s.clusters.getD c Cluster.reset
          let k' := t.clusters.getD c Cluster.reset
          k'.tlb.Sublist k.tlb ∧ k'.walks.Sublist k.walks ∧
          { k' with tlb := [], walks := [], tlbErrors := 0 } = { k with tlb := [], walks := [], tlbErrors := 0 }
  ) ∧
  (
    (∀ (s : State) (c : Nat),
      let busy := ∃ p, p < s.packs.length ∧ (s.pack p).on c = true
      let d := dieOf c
      (busy → ∃ t, exec (.coreQuiesce c) s = .next t ∧ t = s) ∧
      (¬ busy → c < s.cores.length → s.dies.length = 12 → d < 8 →
        ∃ t out, exec (.coreQuiesce c) s = .next t ∧
          let u := s.modCore c (fun k => { k with
            healthy := k.healthy &&& ~~~k.retire, retire := 0, disabled := k.disabled || k.marked, marked := false,
            unitsOut := out, unitsMarked := [] })
          let failed := (s.dieAt d).routersFailed
          let due := (∃ r ∈ failed, r ∉ (s.dieAt d).rerouted) ∧ ∀ r ∈ failed, ∀ i, i < 4 → (u.core (32 * d + 4 * r + i)).disabled = true
          (∀ n, n ∈ out ↔ n ∈ (s.core c).unitsOut ∨ n ∈ (s.core c).unitsMarked) ∧
          (¬ due → t = u) ∧
          (due → t = { u with dies := t.dies, conns := t.conns, nextConn := t.nextConn } ∧ (t.dieAt d).rerouted = failed ∧
            ∀ x ∈ (t.dieAt d).routes, ∀ r ∈ x.2, r ∉ failed))) ∧
    ∀ (s : State) (d router port slot : Nat),
      let slotEntry := port < 64 ∧ slot < 64
      let routeEntry := port = 64 ∧ slot < 8 * 12
      let key := if port = 64 then 2 ^ 16 + 128 * router + slot else slotKey (router, port, slot)
      let past := (tget (s.dieAt d).routerErrors key).getD []
      let again := ∃ c ∈ past, s.cycle < c + 2 ^ 30
      (12 ≤ d ∨ routerCount d ≤ router ∨ ¬ (slotEntry ∨ routeEntry) →
        ∃ t, exec (.routerParityError d router port slot) s = .next t ∧ t = s) ∧
      (d < 12 → router < routerCount d → slotEntry ∨ routeEntry → s.dies.length = 12 →
        ∃ t, exec (.routerParityError d router port slot) s = .next t ∧
          tget (t.dieAt d).routerErrors key = some (s.cycle :: past) ∧
          (¬ again → t = { s with dies := t.dies } ∧ (t.dieAt d).routersFailed = (s.dieAt d).routersFailed) ∧
          (again → router ∈ (t.dieAt d).routersFailed) ∧
          (again → 8 ≤ d → (t.dieAt d).rerouted = (t.dieAt d).routersFailed ∧ t.packs = s.packs ∧ t.cores = s.cores) ∧
          (again → d < 8 → (∀ i, i < 4 → s.coreMarked t (32 * d + 4 * router + i)) ∧
            (router = 0 ∨ router = 7 → ∀ i, i < 32 → s.coreAsked t (32 * d + i))))
  ) ∧
  (
    (∀ (s : State) (d a b : Nat), a < 8 → b < 8 → (s.dieAt d).routes = [] →
      let l := (s.dieAt d).path a b
      let dist := fun (m n : Nat) => (m - n) + (n - m)
      l.length = dist (meshX a) (meshX b) + dist (meshY a) (meshY b) ∧ (a :: l).getLast? = some b ∧
      ∀ i, i < l.length → dist (meshX ((a :: l).getD i 0)) (meshX (l.getD i 0)) + dist (meshY ((a :: l).getD i 0)) (meshY (l.getD i 0)) = 1 ∧
        (meshX ((a :: l).getD i 0) ≠ meshX b → meshY (l.getD i 0) = meshY ((a :: l).getD i 0))) ∧
    (∀ (s : State) (i j : Nat), i < 12 → j < 12 → (∀ d, (s.dieAt d).routersFailed = []) →
      s.clockwise i j = decide ((j + 12 - i) % 12 ≤ (i + 12 - j) % 12)) ∧
    ∀ (s : State) (d : Nat), s.dies.length = 12 → (∀ k ∈ s.packs, k.core < 256) →
      (∀ c ∈ s.conns, c.src.die < 12 ∧ ∀ h ∈ c.dsts, h.die < 12) →
      (12 ≤ d → ∃ t, exec (.slotTableEdit d .release) s = .next t ∧ t = s) ∧
      (d < 12 → ∃ t, exec (.slotTableEdit d .release) s = .next t ∧ s.swept t ∧ t = { s with conns := t.conns, dies := t.dies }) ∧
      (∀ l m, (s.litterMissing l m ≠ [] ∨ s.litterHeld l m = [] ∨ s.litterDie l m ≠ d →
          ∃ t, exec (.slotTableEdit d (.litter l m)) s = .next t ∧ t = s) ∧
        (s.litterMissing l m = [] → s.litterHeld l m ≠ [] → s.litterDie l m = d →
          ∃ t, exec (.slotTableEdit d (.litter l m)) s = .next t ∧
          ((∀ q ∈ s.litterHeld l m, (t.pack q).life ≠ .resident) ∨
            (∀ q ∈ s.litterHeld l m, (t.pack q).life = .resident ∧ (t.pack q).started = true) ∧
            ∀ c ∈ t.conns, c ∈ s.conns ∨ (∃ i, c.owner = .litter l m i) ∧ t.laid c))) ∧
      ∀ p r, ∃ t, exec (.slotTableEdit d (.collective p r)) s = .next t ∧ t.packs = s.packs ∧ (dieOf (s.pack p).core ≠ d → t = s) ∧
        ∀ c ∈ t.conns, c ∈ s.conns ∨ (∃ q, c.owner = .collective p r q) ∧ t.laid c
  )

/-- HBM_ERROR, CHANNEL_FAIL, COUNTED_LINE_EVICTION and THERMAL_LIMIT (R408–R411, R416, R423, R493): an error is counted at its
channel; one that cannot be rebuilt, or in a dirty line of the memory-side cache, poisons the line and leaves every other as it was;
16 uncorrectable ones within the span fail the channel; an evicted line keeps its bytes, which HBM then has, and loses its count; a
lowered clock changes nothing else.

PAGE_WALK (R395, R397–R402), for a 4 KiB leaf found through three pointer entries: the access it is made for goes to the leaf's
page at the address's offset, the entry then has A, and D for a writing access, and the translation stands in the core's and
the cluster's TLB; where the permission or the partition fails, nothing changes. Stated for a walker whose cache is empty.

What the spec leaves open here is read or chosen as the model's assumption log says, entries 39, 42, 43, 82. -/
def Obligations.MemoryErrorsAndWalks : Prop :=
  (
    (∀ (s : State) (line : Nat) (kind : HbmErrorKind),
      let c := lineChannel line
      let key := 32 * c.1 + c.2
      let lost := ∃ d ∈ s.failedChannels, d.2 = c.2 ∧ d.1 ≠ c.1
      ∃ t, exec (.hbmError line kind) s = .next t ∧ t.mem = s.mem ∧ t.packs = s.packs ∧ t.failedChannels = s.failedChannels ∧
        ((∀ i, kind ≠ .oldVersion i) → (∀ d, kind ≠ .cached d) → tget t.channelCounts key = some ((tget s.channelCounts key).getD 0 + 1)) ∧
        (kind = .unrebuildable ∨ kind = .cached true ∨ (kind = .uncorrectable ∧ lost) → ∀ l, l ∈ t.poison ↔ l = line ∨ l ∈ s.poison) ∧
        (kind = .correctable ∨ kind = .cached false ∨ (kind = .uncorrectable ∧ ¬ lost) → t.poison = s.poison) ∧
        (kind = .uncorrectable ∨ kind = .unrebuildable →
          ((tget t.channelErrors key).getD []).length = errorsNow s.channelErrors key s.cycle) ∧
        ∀ i v, kind = .oldVersion i → tget s.lines line = some v →
          ∃ v', tget t.lines line = some v' ∧ v'.ts = v.ts ∧ v'.chain.length = v.chain.length ∧
            ∀ j o, v.chain[j]? = some o → v'.chain[j]? = some (if j = i then { o with poisoned := true } else o)) ∧
    (∀ (s : State) (stack chan : Nat),
      let n := ((tget s.channelErrors (32 * stack + chan)).getD []).length
      (n < 16 → ∃ t, exec (.channelFail stack chan) s = .next t ∧ t = s) ∧
      (16 ≤ n → ∃ t, exec (.channelFail stack chan) s = .next t ∧ t = { s with failedChannels := t.failedChannels } ∧
        ∀ d, d ∈ t.failedChannels ↔ d = (stack, chan) ∨ d ∈ s.failedChannels)) ∧
    (∀ (s : State) (line : Nat),
      ∃ t, exec (.countedLineEviction line) s = .next t ∧ t = { s with counted := t.counted, hbm := t.hbm } ∧ tget t.counted line = none ∧
        (tget s.counted line ≠ none → tget t.hbm line = some (s.lineBytes line)) ∧
        ∀ l, l ≠ line → tget t.counted l = tget s.counted l) ∧
    ∀ (s : State) (d : Nat),
      ∃ t, exec (.thermalLimit d) s = .next t ∧ t = s.modDie d fun x => { x with slowed := true }
  ) ∧
  (
    ∀ (s : State) (c ctx : Nat) (va : BitVec 64) (k : AccessKind) (user : Bool),
      (canonical va = false → ∃ t, exec (.pageWalk c ctx va k user) s = .next t ∧ t = s) ∧
      ∀ node, canonical va = true → s.mem.wf = true → (s.clusters.getD (c / 4) Cluster.reset).walks = [] → Leads s (s.context ctx).part (bitsOf (s.context ctx).root 51 12 * 4096) va node →
        let e := entryAt s.mem node va 0
        let loc := node + 8 * walkIndex va 0
        let pa := bitsOf e 51 12 * 4096 + va.toNat % 4096
        let held := fun (l : List TlbEntry) =>
          ∃ x ∈ l, x.page = va.toNat / 4096 * 4096 ∧ x.size = 4096 ∧ x.loc = loc ∧ x.leaf = leafAfter e k
        let passes := leafPermits e k user ∧ pa < 0x5400000000 ∧ tget s.granules (pa / 2 ^ 21) = some (s.context ctx).part
        (e.getLsbD 0 = false → s.translate ctx (dieOf c) va k user = .error 0x06 ∧
          ∃ t, exec (.pageWalk c ctx va k user) s = .next t ∧ t = s) ∧
        (plainLeaf e → ¬ passes → s.translate ctx (dieOf c) va k user = .error 0x07 ∧
          ∃ t, exec (.pageWalk c ctx va k user) s = .next t ∧ t = s) ∧
        (plainLeaf e → passes →
          ∃ t, exec (.pageWalk c ctx va k user) s = .next t ∧
            (∃ xl, s.translate ctx (dieOf c) va k user = .ok (xl, { s with mem := t.mem }) ∧ xl.pa = pa ∧ xl.tdev = 0 ∧ xl.vers = false) ∧
            t = { s with mem := t.mem, cores := t.cores, clusters := t.clusters } ∧ t.mem.wf = true ∧
            (∀ d, { t.core d with tlb := [] } = { s.core d with tlb := [] }) ∧
            (c < s.cores.length → held (t.core c).tlb) ∧
            (c / 4 < s.clusters.length → held (t.clusters.getD (c / 4) Cluster.reset).tlb) ∧
            ∀ b, memRead t.mem b = if loc ≤ b ∧ b < loc + 8 then (leBytes 8 (leafAfter e k).toNat).getD (b - loc) 0 else memRead s.mem b)
  )

/-! ## Firmware, debug and the package interface -/

/-- Every firmware command (R479, R480): one that does not stand does nothing; a malformed one, by its LENGTH, PART, zero bytes
or payload, is answered with status 1 and does nothing; one from another class of issuer is refused with status 2.

What the spec leaves open here is read or chosen as the model's assumption log says, entries 5, 103. -/
def Obligations.CommandsAreChecked : Prop :=
  ∀ (s : State) (i : Instr) (c : Cmd) (op : Nat) (w : Issuers), commandForm i = some (c, op, w) →
    (¬ s.issued c op → ∃ t, exec i s = .next t ∧ t = s) ∧
    (s.issued c op → c.wellFormed = false → s.replies s i 1 []) ∧
    (s.issued c op → c.wellFormed = true → ¬ w.allow c → s.replies s i 2 [])

/-- PART_CREATE, PART_DESTROY, EXEC_LOAD, GRANULE_ASSIGN and GRANULE_REMOVE, once taken (R420, R476, R480).

What the spec leaves open here is read or chosen as the model's assumption log says, entries 54, 94 to 97. -/
def Obligations.PartitionCommands : Prop :=
  (∀ (s : State) (c : Cmd) (slots snaps box : Nat) (key : Option (BitVec 256)),
    let i := Instr.partCreate c slots snaps key box
    let wrong := c.part = 0 ∨ 16 < c.part ∨ box % 4096 ≠ 0
    s.takes i →
    (wrong → s.replies s i 1 []) ∧
    (¬ wrong → s.interface c.part ≠ none → ∃ u, s.replies u i 2 [] ∧ s.frozen u c.part) ∧
    (¬ wrong → s.interface c.part = none → ∃ (u : State) (m : Partition), s.replies u i 0 [] ∧
      u = { s with partitions := s.partitions ++ [m], partMade := true, conns := u.conns, dies := u.dies } ∧
      u.conns = s.conns.filter s.connWanted ∧ (∀ d ∈ u.dies, tget d.rotation c.part = some slots) ∧
      m.id = c.part ∧ m.tdisp = .unlocked ∧ m.slotShare = slots ∧ m.snapShare = snaps ∧ m.ownerKey = key ∧ m.mailbox = box ∧
      m.swapn = none ∧ m.execDigest = none)) ∧
  (∀ (s : State) (c : Cmd),
    let i := Instr.partDestroy c
    s.takes i →
    (s.interface c.part = none → s.replies s i 6 []) ∧
    (s.interface c.part ≠ none → ∃ u, s.replies u i 0 [] ∧ u.interface c.part = none ∧
      (∀ g, tget u.granules g ≠ some c.part) ∧ (∀ x ∈ u.sessions, x.part ≠ c.part) ∧ (∀ x ∈ u.snapshots, x.part ≠ c.part) ∧
      (∀ d ∈ u.dies, tget d.rotation c.part = none) ∧ (∀ k ∈ u.contexts, k.part ≠ c.part) ∧ ∀ b, tget s.granules (b / 2 ^ 21) = some c.part → memRead u.mem b = 0)) ∧
  (∀ (s : State) (c : Cmd) (image : List (BitVec 8)) (by_ : Signer),
    let i := Instr.execLoad c image by_
    s.takes i →
    (s.partOf c.part = none → s.replies s i 6 []) ∧
    ∀ m, s.partOf c.part = some m →
      let due := match m.ownerKey with
        | some k => Signer.owner k
        | none => .korlan
      (m.tdisp = .run ∨ m.tdisp = .error → s.replies s i 2 []) ∧
      (m.tdisp = .unlocked ∨ m.tdisp = .locked → by_ ≠ due → s.replies s i 5 []) ∧
      (m.tdisp = .unlocked ∨ m.tdisp = .locked → by_ = due →
        s.replies (s.modPart c.part fun m => { m with execDigest := some (shaNumber image) }) i 0 [])) ∧
  ∀ (s : State) (c : Cmd) (base n : Nat),
    let l := (List.range n).map fun i => base / 2 ^ 21 + i
    let wrong := base % 2 ^ 21 ≠ 0 ∨ 0x5400000000 < base + n * 2 ^ 21
    let give := Instr.granuleAssign c base n
    let take := Instr.granuleRemove c base n
    (s.takes give →
      (s.interface c.part = none → s.replies s give 6 []) ∧
      (s.interface c.part ≠ none → wrong → s.replies s give 1 []) ∧
      (s.interface c.part ≠ none → ¬ wrong → s.interface c.part ≠ some .unlocked →
        ∃ u, s.replies u give 2 [] ∧ s.frozen u c.part) ∧
      (s.interface c.part = some .unlocked → ¬ wrong → (∃ g ∈ l, tget s.granules g ≠ none) → s.replies s give 3 []) ∧
      (s.interface c.part = some .unlocked → ¬ wrong → (∀ g ∈ l, tget s.granules g = none) → base / 2 ^ 21 + n ≤ s.usableGranules →
        ∃ u, s.replies u give 0 [] ∧ Scrubbed s u l ∧ u.packs = s.packs ∧ u.contexts = s.contexts ∧
          ∀ g, tget u.granules g = if g ∈ l then some c.part else tget s.granules g)) ∧
    (s.takes take →
      (s.interface c.part = none → s.replies s take 6 []) ∧
      (s.interface c.part ≠ none → wrong → s.replies s take 1 []) ∧
      (s.interface c.part ≠ none → ¬ wrong → s.interface c.part ≠ some .unlocked →
        ∃ u, s.replies u take 2 [] ∧ s.frozen u c.part) ∧
      (s.interface c.part = some .unlocked → ¬ wrong → (∃ g ∈ l, tget s.granules g ≠ some c.part) → s.replies s take 6 []) ∧
      (s.interface c.part = some .unlocked → ¬ wrong → (∀ g ∈ l, tget s.granules g = some c.part) →
        ∃ u, s.replies u take 0 [] ∧ Scrubbed s u l ∧ u.packs = s.packs ∧ u.contexts = s.contexts ∧
          ∀ g, tget u.granules g = if g ∈ l then none else tget s.granules g))

/-- CTX_CREATE, CTX_DESTROY, LAUNCH_END, POISON_CLEAR, SET_PARAM, HEALTH and RESET, once taken (R388, R389, R411, R423, R480, R481,
R485, R492), and the bring-up after a reset.

What the spec leaves open here is read or chosen as the model's assumption log says, entries 78, 83, 98 to 100, 102. -/
def Obligations.ContextAndDeviceCommands : Prop :=
  (∀ (s : State) (c : Cmd) (block : Nat) (m : Partition),
    let i := Instr.ctxCreate c block
    let wrong := (∃ j, j < 64 ∧ s.linePoisoned (block / 64 + j) = true) ∨ ∃ j, 0x30 ≤ j ∧ j < 0x800 ∧ memRead s.mem (block + j) ≠ 0
    let word := fun (off : Nat) => leWord (memBytes s.mem (block + off) 8)
    let free := fun (n : Nat) => (∀ k ∈ s.contexts, k.num ≠ n) ∧ ∀ l ∈ s.launches, l.completed = false → l.ctx ≠ n
    s.takes i → s.partOf c.part = some m →
    (block % 4096 ≠ 0 → s.replies s i 1 []) ∧
    (block % 4096 = 0 → m.tdisp = .error ∨ tget s.granules (block / 2 ^ 21) ≠ some m.id → s.replies s i 2 []) ∧
    (block % 4096 = 0 → m.tdisp ≠ .error → tget s.granules (block / 2 ^ 21) = some m.id → wrong → s.replies s i 1 []) ∧
    (∀ n, block % 4096 = 0 → m.tdisp ≠ .error → tget s.granules (block / 2 ^ 21) = some m.id → ¬ wrong → n < 65536 → free n →
      (∀ j, j < n → ¬ free j) →
      ∃ k : Context, s.replies { s with contexts := s.contexts ++ [k] } i 0 [BitVec.ofNat 64 n] ∧ k.num = n ∧ k.part = m.id ∧
        k.root = word 0x00 ∧ k.haddr = (word 0x08).setWidth 48 &&& ~~~1 ∧ k.kennelBase = word 0x10 ∧ k.kennelSize = (word 0x18).toNat ∧
        k.transBase = word 0x20 ∧ k.transSize = (word 0x28).toNat ∧ k.block = block ∧ k.debugRight = false ∧
        ∀ q, q < 64 → (k.queue q).base = bitsOf (word (0x800 + 32 * q)) 47 12 * 4096 ∧
          (k.queue q).log2 = bitsOf (word (0x808 + 32 * q)) 4 0 ∧ (k.queue q).enable = (word (0x808 + 32 * q)).getLsbD 8 ∧
          (k.queue q).owner = (word (0x808 + 32 * q)).getLsbD 9)) ∧
  (∀ (s : State) (c : Cmd) (ctx : Nat) (lid : BitVec 32),
    let gone := Instr.ctxDestroy c ctx
    let cutIt := Instr.launchEnd c ctx lid
    (s.takes gone → (s.ctxOf ctx = none → s.replies s gone 6 []) ∧
      (∀ k, s.ctxOf ctx = some k → k.part ≠ c.part → s.replies s gone 2 []) ∧
      (∀ k, s.ctxOf ctx = some k → k.part = c.part → ∃ u, s.replies u gone 0 [] ∧ u.ctxOf ctx = none ∧
        (∀ h ∈ u.heads, h.ctx ≠ ctx) ∧ (∀ b ∈ u.built, b.ctx ≠ ctx) ∧
        ∀ l, l < s.launches.length → (s.launch l).ctx = ctx → (s.launch l).refused = false → (s.launch l).completed = false →
          CutOff s u l)) ∧
    (s.takes cutIt → (s.ctxOf ctx = none → s.replies s cutIt 6 []) ∧
      (∀ k, s.ctxOf ctx = some k → k.part ≠ c.part → s.replies s cutIt 2 []) ∧
      ∀ k, s.ctxOf ctx = some k → k.part = c.part →
        let named := fun (l : Launch) => l.ctx = ctx ∧ l.lid = lid
        (∀ l, l < s.launches.length → named (s.launch l) → (s.launch l).completed = false → (s.launch l).refused = false →
          (∀ j, j < l → ¬ (named (s.launch j) ∧ (s.launch j).completed = false)) →
          ∃ u, s.replies u cutIt 0 [] ∧ CutOff s u l ∧ ∀ q, (s.pack q).launch ≠ l → (u.pack q).life = (s.pack q).life) ∧
        (∀ h ∈ s.heads, (∀ l ∈ s.launches, ¬ named l) → h.ctx = ctx → h.lid = lid →
          ∃ (u : State) (l : Launch), s.replies u cutIt 0 [] ∧ u.launches = s.launches ++ [l] ∧ l.ctx = ctx ∧ l.lid = lid ∧ l.refused = false ∧
            l.completed = false ∧ ∃ g ∈ s.heads, g.ctx = ctx ∧ g.lid = lid ∧ g ∉ u.heads ∧
              l.cut = bitsOf (recWord g.rec_ 3) 31 0) ∧
        ((∀ l ∈ s.launches, ¬ named l) → (∀ h ∈ s.heads, ¬ (h.ctx = ctx ∧ h.lid = lid)) →
          (lid = 0 → s.replies s cutIt 6 []) ∧
          (lid ≠ 0 → ∃ u, s.replies u cutIt 0 [] ∧ u = { s with pendingEnd := u.pendingEnd } ∧
            ∀ x, x ∈ u.pendingEnd ↔ x = (ctx, lid) ∨ x ∈ s.pendingEnd)))) ∧
  (∀ (s : State) (c : Cmd) (line : Nat),
    let i := Instr.poisonClear c line
    let mine := tget s.granules (64 * line / 2 ^ 21) = some c.part
    s.takes i → s.interface c.part ≠ none →
    (¬ mine → s.replies s i 2 []) ∧ (mine → s.lostLine line = true → s.replies s i 3 []) ∧
    (mine → s.lostLine line = false → ∃ u, s.replies u i 0 [] ∧ u.linePoisoned line = false ∧
      (∀ l, l ≠ line → u.linePoisoned l = s.linePoisoned l) ∧ (∀ b, b / 64 = line → memRead u.mem b = 0) ∧
      (s.mem.wf = true → u.mem.wf = true ∧ ∀ b, b / 64 ≠ line → memRead u.mem b = memRead s.mem b))) ∧
  (∀ (s : State) (c : Cmd) (par : Param), s.takes (.setParam c par) →
    let i := Instr.setParam c par
    match par with
    | .swapn d v =>
      (8 ≤ d → s.replies s i 6 []) ∧ (d < 8 → v < 2 ^ 10 ∨ 2 ^ 40 < v → s.replies s i 1 []) ∧
      (d < 8 → 2 ^ 10 ≤ v → v ≤ 2 ^ 40 → s.replies (s.modDie d fun x => { x with swapn := v }) i 0 [])
    | .swapnPart v =>
      (s.interface c.part = none → s.replies s i 6 []) ∧
      (s.interface c.part ≠ none → v < 2 ^ 10 ∨ 2 ^ 40 < v → s.replies s i 1 []) ∧
      (s.interface c.part ≠ none → 2 ^ 10 ≤ v → v ≤ 2 ^ 40 → s.replies (s.modPart c.part fun m => { m with swapn := some v }) i 0 [])
    | .laneRetire n => (n = 0 → s.replies s i 1 []) ∧ (n ≠ 0 → s.replies { s with laneRetire := n } i 0 [])
    | .versionStore n =>
      (16 < n → s.replies s i 1 []) ∧ (n ≤ 16 → s.partMade = true → s.replies s i 2 []) ∧
      (n ≤ 16 → s.partMade = false → s.replies { s with storeShare := n } i 0 [])) ∧
  (∀ (s : State) (c : Cmd), s.takes (.health c) → s.cores.length = 256 → s.dies.length = 12 →
    ∃ l, let room := if c.issuer = .host then 8188 else 500
      let word := fun (i : Nat) => l.getD i 0
      let n := (word 40).toNat
      s.replies s (.health c) 0 l ∧ l.length ≤ room ∧
      (∀ k j, k < 8 → j < 32 → (word k).getLsbD j = decide ((k, j) ∈ s.failedChannels)) ∧
      (∀ k, k < 256 → (word (8 + k / 64)).getLsbD (k % 64) = ((s.core k).disabled || (s.core k).marked)) ∧
      (∀ k, k < 16 → (s.links.getD k Link.reset).retries < 2 ^ 32 →
        bitsOf (word (24 + k)) 63 32 = (s.links.getD k Link.reset).retries ∧
        bitsOf (word (24 + k)) 3 2 = (s.links.getD k Link.reset).width.toNat ∧
        bitsOf (word (24 + k)) 1 0 = (s.links.getD k Link.reset).state.toNat ∧
        bitsOf (word (24 + k)) 7 4 = min 15 (s.sessions.filter fun x => decide (x.route.head? = some k)).length) ∧
      (s.poison.length < 2 ^ 32 → s.failedChannels.length < 2 ^ 16 → 41 + 3 * n ≤ room →
        (∀ line, s.linePoisoned line = true → 64 * line < 0x5400000000 →
          c.issuer = .host ∨ tget s.granules (64 * line / 2 ^ 21) = some c.part →
          ∃ k j, k < n ∧ j < (word (42 + 3 * k)).toNat ∧ 64 * line = (word (41 + 3 * k)).toNat + j * (word (43 + 3 * k)).toNat) ∧
        ∀ k, k < 256 → c.issuer = .host → 41 + 3 * n + 5 * k + 5 ≤ room →
          let at_ := 41 + 3 * n + 5 * k
          word at_ = BitVec.ofNat 64 (s.core k).icacheErrors ∧ (word (at_ + 1)).toNat % 2 ^ 32 = (s.core k).corrected % 2 ^ 32 ∧
          (word (at_ + 1)).toNat / 2 ^ 32 = (s.core k).uncorrected % 2 ^ 32 ∧
          word (at_ + 2) = (s.core k).retire ++ (s.core k).healthy)) ∧
  (∀ (s : State) (c : Cmd), s.takes (.reset c) →
    ∃ u, s.replies u (.reset c) 0 [] ∧ u.partitions = [] ∧ u.contexts = [] ∧ u.packs = [] ∧ u.mem = [] ∧ u.granules = [] ∧
      u.cores = State.reset.cores ∧ u.cc = 1 ∧ u.ready = false ∧ u.sched.head? = some (.hw .packageReset)) ∧
  ∀ s : State, ∃ t, exec .packageReset s = .next t ∧ t.ready = true ∧ t.romMeasured = true ∧ t.partitions = [] ∧ t.contexts = [] ∧
    t.packs = [] ∧ t.mem = [] ∧ t.cores = State.reset.cores ∧ t.clusters = State.reset.clusters ∧ t.dies = State.reset.dies ∧
    t.links = State.reset.links ∧ t.cc = 1 ∧ t.failedChannels = Config.fuseChannels ∧ t.sched = s.sched

/-- LOCK_INTERFACE, START_INTERFACE, STOP_INTERFACE (R476), GET_MEASUREMENTS and SPDM_REQUEST (R477, R478): the interface moves
from CONFIG_UNLOCKED to CONFIG_LOCKED to RUN and back; a stop leaves no context, no snapshot and scrubbed memory; a
measurement is answered with the six digests, each in a block of its own with its index.

What the spec leaves open here is read or chosen as the model's assumption log says, entries 95, 102, 106, 107, 130. -/
def Obligations.InterfaceStates : Prop :=
  (∀ (s : State) (part : Nat),
    (∃ t, exec (.lockInterface part) s = .next t ∧ t = { s with partitions := t.partitions } ∧
      ∀ j, t.interface j = if j = part ∧ s.interface j = some .unlocked then some .locked else s.interface j) ∧
    (∃ t, exec (.startInterface part) s = .next t ∧ t = { s with partitions := t.partitions } ∧
      ∀ j, t.interface j = if j = part ∧ s.interface j = some .locked then some .run else s.interface j) ∧
    (s.interface part = none → ∃ t, exec (.stopInterface part) s = .next t ∧ t = s) ∧
    (s.interface part ≠ none → ∃ t, exec (.stopInterface part) s = .next t ∧ t.interface part = some .unlocked ∧
      (∀ k ∈ t.contexts, k.part ≠ part) ∧ (∀ x ∈ t.snapshots, x.part ≠ part) ∧
      (∀ l, l < s.launches.length → (s.launch l).refused = false → (s.launch l).completed = false →
        (∃ k ∈ s.contexts, k.num = (s.launch l).ctx ∧ k.part = part) → ∀ p, (s.pack p).launch = l → (t.pack p).life = .ended) ∧
      ∀ b, tget s.granules (b / 2 ^ 21) = some part → memRead t.mem b = 0)) ∧
  (∀ (s : State) (part : Nat),
    (s.ready = false → ∃ t, exec (.getMeasurements part) s = .next t ∧ t = s) ∧
    (s.ready = true → s.partOf part = none →
      ∃ t, exec (.getMeasurements part) s = .next t ∧ t = { s with responses := s.responses ++
        [{ opcode := 0, length := 0, tag := 0, part := part, status := 6, payload := [] }] }) ∧
    ∀ m, s.ready = true → s.partOf part = some m →
      ∃ t l, exec (.getMeasurements part) s = .next t ∧ l.length = 30 ∧
        t = { s with responses := s.responses ++
          [{ opcode := 0, length := 240, tag := 0, part := part, status := 0, payload := l }] } ∧
        let byte := fun (j : Nat) => (l.getD (j / 8) 0).toNat / 2 ^ (8 * (j % 8)) % 256
        (∀ i, i < 6 → byte (39 * i) = i + 1) ∧
        (∀ j, j < 32 → byte (85 + j) = s.patchId.toNat / 2 ^ (8 * j) % 256) ∧
        ∀ d, m.execDigest = some d → ∀ j, j < 32 → byte (124 + j) = d.toNat / 2 ^ (8 * j) % 256) ∧
  ∀ (s : State) (r : SpdmRequest),
    (s.ready = false → ∃ t, exec (.spdmRequest r) s = .next t ∧ t = s) ∧
    (s.ready = true → ∃ t l, exec (.spdmRequest r) s = .next t ∧
      t = { s with responses := s.responses ++ [{ opcode := 0, length := 8 * l.length, tag := 0, part := 0, status := 0, payload := l }] } ∧
      (r = .challenge ∨ r = .keyExchange → l.length = 982))

/-- DEBUG_GRANT, DEBUG_REVOKE and the debug commands, once taken (R455–R465): one needs the context's right; a comparator is set
under it, where the right has stood since the command was issued; a halt and a release act on the row alone; a halted row's registers
are read and written where R293 and R294 lay them out, and what is written takes effect at the release; the history is returned ending with the newest record; a trace or sampling
buffer lies in the partition. A revocation clears what stood under the right and zeroes its trace buffers.

TRACE_SUMMARY and SAMPLE_RECORD (R463, R464): a record is appended to the buffer of the core, and no byte outside it changes. A
trace buffer that is full takes none, and its header's overflow flag is set. A lane group without an element of the instruction
gives an entry of 0, any other its elements completed.

What the spec leaves open here is read or chosen as the model's assumption log says, entries 21, 78, 84 to 89, 121, 127, 134. -/
def Obligations.DebugAndRecords : Prop :=
  (
    (∀ (s : State) (c : Cmd) (ctx : Nat) (k : Context), s.ctxOf ctx = some k →
      let give := Instr.debugGrant c ctx
      let undo := Instr.debugRevoke c ctx
      (s.takes give → k.part ≠ c.part → s.replies s give 2 []) ∧ (s.takes undo → k.part ≠ c.part → s.replies s undo 2 []) ∧
      (s.takes give → k.part = c.part → ∃ u, s.replies u give 0 [] ∧ (u.context ctx) = { k with debugRight := true } ∧
        u.mem = s.mem ∧ u.cores = s.cores ∧ (∀ a n, u.regNow a n = s.regNow a n) ∧
        ∀ p r, r < (s.pack p).rows.length → (u.row p r).dbg.right = ((s.row p r).dbg.right || decide ((s.pack p).ctx = ctx))) ∧
      (s.takes undo → k.part = c.part → ∃ u, s.replies u undo 0 [] ∧ (u.context ctx) = { k with debugRight := false } ∧
        ((∀ p r, (s.row p r).debugWrites = []) → ∀ a n, u.regNow a n = s.regNow a n) ∧
        (∀ p r, r < (s.pack p).rows.length → (s.pack p).ctx = ctx →
          (u.row p r).dbg.right = false ∧ (u.row p r).dbg.catch_ = false ∧ (u.row p r).dbg.halted = false) ∧
        (∀ p, (s.pack p).ctx ≠ ctx → ∀ r, (u.row p r).dbg.right = (s.row p r).dbg.right ∧
          (u.row p r).dbg.halted = (s.row p r).dbg.halted ∧ (u.row p r).thread = (s.row p r).thread) ∧
        ∀ j, j < s.cores.length →
          (∀ (i : Nat) (x : Nat × Comparator), (s.core j).comparators[i]? = some (some x) → (u.core j).comparators[i]? = some (if x.1 = ctx then none else some x)) ∧
          (∀ x, (s.core j).trace = some x → (u.core j).trace = if x.ctx = ctx then none else some x) ∧
          (∀ x, (s.core j).sample = some x → (u.core j).sample = if x.ctx = ctx then none else some x) ∧
          ∀ x b, s.mem.wf = true → (s.core j).trace = some x → x.ctx = ctx → x.set.base ≤ b → b < x.set.base + x.set.size →
            memRead u.mem b = 0)) ∧
    (∀ (s : State) (c : Cmd) (ctx core : Nat) (k : Context), s.ctxOf ctx = some k →
      let holds := k.debugRight = true ∧ (k.part, ctx) ∉ s.voided
      let lies := fun (base size : Nat) => base + size ≤ 0x5400000000 ∧
        ∀ b, base ≤ b → b < base + size → tget s.granules (b / 2 ^ 21) = some c.part
      (∀ idx cmp, let i := Instr.debugSetComparator c ctx core idx cmp
        s.takes i → (k.part ≠ c.part ∨ ¬ holds → s.replies s i 2 []) ∧
          (k.part = c.part → holds → 256 ≤ core ∨ 8 ≤ idx → s.replies s i 6 []) ∧
          (k.part = c.part → holds → core < 256 → idx < 8 →
            (∀ x e, cmp = some x → x.elem = some e → 8191 < e → s.replies s i 1 []) ∧
            (cmp = none ∨ (∃ x, cmp = some x ∧ x.elem = none) →
              s.replies (s.modCore core fun y => { y with comparators := y.comparators.set idx (cmp.map fun x => (ctx, x)) }) i 0 []))) ∧
      (∀ set, let i := Instr.debugTraceSet c ctx core set
        s.takes i → (k.part ≠ c.part ∨ ¬ holds → s.replies s i 2 []) ∧
          (k.part = c.part → holds → core < 256 →
            (∀ x, set = some x → 0 < x.size → ¬ lies x.base x.size → s.replies s i 2 []) ∧
            ((∀ x, set = some x → 0 < x.size ∧ lies x.base x.size) → core < s.cores.length →
              ∃ u, s.replies u i 0 [] ∧ u.mem = s.mem ∧ (∀ a n, u.regNow a n = s.regNow a n) ∧
                (u.core core).trace = set.map fun x => { ctx := ctx, set := x, written := 0, overflow := false }))) ∧
      ∀ set, let i := Instr.debugSampleSet c ctx core set
        s.takes i → (k.part ≠ c.part ∨ ¬ holds → s.replies s i 2 []) ∧
          (k.part = c.part → holds → core < 256 →
            (∀ x, set = some x → x.period < 2 ^ 4 ∨ 2 ^ 20 < x.period → s.replies s i 1 []) ∧
            (∀ x, set = some x → 2 ^ 4 ≤ x.period → x.period ≤ 2 ^ 20 → 0 < x.size → ¬ lies x.base x.size → s.replies s i 2 []) ∧
            ((∀ x, set = some x → 2 ^ 4 ≤ x.period ∧ x.period ≤ 2 ^ 20 ∧ 0 < x.size ∧ lies x.base x.size) →
              s.replies (s.modCore core fun y => { y with sample := set.map fun x =>
                { ctx := ctx, set := x, count := 0, due := [], written := 0 } }) i 0 []))) ∧
    ∀ (s : State) (c : Cmd) (p r : Nat) (k : Context), p < s.packs.length → r < (s.pack p).rows.length →
      s.ctxOf (s.pack p).ctx = some k → k.part = c.part → k.debugRight = true →
      (k.part, (s.pack p).ctx) ∉ s.voided →
      let a := Agent.control p r
      (s.takes (.debugHalt c p r) →
        s.replies (s.modRow p r fun w => { w with dbg := { w.dbg with halted := true } }) (.debugHalt c p r) 0 []) ∧
      (s.takes (.debugRelease c p r) →
        ((s.row p r).dbg.halted = false → s.replies s (.debugRelease c p r) 0 []) ∧
        ((s.row p r).dbg.halted = true → (s.pack p).life ≠ .resident →
          s.replies (s.modRow p r fun w => { w with dbg := { w.dbg with halted := false } }) (.debugRelease c p r) 0 []) ∧
        ((s.row p r).dbg.halted = true → (s.pack p).life = .resident → ∃ u, s.replies u (.debugRelease c p r) 0 [] ∧
          (u.row p r).dbg.halted = false ∧ (u.row p r).debugWrites = [] ∧
          let d := (s.row p r).debugWrites
          (d = [] → u.mem = s.mem ∧ (∀ b n, u.regNow b n = s.regNow b n) ∧ (u.row p r).thread = (s.row p r).thread) ∧
          (∀ (n : BitVec 6) v, n.toNat < 32 → n ≠ 0 → d = [.writeRow (8 * n.toNat) v] →
            u.regNow a (.int n) = v ∧ u.mem = s.mem ∧ ∀ b m, b ≠ a ∨ m ≠ .int n → u.regNow b m = s.regNow b m) ∧
          (∀ v, d = [.writeRow 0x200 v] → (∀ f, (s.row p r).thread.waiting ≠ some (.slot, f)) →
            (u.row p r).thread.pc = v.setWidth 48 ∧ u.mem = s.mem ∧
            ∀ b m, u.regNow b m = s.regNow b m) ∧
          ∀ j (n : BitVec 6) v, j < (s.row p r).strands.length → 0 < n.toNat → d = [.writeStrand j (8 * (n.toNat + 4)) v] →
            u.regNow (.strand p r j) (.int n) = v ∧ u.mem = s.mem ∧
              ∀ b m, b ≠ .strand p r j ∨ m ≠ .int n → u.regNow b m = s.regNow b m)) ∧
      (s.takes (.debugHistoryRead c p r) →
        let l := (s.row p r).history
        s.replies s (.debugHistoryRead c p r) 0 ((l.drop (l.length - 125)).flatMap fun x => x.words)) ∧
      (∀ acc, s.takes (.debugStateAccess c p r acc) →
        let i := Instr.debugStateAccess c p r acc
        let free := (s.row p r).dbg.halted = true ∧ (s.row p r).thread.midRun = false ∧
          ((s.row p r).status.intrap = true ∨ ∀ t ∈ (s.row p r).strands, t.thread.midRun = false)
        let kept := s.replies (s.modRow p r fun w => { w with debugWrites := w.debugWrites ++ [acc] }) i 0 []
        (¬ free → s.replies s i 4 []) ∧
        (free →
          ((s.row p r).debugWrites = [] → (s.pack p).life = .resident →
            (∀ n : BitVec 6, n.toNat < 32 → acc = .readRow (8 * n.toNat) → s.replies s i 0 [s.regNow a (.int n)]) ∧
            (∀ n : BitVec 5, acc = .readRow (0x100 + 8 * n.toNat) → s.replies s i 0 [s.regNow a (.pred n)]) ∧
            (acc = .readRow 0x200 → (∀ f, (s.row p r).thread.waiting ≠ some (.slot, f)) →
              s.replies s i 0 [(s.row p r).thread.pc.setWidth 64]) ∧
            (∀ f, acc = .readRow 0x200 → (s.row p r).thread.waiting = some (.slot, f) → s.replies s i 0 [f.npc.setWidth 64]) ∧
            (∀ j (n : BitVec 6), j < (s.row p r).strands.length → 0 < n.toNat → acc = .readStrand j (8 * (n.toNat + 4)) →
              s.replies s i 0 [s.regNow (.strand p r j) (.int n)])) ∧
          (∀ off v, acc = .writeRow off v → off % 8 = 0 → off < 4096 → off ≠ 0x208 → kept) ∧
          (∀ j off v, acc = .writeStrand j off v → off % 8 = 0 → off < 1024 → j < (s.row p r).strands.length → kept) ∧
          (∀ q1 j off v, acc = .writeLink q1 j off v → off % 8 = 0 → off < 64 → j ≤ (s.row p r).strands.length → kept) ∧
          (∀ j off, (acc = .readStrand j off ∨ ∃ v, acc = .writeStrand j off v) →
            (off % 8 ≠ 0 ∨ 1024 ≤ off → s.replies s i 1 []) ∧
            (off % 8 = 0 → off < 1024 → (s.row p r).strands.length ≤ j → s.replies s i 6 [])) ∧
          ∀ off, (acc = .readRow off ∨ ∃ v, acc = .writeRow off v) → off % 8 ≠ 0 ∨ 4096 ≤ off → s.replies s i 1 []))
  ) ∧
  (
    (∀ (s : State) (p r : Nat) (x : TraceState),
      let w := s.row p r
      let core := (s.pack p).core
      let at_ := x.set.base + Config.bufferHeader + x.written
      p < s.packs.length → r < (s.pack p).rows.length → (s.pack p).life = .resident → (s.pack p).started = true →
      core < s.cores.length → (s.core core).trace = some x →
      let full := s.fullTrace core = some (p, r)
      (w.dbg.right = false ∨ full ∨ x.overflow = true → ∃ t, exec (.traceSummary p r) s = .next t ∧ t = s) ∧
      (w.dbg.right = true → ¬ full → x.overflow = false →
        ∃ t, exec (.traceSummary p r) s = .next t ∧ (t.row p r).summary = { runs := 0, instrs := 0, vectors := 0, waits := 0 } ∧
          (∀ a n, t.regNow a n = s.regNow a n) ∧
          (x.set.size < Config.bufferHeader + x.written + 16 → (t.core core).trace = some { x with overflow := true } ∧
            (s.mem.wf = true → t.mem.wf = true ∧
              (∀ b, ¬ (x.set.base ≤ b ∧ b < x.set.base + Config.bufferHeader) → memRead t.mem b = memRead s.mem b) ∧
              (0 < Config.bufferHeader → Config.bufferHeader ≤ x.set.size →
                let at_ := Config.overflowFlag % (8 * Config.bufferHeader)
                (memRead t.mem (x.set.base + at_ / 8)).getLsbD (Config.overflowFlag % 8) = true))) ∧
          (Config.bufferHeader + x.written + 16 ≤ x.set.size → (t.core core).trace = some { x with written := x.written + 16 } ∧
            (s.mem.wf = true → t.mem.wf = true ∧
              leNat (memBytes t.mem at_ 2) = w.summary.runs % 2 ^ 16 ∧ leNat (memBytes t.mem (at_ + 2) 2) = w.summary.instrs % 2 ^ 16 ∧
              leNat (memBytes t.mem (at_ + 4) 2) = w.summary.vectors % 2 ^ 16 ∧ leNat (memBytes t.mem (at_ + 6) 2) = w.summary.waits % 2 ^ 16 ∧
              ∀ b, ¬ (at_ ≤ b ∧ b < at_ + 16) → memRead t.mem b = memRead s.mem b)))) ∧
    ∀ (s : State) (c : Nat) (l : List (BitVec 64)),
      (((s.core c).sample = none ∨ ∃ m, (s.core c).sample = some m ∧ m.due = []) →
        ∃ t, exec (.sampleRecord c l) s = .next t ∧ t = s) ∧
      ∀ m h rest, c < s.cores.length → (s.core c).sample = some m → m.due = h :: rest → h.length = 8 →
        let at_ := m.set.base + Config.bufferHeader + m.written
        ∃ t, exec (.sampleRecord c l) s = .next t ∧ t.packs = s.packs ∧
          (m.set.size < Config.bufferHeader + m.written + 64 →
            t.mem = s.mem ∧ (t.core c).sample = some { m with due := rest }) ∧
          (Config.bufferHeader + m.written + 64 ≤ m.set.size →
            (t.core c).sample = some { m with due := rest, written := m.written + 64 } ∧
            (s.mem.wf = true → t.mem.wf = true ∧
              (∀ j, j < 4 → leWord (memBytes t.mem (at_ + 8 * j) 8) = h.getD j 0 ∧
                let x := leWord (memBytes t.mem (at_ + 32 + 8 * j) 8)
                let mark := h.getD (4 + j) 0
                (mark.getLsbD 63 = false → x = 0) ∧
                (mark.getLsbD 63 = true → bitsOf x 47 32 = bitsOf mark 15 0 ∧ bitsOf x 31 0 = bitsOf (l.getD j 0) 31 0 ∧
                  bitsOf x 63 48 = bitsOf (l.getD j 0) 63 48)) ∧
              ∀ b, ¬ (at_ ≤ b ∧ b < at_ + 64) → memRead t.mem b = memRead s.mem b))
  )

/-- PATCH_SUBSTITUTE, PATCH_LOAD and ADTAN_TRANSLATE (R78–R81, R451, R452). A thread at an instruction that an entry matches stands
before the entry's first substitute, nothing else changed; with a comparator there it breaks instead. A load waits while a
thread executes, checks the signature, then the image, and puts the table in force with its digest; every translation is
discarded, a thread in one standing then at the Adtan address that it was mapped from. A translation of a function that has been executed is installed once per key and where it fits, its lines in the
context's memory: one that does what the function does, in place of one from older bytes that no thread is left in.

What the spec leaves open here is read or chosen as the model's assumption log says, entries 90 to 93, 123, 124. -/
def Obligations.PatchesAndTranslations : Prop :=
  (∀ (s : State) (a : Agent) (e : Nat),
    (Ready s a → ∃ t, exec (.patchSubstitute e) s = .next t ∧ Frame s t a [] ∧ (t.thread a).pc = (s.thread a).pc ∧
      (t.thread a).run = (s.thread a).run ∧
      (t.thread a).patch = some { entry := e, next := 0, words := s.fetch.raw, npc := s.fetch.npc, mark := s.fetch.mark }) ∧
    ∀ p r j, a = .control p r → s.issuer = a → s.breakpoint a = some j →
      exec (.patchSubstitute e) s = .next (s.trapsTo a 0x0E (wrap64 (0x100 + j)))) ∧
  (∀ (s : State) (c : Cmd) (image : List (BitVec 8)) (by_ : Signer),
    let i := Instr.patchLoad c image by_
    let busy := ∃ a, s.has a ∧ s.executing a = true
    s.takes i →
    (busy → ∃ t, exec i s = .next t ∧ t = s) ∧
    (¬ busy → by_ ≠ .korlan → s.replies s i 5 []) ∧
    (¬ busy → by_ = .korlan → image.length ≠ 32768 → s.replies s i 1 []) ∧
    (∀ e, ¬ busy → by_ = .korlan → image.length = 32768 → e < 256 →
      8 < (image.getD (128 * e + 8) 0).toNat ∨ 4 ≤ (image.getD (128 * e + 9) 0).toNat ∨
        (∃ b, (10 ≤ b ∧ b < 16 ∨ 112 ≤ b ∧ b < 128) ∧ image.getD (128 * e + b) 0 ≠ 0) ∨
        (∃ j, j < 8 ∧ (64 ≤ imageWord image (128 * e + 24 + 12 * j) ∨ imageWord image (128 * e + 26 + 12 * j) ≠ 0)) →
      s.replies s i 1 []) ∧
    (¬ busy → by_ = .korlan → patchImageOk image = true →
      ∃ u, s.replies u i 0 [] ∧ u.patch = image ∧ u.patchId = shaNumber image ∧ u.built = [] ∧ u.mem = s.mem ∧
        (∀ a n, u.regNow a n = s.regNow a n) ∧ ∀ a, (u.thread a).patch = none ∧
          let strand := ∃ p r j, a = .strand p r j
          let there := fun (x : Built) (m : BitVec 48 × BitVec 48) =>
            x ∈ s.built ∧ x.ctx = (s.pack a.pr.1).ctx ∧ (x.strand = true ↔ strand) ∧ m ∈ x.map ∧ m.2 = (s.thread a).pc
          ((∀ x m, ¬ there x m) → (u.thread a).pc = (s.thread a).pc) ∧
          (a.pr.2 < (s.pack a.pr.1).rows.length → (∀ p r j, a = .strand p r j → j < (s.row p r).strands.length) →
            (∃ x m, there x m) → ∃ x m, there x m ∧ (u.thread a).pc = m.1))) ∧
  ∀ (s : State) (ctx : Nat) (tr : Translation),
    let i := Instr.adtanTranslate ctx tr
    (s.ctxOf ctx = none → ∃ t, exec i s = .next t ∧ t = s) ∧
    ∀ c b u, s.ctxOf ctx = some c → s.imgReads ctx 0 (tr.start.signExtend 64) tr.size = (some b, u) →
      let code := shaNumber b
      let strand := (lineWord tr.lines 0).getLsbD 10
      let older := fun (x : Built) => x.ctx = ctx ∧ x.start = tr.start
      let known := ∃ x ∈ u.built, x.start = tr.start ∧ x.code = code ∧ x.digest = u.patchId ∧ (u.context x.ctx).part = c.part
      let area := c.transBase.toNat ≤ tr.dest ∧ tr.dest + tr.lines.length ≤ c.transBase.toNat + c.transSize
      let apart := ∀ x ∈ u.built, x.ctx = ctx → older x ∨ x.dest + x.len ≤ tr.dest ∨ tr.dest + tr.lines.length ≤ x.dest
      let ran := ∃ k ∈ u.ranAdtan, ctx * 2 ^ 48 + tr.start.toNat < k.1 ∧ k.1 < ctx * 2 ^ 48 + tr.start.toNat + tr.size
      let left := ∀ x ∈ u.built, older x → u.inFunction x = false
      (known ∨ ¬ area ∨ ¬ apart ∨ ¬ ran ∨ ¬ left ∨ transFaithful tr u.patch strand b = false →
        ∃ t, exec i s = .next t ∧ t = u) ∧
      ∀ xl, ¬ known → c.fits tr = true → apart → ran → left → transFaithful tr u.patch strand b = true →
        tr.lines.length = 64 → Calm u → u.mem.wf = true →
        u.translate ctx 0 (BitVec.ofNat 64 tr.dest) .fetch false = .ok (xl, u) → xl.tdev = 0 → xl.vers = false →
        ∃ t, exec i s = .next t ∧ t.packs = u.packs ∧ t.mem.wf = true ∧
          (∀ x, x ∈ t.built ↔ (x ∈ u.built ∧ ¬ older x) ∨
            x = { ctx := ctx, start := tr.start, size := tr.size, text := b, strand := strand, code := code, digest := u.patchId,
                  dest := tr.dest, len := 64, map := tr.map, exits := transExits tr u.patch strand b }) ∧
          ∀ x, memRead t.mem x = if xl.pa ≤ x ∧ x < xl.pa + 64 then tr.lines.getD (x - xl.pa) 0 else memRead u.mem x

/-- HOST_MEM_ACCESS, DOORBELL and REMOTE_ACCESS (R377, R421, R474, R475): an access is performed at the home only where every byte
lies in granules of a partition in RUN; a read that is not performed, or of a poisoned line, returns poison, and a write that
is not performed changes nothing. Stated for lines without reader counts and for writes away from mailbox doorbells.

What the spec leaves open here is read or chosen as the model's assumption log says, entries 104, 105, 114, 145. -/
def Obligations.HostAndRemoteAccess : Prop :=
  (∀ (s : State) (stream pa : Nat), s.counted = [] →
    let got := fun (t : State) (l : List (BitVec 8)) (bad : Bool) =>
      t = { s with hostReads := s.hostReads ++ [{ pa := pa, bytes := l, poisoned := bad }] }
    (∀ n, (¬ s.reachable stream pa n ∨ s.spoiled pa n → ∃ t, exec (.hostMemAccess stream pa (.read n)) s = .next t ∧ got t [] true) ∧
      (s.reachable stream pa n → ¬ s.spoiled pa n →
        ∃ t, exec (.hostMemAccess stream pa (.read n)) s = .next t ∧ got t (memBytes s.mem pa n) false)) ∧
    ∀ b, (¬ s.reachable stream pa b.length → ∃ t, exec (.hostMemAccess stream pa (.write b)) s = .next t ∧ t = s) ∧
      (s.reachable stream pa b.length → Calm s → s.mem.wf = true →
        (∀ m ∈ s.partitions, ¬ (m.mailbox < pa + b.length ∧ pa < m.mailbox + 8)) →
        ∃ t, exec (.hostMemAccess stream pa (.write b)) s = .next t ∧ t = { s with mem := t.mem } ∧ t.mem.wf = true ∧
          ∀ x, memRead t.mem x = if pa ≤ x ∧ x < pa + b.length then b.getD (x - pa) 0 else memRead s.mem x)) ∧
  (∀ (s : State) (part off : Nat) (v : BitVec 64),
    let ctx := bitsOf v 15 0
    let q := bitsOf v 21 16
    (off ≠ 0 ∨ s.ctxOf ctx = none ∨ (∃ c, s.ctxOf ctx = some c ∧ c.part ≠ part) →
      ∃ t, exec (.doorbell part off v) s = .next t ∧ t = s) ∧
    ∀ c, off = 0 → s.ctxOf ctx = some c → c.part = part → Calm s →
      let word := fun (o : Nat) => leWord (memBytes s.mem (c.descriptor q + o) 8)
      ∃ t, exec (.doorbell part off v) s = .next t ∧ t = { s with contexts := t.contexts } ∧
        (∀ j, j ≠ ctx → t.context j = s.context j) ∧ (∀ j, j < 64 → j ≠ q → (t.context ctx).queue j = c.queue j) ∧
        ((t.context ctx).queue q).base = bitsOf (word 0) 47 12 * 4096 ∧ ((t.context ctx).queue q).log2 = bitsOf (word 8) 4 0 ∧
        ((t.context ctx).queue q).enable = (word 8).getLsbD 8 ∧ ((t.context ctx).queue q).owner = (word 8).getLsbD 9) ∧
  ∀ (s : State) (tdev pa : Nat), s.counted = [] →
    let part := (s.sessions.find? fun x => decide (x.tdev = tdev)).map fun x => x.part
    let open_ := fun (n : Nat) => ∃ m, part = some m ∧ s.reachable m pa n
    let sends := fun (t : State) (m : LinkMsg) => s.sendsMsg t (part.getD 0) tdev m
    (∀ n, (¬ open_ n → ∃ t, exec (.remoteAccess tdev pa (.read n)) s = .next t ∧ sends t (.error tdev pa)) ∧
      (open_ n → s.spoiled pa n → ∃ t, exec (.remoteAccess tdev pa (.read n)) s = .next t ∧ sends t (.response tdev pa [] true)) ∧
      (open_ n → ¬ s.spoiled pa n →
        ∃ t, exec (.remoteAccess tdev pa (.read n)) s = .next t ∧ sends t (.response tdev pa (memBytes s.mem pa n) false))) ∧
    (∀ b, (¬ open_ b.length → ∃ t, exec (.remoteAccess tdev pa (.write b)) s = .next t ∧ sends t (.error tdev pa)) ∧
      (open_ b.length → Calm s → s.mem.wf = true →
        (∀ m ∈ s.partitions, ¬ (m.mailbox < pa + b.length ∧ pa < m.mailbox + 8)) →
        ∃ t, exec (.remoteAccess tdev pa (.write b)) s = .next t ∧ t = { s with mem := t.mem } ∧ t.mem.wf = true ∧
          ∀ x, memRead t.mem x = if pa ≤ x ∧ x < pa + b.length then b.getD (x - pa) 0 else memRead s.mem x)) ∧
    ∀ (f : BitVec 4) (w32 : Bool) (b c : BitVec 64),
      let w := if w32 then 4 else 8
      let fn := [AmoFn.add, .and, .or, .xor, .max, .min, .maxu, .minu, .swap, .cas, .fadd][f.toNat]?
      let i := Instr.remoteAccess tdev pa (.atomic f w32 b c)
      (fn = none ∨ ¬ open_ w ∨ pa % w ≠ 0 → ∃ t, exec i s = .next t ∧ sends t (.error tdev pa)) ∧
      ∀ g, fn = some g → open_ w → pa % w = 0 →
        let old := leNat (memBytes s.mem pa w)
        let new := amoResult g w old (b.toNat % 2 ^ (8 * w)) (c.toNat % 2 ^ (8 * w))
        (s.linePoisoned (pa / 64) = true → ∃ t, exec i s = .next t ∧ sends t (.response tdev pa [] true)) ∧
        (Calm s → s.mem.wf = true →
          ∃ t, exec i s = .next t ∧
            ({ s with mem := t.mem } : State).sendsMsg t (part.getD 0) tdev (.response tdev pa (leBytes w old) false) ∧
            ∀ x, memRead t.mem x =
              match new.1 with
              | some v => if pa ≤ x ∧ x < pa + w then (leBytes w v).getD (x - pa) 0 else memRead s.mem x
              | none => memRead s.mem x)

/-- LINK_SESSION and FAIL_UNIT once taken, LINK_DOWN, LINK_FLIT_RECEIVE and KEY_UPDATE (R168, R392, R409, R480, R482–R486). A flit that
does not arrive whole is retried; one in sequence returns its credits, and the last of a group of at most 16 is taken with its tag, or the
group is retried from its first flit and then takes the link down. A new key starts its counts again and what waited for it leaves.

What the spec leaves open here is read or chosen as the model's assumption log says, entries 9, 109 to 112, 151. -/
def Obligations.LinkOperation : Prop :=
  (∀ (s : State) (c : Cmd) (tdev : Nat) (route : List Nat) (ok : Bool) (m : Partition),
    let i := Instr.linkSession c tdev route ok
    let wrong := tdev = 0 ∨ 128 ≤ tdev ∨ route = []
    s.takes i → s.partOf c.part = some m →
    (wrong → s.replies s i 1 []) ∧
    ∀ l rest, ¬ wrong → route = l :: rest →
      (16 ≤ l → s.replies s i 6 []) ∧ (l < 16 → m.tdisp = .error → s.replies s i 2 []) ∧
      (l < 16 → m.tdisp ≠ .error → ok = false → s.replies s i 5 []) ∧
      (l < 16 → m.tdisp ≠ .error → ok = true → ∃ u, s.replies u i 0 [] ∧
        u = { s with links := u.links, sessions := u.sessions } ∧ (∀ j, j ≠ l → u.links[j]? = s.links[j]?) ∧
        (∀ k, s.links[l]? = some k → ∃ k', u.links[l]? = some k' ∧ (if k.state = 0 then k'.state = 2 ∧ k'.width = 2 else k' = k)) ∧
        ∀ x, x ∈ u.sessions ↔ x = { tdev := tdev, part := c.part, route := route, epoch := 0 } ∨
          (x ∈ s.sessions ∧ ¬ (x.tdev = tdev ∧ x.part = c.part)))) ∧
  (∀ (s : State) (c : Cmd) (unit : FailUnit), s.takes (.failUnit c unit) →
    let i := Instr.failUnit c unit
    match unit with
    | .lane k l => (256 ≤ k ∨ 32 ≤ l → s.replies s i 6 []) ∧
        (k < 256 → l < 32 → k < s.cores.length → ∃ u, s.replies u i 0 [] ∧ s.laneMarked u k l)
    | .channel k h => (8 ≤ k ∨ 32 ≤ h → s.replies s i 6 []) ∧
        (k < 8 → h < 32 → ∃ u, s.replies u i 0 [] ∧ u = { s with failedChannels := u.failedChannels } ∧
          ∀ d, d ∈ u.failedChannels ↔ d = (k, h) ∨ d ∈ s.failedChannels)
    | .core k => (256 ≤ k → s.replies s i 6 []) ∧ (k < 256 → ∃ u, s.replies u i 0 [] ∧ s.coreMarked u k)
    | .link l => (16 ≤ l → s.replies s i 6 []) ∧ (l < 16 → ∃ u, s.replies u i 0 [] ∧ s.linkGone u l)) ∧
  (∀ (s : State) (l : Nat), ∃ t, exec (.linkDown l) s = .next t ∧ s.linkGone t l ∧ t.mem = s.mem ∧
    ∀ a n, t.regNow a n = s.regNow a n) ∧
  (∀ (s : State) (l : Nat) (b : List (BitVec 8)) (tag : Bool) (k : Link), s.links[l]? = some k →
    let i := Instr.linkFlitReceive l b tag
    let field := fun (off n : Nat) => leNat ((b.drop off).take n)
    let good := b.length = 256 ∧ leWord (b.drop 248) = Config.crc64 (b.take 248) ∧ field 7 1 = 0
    let mine := fun (x : Session) => x.route.head? = some l ∧ x.tdev = Config.flitTdev b
    let last := 16 ≤ k.group + 1 ∨ Config.flitLast (field 0 1) = true
    let sound := tag = true ∧ ∀ x ∈ s.sessions, mine x → x.taken < 2 ^ 32
    let taken := { k with seq := k.seq + 1, credits := k.credits + field 5 2, group := k.group + 1 }
    let recent := (k.recent.filter fun x => decide (s.cycle < x + 1050000)).length + 1
    let retried := fun (t : State) (seq : Nat) =>
      (recent < 64 → ∃ k', t.links[l]? = some k' ∧ k'.retries = min (k.retries + 1) (2 ^ 32 - 1) ∧ k'.state = 2 ∧
        k'.width = k.width ∧ k'.seq = seq) ∧
      (64 ≤ recent → k.width = 2 → ∃ k', t.links[l]? = some k' ∧ k'.width = 1 ∧ k'.state = 2) ∧
      (64 ≤ recent → k.width ≠ 2 → s.linkGone t l)
    (16 ≤ l ∨ k.state ≠ 2 → ∃ t, exec i s = .next t ∧ t = s) ∧
    (l < 16 → k.state = 2 →
      (¬ good → ∃ t, exec i s = .next t ∧ retried t k.seq) ∧
      (good → field 1 4 ≠ k.seq % 2 ^ 32 → ∃ t, exec i s = .next t ∧ t = s) ∧
      (good → field 1 4 = k.seq % 2 ^ 32 →
        (¬ last → ∃ t, exec i s = .next t ∧ t = { s with links := s.links.set l taken }) ∧
        (last → sound → ∃ t, exec i s = .next t ∧
          t = { s with links := s.links.set l { taken with group := 0, tagFails := 0 },
                       sessions := s.sessions.map fun x => { x with taken := if mine x then x.taken + 1 else x.taken } }) ∧
        (last → ¬ sound → k.tagFails = 0 → ∃ t, exec i s = .next t ∧ retried t (k.seq - k.group)) ∧
        (last → ¬ sound → k.tagFails ≠ 0 → ∃ t, exec i s = .next t ∧ s.linkGone t l)))) ∧
  ∀ (s : State) (tdev : Nat), ∃ t, exec (.keyUpdate tdev) s = .next t ∧ t = { s with sessions := t.sessions, linkOut := t.linkOut } ∧
    t.linkOut = s.linkOut ++ (s.sessions.filter fun x => decide (x.tdev = tdev)).flatMap (fun x => x.waiting) ∧
    t.sessions = s.sessions.map fun x =>
      if x.tdev = tdev then { x with epoch := x.epoch + 1, sent := x.waiting.length, taken := 0, waiting := [] } else x
end

