-- ==== Sys2Proof/Laws/Memory.lean ====
section
/-! SUPPORT. The sparse memory: a read after a write, and the canonical form that every operation keeps. -/
namespace Sys2Proof.Machine

set_option Elab.async false

theorem memRead_below (lo : Nat) (m : Memory) (h : memWfFrom lo m = true) (a : Nat) (ha : a < lo) : memRead m a = 0 := by
  induction m generalizing lo with
  | nil => rfl
  | cons x r ih =>
    obtain ⟨k, v⟩ := x
    simp only [memWfFrom, Bool.and_eq_true, decide_eq_true_eq] at h
    have h1 : ¬ a = k := by omega
    have h2 : a < k := by omega
    simp [memRead, h1, h2]

theorem memWfFrom_mono (lo lo' : Nat) (m : Memory) (h : memWfFrom lo m = true) (hl : lo' ≤ lo) : memWfFrom lo' m = true := by
  cases m with
  | nil => rfl
  | cons x r =>
    obtain ⟨k, v⟩ := x
    simp only [memWfFrom, Bool.and_eq_true, decide_eq_true_eq] at h ⊢
    exact ⟨⟨by omega, h.1.2⟩, h.2⟩

theorem memWrite_wfFrom (lo : Nat) (m : Memory) (a : Nat) (v : BitVec 8) (h : memWfFrom lo m = true) (ha : lo ≤ a) :
    memWfFrom lo (memWrite m a v) = true := by
  induction m generalizing lo with
  | nil =>
    unfold memWrite
    split
    · rfl
    · simp only [memWfFrom, Bool.and_eq_true, decide_eq_true_eq]
      exact ⟨⟨ha, ‹_›⟩, trivial⟩
  | cons x r ih =>
    obtain ⟨k, w⟩ := x
    simp only [memWfFrom, Bool.and_eq_true, decide_eq_true_eq] at h
    unfold memWrite
    split
    · split
      · simp only [memWfFrom, Bool.and_eq_true, decide_eq_true_eq]
        exact ⟨⟨h.1.1, h.1.2⟩, h.2⟩
      · simp only [memWfFrom, Bool.and_eq_true, decide_eq_true_eq]
        exact ⟨⟨ha, ‹_›⟩, ⟨by omega, h.1.2⟩, h.2⟩
    · split
      · split
        · exact memWfFrom_mono _ _ _ h.2 (by omega)
        · simp only [memWfFrom, Bool.and_eq_true, decide_eq_true_eq]
          subst_vars
          exact ⟨⟨ha, ‹_›⟩, h.2⟩
      · simp only [memWfFrom, Bool.and_eq_true, decide_eq_true_eq]
        exact ⟨⟨h.1.1, h.1.2⟩, ih _ h.2 (by omega)⟩

/-- A write keeps the canonical form. -/
theorem memWrite_wf (m : Memory) (a : Nat) (v : BitVec 8) (h : m.wf = true) : (memWrite m a v).wf = true :=
  memWrite_wfFrom 0 m a v h (Nat.zero_le a)

/-- A write of several bytes keeps the canonical form. -/
theorem memPut_wf (m : Memory) (a : Nat) (l : List (BitVec 8)) (h : m.wf = true) : (memPut m a l).wf = true := by
  induction l generalizing m a with
  | nil => exact h
  | cons b r ih => exact ih _ _ (memWrite_wf m a b h)

theorem memErase_wfFrom (lo : Nat) (m : Memory) (a b : Nat) (h : memWfFrom lo m = true) :
    memWfFrom lo (memErase m a b) = true := by
  induction m generalizing lo with
  | nil => rfl
  | cons x r ih =>
    obtain ⟨k, w⟩ := x
    simp only [memWfFrom, Bool.and_eq_true, decide_eq_true_eq] at h
    unfold memErase
    rw [List.filter_cons]
    split
    · simp only [memWfFrom, Bool.and_eq_true, decide_eq_true_eq]
      exact ⟨h.1, ih _ h.2⟩
    · exact memWfFrom_mono _ _ _ (ih _ h.2) (by omega)

/-- Erasing a range keeps the canonical form. -/
theorem memErase_wf (m : Memory) (a b : Nat) (h : m.wf = true) : (memErase m a b).wf = true := memErase_wfFrom 0 m a b h

/-- The byte a write leaves at an address. -/
theorem memRead_memWrite (lo : Nat) (m : Memory) (a b : Nat) (v : BitVec 8) (h : memWfFrom lo m = true) :
    memRead (memWrite m a v) b = if b = a then v else memRead m b := by
  induction m generalizing lo with
  | nil =>
    unfold memWrite
    split
    · split <;> simp_all [memRead]
    · simp only [memRead]
      split
      · rfl
      · split <;> rfl
  | cons x r ih =>
    obtain ⟨k, w⟩ := x
    simp only [memWfFrom, Bool.and_eq_true, decide_eq_true_eq] at h
    have hr := ih _ h.2
    have hz := memRead_below _ _ h.2
    unfold memWrite
    split
    · split
      · by_cases hb : b = a
        · subst hb
          rw [if_pos rfl, ‹v = 0›]
          simp only [memRead, show ¬ b = k by omega, show b < k by omega, if_true, if_false]
        · rw [if_neg hb]
      · by_cases hb : b = a
        · simp [hb, memRead]
        · simp only [hb, if_false, memRead]
          split
          · have h1 : ¬ b = k := by omega
            have h2 : b < k := by omega
            simp [h1, h2]
          · rfl
    · split
      · subst_vars
        split
        · by_cases hb : b = k
          · subst hb; rw [if_pos rfl, hz b (by omega), ‹v = 0›]
          · by_cases hlt : b < k
            · simp [hb, hlt, memRead, hz b (by omega)]
            · simp [hb, hlt, memRead]
        · by_cases hb : b = k
          · simp [hb, memRead]
          · simp [hb, memRead]
      · simp only [memRead, hr]
        by_cases hb : b = a
        · have h1 : ¬ a = k := by omega
          have h2 : ¬ a < k := by omega
          simp [hb, h1, h2]
        · simp [hb]

theorem memRead_memWrite_same (m : Memory) (a : Nat) (v : BitVec 8) (h : m.wf = true) : memRead (memWrite m a v) a = v := by
  simp [memRead_memWrite 0 m a a v h]

theorem memRead_memWrite_other (m : Memory) (a b : Nat) (v : BitVec 8) (h : m.wf = true) (hb : b ≠ a) :
    memRead (memWrite m a v) b = memRead m b := by
  simp [memRead_memWrite 0 m a b v h, hb]

/-- The byte a write of several bytes leaves at an address. -/
theorem memRead_memPut (m : Memory) (a b : Nat) (l : List (BitVec 8)) (h : m.wf = true) :
    memRead (memPut m a l) b = if a ≤ b ∧ b < a + l.length then l.getD (b - a) 0 else memRead m b := by
  induction l generalizing m a with
  | nil =>
    have : ¬ (a ≤ b ∧ b < a + ([] : List (BitVec 8)).length) := by simp
    simp only [memPut, this, if_false]
  | cons x r ih =>
    rw [memPut, ih _ _ (memWrite_wf m a x h)]
    by_cases hb : b = a
    · subst hb
      have h1 : ¬ (b + 1 ≤ b ∧ b < b + 1 + r.length) := by omega
      simp [h1, memRead_memWrite_same m b x h]
    · rw [memRead_memWrite_other m a b x h hb]
      by_cases hc : a + 1 ≤ b ∧ b < a + 1 + r.length
      · have h2 : a ≤ b ∧ b < a + (x :: r).length := by simp; omega
        have h3 : b - a = (b - (a + 1)) + 1 := by omega
        simp only [hc, h2, and_self, if_true, h3, List.getD_cons_succ]
      · have h2 : ¬ (a ≤ b ∧ b < a + (x :: r).length) := by simp; omega
        simp only [hc, h2, if_false]

end Sys2Proof.Machine
end

