-- ==== Sys2Proof/Laws/State.lean ====
section
/-! SUPPORT. What each update of a part of the state does to every field of the state, and what the accessors of packs,
rows, strands and threads read after it. -/
namespace Sys2Proof.Machine

set_option Elab.async false

/-! ### modPack -/

@[simp] theorem State.modPack_turn (s : State) (p : Nat) (f : Pack → Pack) : (s.modPack p f).turn = s.turn := rfl
@[simp] theorem State.modPack_sched (s : State) (p : Nat) (f : Pack → Pack) : (s.modPack p f).sched = s.sched := rfl
@[simp] theorem State.modPack_nonce (s : State) (p : Nat) (f : Pack → Pack) : (s.modPack p f).nonce = s.nonce := rfl
@[simp] theorem State.modPack_issuer (s : State) (p : Nat) (f : Pack → Pack) : (s.modPack p f).issuer = s.issuer := rfl
@[simp] theorem State.modPack_fetch (s : State) (p : Nat) (f : Pack → Pack) : (s.modPack p f).fetch = s.fetch := rfl
@[simp] theorem State.modPack_cycle (s : State) (p : Nat) (f : Pack → Pack) : (s.modPack p f).cycle = s.cycle := rfl
@[simp] theorem State.modPack_mem (s : State) (p : Nat) (f : Pack → Pack) : (s.modPack p f).mem = s.mem := rfl
@[simp] theorem State.modPack_poison (s : State) (p : Nat) (f : Pack → Pack) : (s.modPack p f).poison = s.poison := rfl
@[simp] theorem State.modPack_granules (s : State) (p : Nat) (f : Pack → Pack) : (s.modPack p f).granules = s.granules := rfl
@[simp] theorem State.modPack_lines (s : State) (p : Nat) (f : Pack → Pack) : (s.modPack p f).lines = s.lines := rfl
@[simp] theorem State.modPack_cc (s : State) (p : Nat) (f : Pack → Pack) : (s.modPack p f).cc = s.cc := rfl
@[simp] theorem State.modPack_snapshots (s : State) (p : Nat) (f : Pack → Pack) : (s.modPack p f).snapshots = s.snapshots := rfl
@[simp] theorem State.modPack_storeShare (s : State) (p : Nat) (f : Pack → Pack) : (s.modPack p f).storeShare = s.storeShare := rfl
@[simp] theorem State.modPack_counted (s : State) (p : Nat) (f : Pack → Pack) : (s.modPack p f).counted = s.counted := rfl
@[simp] theorem State.modPack_hbm (s : State) (p : Nat) (f : Pack → Pack) : (s.modPack p f).hbm = s.hbm := rfl
@[simp] theorem State.modPack_early (s : State) (p : Nat) (f : Pack → Pack) : (s.modPack p f).early = s.early := rfl
@[simp] theorem State.modPack_failedChannels (s : State) (p : Nat) (f : Pack → Pack) : (s.modPack p f).failedChannels = s.failedChannels := rfl
@[simp] theorem State.modPack_channelCounts (s : State) (p : Nat) (f : Pack → Pack) : (s.modPack p f).channelCounts = s.channelCounts := rfl
@[simp] theorem State.modPack_channelErrors (s : State) (p : Nat) (f : Pack → Pack) : (s.modPack p f).channelErrors = s.channelErrors := rfl
@[simp] theorem State.modPack_cores (s : State) (p : Nat) (f : Pack → Pack) : (s.modPack p f).cores = s.cores := rfl
@[simp] theorem State.modPack_clusters (s : State) (p : Nat) (f : Pack → Pack) : (s.modPack p f).clusters = s.clusters := rfl
@[simp] theorem State.modPack_dies (s : State) (p : Nat) (f : Pack → Pack) : (s.modPack p f).dies = s.dies := rfl
@[simp] theorem State.modPack_conns (s : State) (p : Nat) (f : Pack → Pack) : (s.modPack p f).conns = s.conns := rfl
@[simp] theorem State.modPack_nextConn (s : State) (p : Nat) (f : Pack → Pack) : (s.modPack p f).nextConn = s.nextConn := rfl
@[simp] theorem State.modPack_launches (s : State) (p : Nat) (f : Pack → Pack) : (s.modPack p f).launches = s.launches := rfl
@[simp] theorem State.modPack_heads (s : State) (p : Nat) (f : Pack → Pack) : (s.modPack p f).heads = s.heads := rfl
@[simp] theorem State.modPack_served (s : State) (p : Nat) (f : Pack → Pack) : (s.modPack p f).served = s.served := rfl
@[simp] theorem State.modPack_nextLid (s : State) (p : Nat) (f : Pack → Pack) : (s.modPack p f).nextLid = s.nextLid := rfl
@[simp] theorem State.modPack_nextPackId (s : State) (p : Nat) (f : Pack → Pack) : (s.modPack p f).nextPackId = s.nextPackId := rfl
@[simp] theorem State.modPack_nextOrder (s : State) (p : Nat) (f : Pack → Pack) : (s.modPack p f).nextOrder = s.nextOrder := rfl
@[simp] theorem State.modPack_nextPlace (s : State) (p : Nat) (f : Pack → Pack) : (s.modPack p f).nextPlace = s.nextPlace := rfl
@[simp] theorem State.modPack_asked (s : State) (p : Nat) (f : Pack → Pack) : (s.modPack p f).asked = s.asked := rfl
@[simp] theorem State.modPack_pendingEnd (s : State) (p : Nat) (f : Pack → Pack) : (s.modPack p f).pendingEnd = s.pendingEnd := rfl
@[simp] theorem State.modPack_copies (s : State) (p : Nat) (f : Pack → Pack) : (s.modPack p f).copies = s.copies := rfl
@[simp] theorem State.modPack_partitions (s : State) (p : Nat) (f : Pack → Pack) : (s.modPack p f).partitions = s.partitions := rfl
@[simp] theorem State.modPack_contexts (s : State) (p : Nat) (f : Pack → Pack) : (s.modPack p f).contexts = s.contexts := rfl
@[simp] theorem State.modPack_laneRetire (s : State) (p : Nat) (f : Pack → Pack) : (s.modPack p f).laneRetire = s.laneRetire := rfl
@[simp] theorem State.modPack_patch (s : State) (p : Nat) (f : Pack → Pack) : (s.modPack p f).patch = s.patch := rfl
@[simp] theorem State.modPack_patchId (s : State) (p : Nat) (f : Pack → Pack) : (s.modPack p f).patchId = s.patchId := rfl
@[simp] theorem State.modPack_built (s : State) (p : Nat) (f : Pack → Pack) : (s.modPack p f).built = s.built := rfl
@[simp] theorem State.modPack_ranAdtan (s : State) (p : Nat) (f : Pack → Pack) : (s.modPack p f).ranAdtan = s.ranAdtan := rfl
@[simp] theorem State.modPack_links (s : State) (p : Nat) (f : Pack → Pack) : (s.modPack p f).links = s.links := rfl
@[simp] theorem State.modPack_sessions (s : State) (p : Nat) (f : Pack → Pack) : (s.modPack p f).sessions = s.sessions := rfl
@[simp] theorem State.modPack_linkOut (s : State) (p : Nat) (f : Pack → Pack) : (s.modPack p f).linkOut = s.linkOut := rfl
@[simp] theorem State.modPack_responses (s : State) (p : Nat) (f : Pack → Pack) : (s.modPack p f).responses = s.responses := rfl
@[simp] theorem State.modPack_hostReads (s : State) (p : Nat) (f : Pack → Pack) : (s.modPack p f).hostReads = s.hostReads := rfl
@[simp] theorem State.modPack_voided (s : State) (p : Nat) (f : Pack → Pack) : (s.modPack p f).voided = s.voided := rfl
@[simp] theorem State.modPack_romMeasured (s : State) (p : Nat) (f : Pack → Pack) : (s.modPack p f).romMeasured = s.romMeasured := rfl
@[simp] theorem State.modPack_partMade (s : State) (p : Nat) (f : Pack → Pack) : (s.modPack p f).partMade = s.partMade := rfl
@[simp] theorem State.modPack_ready (s : State) (p : Nat) (f : Pack → Pack) : (s.modPack p f).ready = s.ready := rfl

/-! ### forget -/

@[simp] theorem State.forget_turn (s : State) (f : Early → Bool) : (s.forget f).turn = s.turn := rfl
@[simp] theorem State.forget_sched (s : State) (f : Early → Bool) : (s.forget f).sched = s.sched := rfl
@[simp] theorem State.forget_nonce (s : State) (f : Early → Bool) : (s.forget f).nonce = s.nonce := rfl
@[simp] theorem State.forget_issuer (s : State) (f : Early → Bool) : (s.forget f).issuer = s.issuer := rfl
@[simp] theorem State.forget_fetch (s : State) (f : Early → Bool) : (s.forget f).fetch = s.fetch := rfl
@[simp] theorem State.forget_cycle (s : State) (f : Early → Bool) : (s.forget f).cycle = s.cycle := rfl
@[simp] theorem State.forget_mem (s : State) (f : Early → Bool) : (s.forget f).mem = s.mem := rfl
@[simp] theorem State.forget_poison (s : State) (f : Early → Bool) : (s.forget f).poison = s.poison := rfl
@[simp] theorem State.forget_granules (s : State) (f : Early → Bool) : (s.forget f).granules = s.granules := rfl
@[simp] theorem State.forget_lines (s : State) (f : Early → Bool) : (s.forget f).lines = s.lines := rfl
@[simp] theorem State.forget_cc (s : State) (f : Early → Bool) : (s.forget f).cc = s.cc := rfl
@[simp] theorem State.forget_snapshots (s : State) (f : Early → Bool) : (s.forget f).snapshots = s.snapshots := rfl
@[simp] theorem State.forget_storeShare (s : State) (f : Early → Bool) : (s.forget f).storeShare = s.storeShare := rfl
@[simp] theorem State.forget_counted (s : State) (f : Early → Bool) : (s.forget f).counted = s.counted := rfl
@[simp] theorem State.forget_hbm (s : State) (f : Early → Bool) : (s.forget f).hbm = s.hbm := rfl
@[simp] theorem State.forget_failedChannels (s : State) (f : Early → Bool) : (s.forget f).failedChannels = s.failedChannels := rfl
@[simp] theorem State.forget_channelCounts (s : State) (f : Early → Bool) : (s.forget f).channelCounts = s.channelCounts := rfl
@[simp] theorem State.forget_channelErrors (s : State) (f : Early → Bool) : (s.forget f).channelErrors = s.channelErrors := rfl
@[simp] theorem State.forget_cores (s : State) (f : Early → Bool) : (s.forget f).cores = s.cores := rfl
@[simp] theorem State.forget_clusters (s : State) (f : Early → Bool) : (s.forget f).clusters = s.clusters := rfl
@[simp] theorem State.forget_dies (s : State) (f : Early → Bool) : (s.forget f).dies = s.dies := rfl
@[simp] theorem State.forget_conns (s : State) (f : Early → Bool) : (s.forget f).conns = s.conns := rfl
@[simp] theorem State.forget_nextConn (s : State) (f : Early → Bool) : (s.forget f).nextConn = s.nextConn := rfl
@[simp] theorem State.forget_launches (s : State) (f : Early → Bool) : (s.forget f).launches = s.launches := rfl
@[simp] theorem State.forget_heads (s : State) (f : Early → Bool) : (s.forget f).heads = s.heads := rfl
@[simp] theorem State.forget_served (s : State) (f : Early → Bool) : (s.forget f).served = s.served := rfl
@[simp] theorem State.forget_nextLid (s : State) (f : Early → Bool) : (s.forget f).nextLid = s.nextLid := rfl
@[simp] theorem State.forget_nextPackId (s : State) (f : Early → Bool) : (s.forget f).nextPackId = s.nextPackId := rfl
@[simp] theorem State.forget_nextOrder (s : State) (f : Early → Bool) : (s.forget f).nextOrder = s.nextOrder := rfl
@[simp] theorem State.forget_nextPlace (s : State) (f : Early → Bool) : (s.forget f).nextPlace = s.nextPlace := rfl
@[simp] theorem State.forget_asked (s : State) (f : Early → Bool) : (s.forget f).asked = s.asked := rfl
@[simp] theorem State.forget_pendingEnd (s : State) (f : Early → Bool) : (s.forget f).pendingEnd = s.pendingEnd := rfl
@[simp] theorem State.forget_copies (s : State) (f : Early → Bool) : (s.forget f).copies = s.copies := rfl
@[simp] theorem State.forget_partitions (s : State) (f : Early → Bool) : (s.forget f).partitions = s.partitions := rfl
@[simp] theorem State.forget_contexts (s : State) (f : Early → Bool) : (s.forget f).contexts = s.contexts := rfl
@[simp] theorem State.forget_laneRetire (s : State) (f : Early → Bool) : (s.forget f).laneRetire = s.laneRetire := rfl
@[simp] theorem State.forget_patch (s : State) (f : Early → Bool) : (s.forget f).patch = s.patch := rfl
@[simp] theorem State.forget_patchId (s : State) (f : Early → Bool) : (s.forget f).patchId = s.patchId := rfl
@[simp] theorem State.forget_built (s : State) (f : Early → Bool) : (s.forget f).built = s.built := rfl
@[simp] theorem State.forget_ranAdtan (s : State) (f : Early → Bool) : (s.forget f).ranAdtan = s.ranAdtan := rfl
@[simp] theorem State.forget_links (s : State) (f : Early → Bool) : (s.forget f).links = s.links := rfl
@[simp] theorem State.forget_sessions (s : State) (f : Early → Bool) : (s.forget f).sessions = s.sessions := rfl
@[simp] theorem State.forget_linkOut (s : State) (f : Early → Bool) : (s.forget f).linkOut = s.linkOut := rfl
@[simp] theorem State.forget_responses (s : State) (f : Early → Bool) : (s.forget f).responses = s.responses := rfl
@[simp] theorem State.forget_hostReads (s : State) (f : Early → Bool) : (s.forget f).hostReads = s.hostReads := rfl
@[simp] theorem State.forget_voided (s : State) (f : Early → Bool) : (s.forget f).voided = s.voided := rfl
@[simp] theorem State.forget_romMeasured (s : State) (f : Early → Bool) : (s.forget f).romMeasured = s.romMeasured := rfl
@[simp] theorem State.forget_partMade (s : State) (f : Early → Bool) : (s.forget f).partMade = s.partMade := rfl
@[simp] theorem State.forget_ready (s : State) (f : Early → Bool) : (s.forget f).ready = s.ready := rfl
@[simp] theorem State.forget_packs (s : State) (f : Early → Bool) : (s.forget f).packs = s.packs := rfl

/-! ### modRow -/

@[simp] theorem State.modRow_turn (s : State) (p r : Nat) (f : Row → Row) : (s.modRow p r f).turn = s.turn := rfl
@[simp] theorem State.modRow_sched (s : State) (p r : Nat) (f : Row → Row) : (s.modRow p r f).sched = s.sched := rfl
@[simp] theorem State.modRow_nonce (s : State) (p r : Nat) (f : Row → Row) : (s.modRow p r f).nonce = s.nonce := rfl
@[simp] theorem State.modRow_issuer (s : State) (p r : Nat) (f : Row → Row) : (s.modRow p r f).issuer = s.issuer := rfl
@[simp] theorem State.modRow_fetch (s : State) (p r : Nat) (f : Row → Row) : (s.modRow p r f).fetch = s.fetch := rfl
@[simp] theorem State.modRow_cycle (s : State) (p r : Nat) (f : Row → Row) : (s.modRow p r f).cycle = s.cycle := rfl
@[simp] theorem State.modRow_mem (s : State) (p r : Nat) (f : Row → Row) : (s.modRow p r f).mem = s.mem := rfl
@[simp] theorem State.modRow_poison (s : State) (p r : Nat) (f : Row → Row) : (s.modRow p r f).poison = s.poison := rfl
@[simp] theorem State.modRow_granules (s : State) (p r : Nat) (f : Row → Row) : (s.modRow p r f).granules = s.granules := rfl
@[simp] theorem State.modRow_lines (s : State) (p r : Nat) (f : Row → Row) : (s.modRow p r f).lines = s.lines := rfl
@[simp] theorem State.modRow_cc (s : State) (p r : Nat) (f : Row → Row) : (s.modRow p r f).cc = s.cc := rfl
@[simp] theorem State.modRow_snapshots (s : State) (p r : Nat) (f : Row → Row) : (s.modRow p r f).snapshots = s.snapshots := rfl
@[simp] theorem State.modRow_storeShare (s : State) (p r : Nat) (f : Row → Row) : (s.modRow p r f).storeShare = s.storeShare := rfl
@[simp] theorem State.modRow_counted (s : State) (p r : Nat) (f : Row → Row) : (s.modRow p r f).counted = s.counted := rfl
@[simp] theorem State.modRow_hbm (s : State) (p r : Nat) (f : Row → Row) : (s.modRow p r f).hbm = s.hbm := rfl
@[simp] theorem State.modRow_early (s : State) (p r : Nat) (f : Row → Row) : (s.modRow p r f).early = s.early := rfl
@[simp] theorem State.modRow_failedChannels (s : State) (p r : Nat) (f : Row → Row) : (s.modRow p r f).failedChannels = s.failedChannels := rfl
@[simp] theorem State.modRow_channelCounts (s : State) (p r : Nat) (f : Row → Row) : (s.modRow p r f).channelCounts = s.channelCounts := rfl
@[simp] theorem State.modRow_channelErrors (s : State) (p r : Nat) (f : Row → Row) : (s.modRow p r f).channelErrors = s.channelErrors := rfl
@[simp] theorem State.modRow_cores (s : State) (p r : Nat) (f : Row → Row) : (s.modRow p r f).cores = s.cores := rfl
@[simp] theorem State.modRow_clusters (s : State) (p r : Nat) (f : Row → Row) : (s.modRow p r f).clusters = s.clusters := rfl
@[simp] theorem State.modRow_dies (s : State) (p r : Nat) (f : Row → Row) : (s.modRow p r f).dies = s.dies := rfl
@[simp] theorem State.modRow_conns (s : State) (p r : Nat) (f : Row → Row) : (s.modRow p r f).conns = s.conns := rfl
@[simp] theorem State.modRow_nextConn (s : State) (p r : Nat) (f : Row → Row) : (s.modRow p r f).nextConn = s.nextConn := rfl
@[simp] theorem State.modRow_launches (s : State) (p r : Nat) (f : Row → Row) : (s.modRow p r f).launches = s.launches := rfl
@[simp] theorem State.modRow_heads (s : State) (p r : Nat) (f : Row → Row) : (s.modRow p r f).heads = s.heads := rfl
@[simp] theorem State.modRow_served (s : State) (p r : Nat) (f : Row → Row) : (s.modRow p r f).served = s.served := rfl
@[simp] theorem State.modRow_nextLid (s : State) (p r : Nat) (f : Row → Row) : (s.modRow p r f).nextLid = s.nextLid := rfl
@[simp] theorem State.modRow_nextPackId (s : State) (p r : Nat) (f : Row → Row) : (s.modRow p r f).nextPackId = s.nextPackId := rfl
@[simp] theorem State.modRow_nextOrder (s : State) (p r : Nat) (f : Row → Row) : (s.modRow p r f).nextOrder = s.nextOrder := rfl
@[simp] theorem State.modRow_nextPlace (s : State) (p r : Nat) (f : Row → Row) : (s.modRow p r f).nextPlace = s.nextPlace := rfl
@[simp] theorem State.modRow_asked (s : State) (p r : Nat) (f : Row → Row) : (s.modRow p r f).asked = s.asked := rfl
@[simp] theorem State.modRow_pendingEnd (s : State) (p r : Nat) (f : Row → Row) : (s.modRow p r f).pendingEnd = s.pendingEnd := rfl
@[simp] theorem State.modRow_copies (s : State) (p r : Nat) (f : Row → Row) : (s.modRow p r f).copies = s.copies := rfl
@[simp] theorem State.modRow_partitions (s : State) (p r : Nat) (f : Row → Row) : (s.modRow p r f).partitions = s.partitions := rfl
@[simp] theorem State.modRow_contexts (s : State) (p r : Nat) (f : Row → Row) : (s.modRow p r f).contexts = s.contexts := rfl
@[simp] theorem State.modRow_laneRetire (s : State) (p r : Nat) (f : Row → Row) : (s.modRow p r f).laneRetire = s.laneRetire := rfl
@[simp] theorem State.modRow_patch (s : State) (p r : Nat) (f : Row → Row) : (s.modRow p r f).patch = s.patch := rfl
@[simp] theorem State.modRow_patchId (s : State) (p r : Nat) (f : Row → Row) : (s.modRow p r f).patchId = s.patchId := rfl
@[simp] theorem State.modRow_built (s : State) (p r : Nat) (f : Row → Row) : (s.modRow p r f).built = s.built := rfl
@[simp] theorem State.modRow_ranAdtan (s : State) (p r : Nat) (f : Row → Row) : (s.modRow p r f).ranAdtan = s.ranAdtan := rfl
@[simp] theorem State.modRow_links (s : State) (p r : Nat) (f : Row → Row) : (s.modRow p r f).links = s.links := rfl
@[simp] theorem State.modRow_sessions (s : State) (p r : Nat) (f : Row → Row) : (s.modRow p r f).sessions = s.sessions := rfl
@[simp] theorem State.modRow_linkOut (s : State) (p r : Nat) (f : Row → Row) : (s.modRow p r f).linkOut = s.linkOut := rfl
@[simp] theorem State.modRow_responses (s : State) (p r : Nat) (f : Row → Row) : (s.modRow p r f).responses = s.responses := rfl
@[simp] theorem State.modRow_hostReads (s : State) (p r : Nat) (f : Row → Row) : (s.modRow p r f).hostReads = s.hostReads := rfl
@[simp] theorem State.modRow_voided (s : State) (p r : Nat) (f : Row → Row) : (s.modRow p r f).voided = s.voided := rfl
@[simp] theorem State.modRow_romMeasured (s : State) (p r : Nat) (f : Row → Row) : (s.modRow p r f).romMeasured = s.romMeasured := rfl
@[simp] theorem State.modRow_partMade (s : State) (p r : Nat) (f : Row → Row) : (s.modRow p r f).partMade = s.partMade := rfl
@[simp] theorem State.modRow_ready (s : State) (p r : Nat) (f : Row → Row) : (s.modRow p r f).ready = s.ready := rfl

/-! ### modStrand -/

@[simp] theorem State.modStrand_turn (s : State) (p r k : Nat) (f : Strand → Strand) : (s.modStrand p r k f).turn = s.turn := rfl
@[simp] theorem State.modStrand_sched (s : State) (p r k : Nat) (f : Strand → Strand) : (s.modStrand p r k f).sched = s.sched := rfl
@[simp] theorem State.modStrand_nonce (s : State) (p r k : Nat) (f : Strand → Strand) : (s.modStrand p r k f).nonce = s.nonce := rfl
@[simp] theorem State.modStrand_issuer (s : State) (p r k : Nat) (f : Strand → Strand) : (s.modStrand p r k f).issuer = s.issuer := rfl
@[simp] theorem State.modStrand_fetch (s : State) (p r k : Nat) (f : Strand → Strand) : (s.modStrand p r k f).fetch = s.fetch := rfl
@[simp] theorem State.modStrand_cycle (s : State) (p r k : Nat) (f : Strand → Strand) : (s.modStrand p r k f).cycle = s.cycle := rfl
@[simp] theorem State.modStrand_mem (s : State) (p r k : Nat) (f : Strand → Strand) : (s.modStrand p r k f).mem = s.mem := rfl
@[simp] theorem State.modStrand_poison (s : State) (p r k : Nat) (f : Strand → Strand) : (s.modStrand p r k f).poison = s.poison := rfl
@[simp] theorem State.modStrand_granules (s : State) (p r k : Nat) (f : Strand → Strand) : (s.modStrand p r k f).granules = s.granules := rfl
@[simp] theorem State.modStrand_lines (s : State) (p r k : Nat) (f : Strand → Strand) : (s.modStrand p r k f).lines = s.lines := rfl
@[simp] theorem State.modStrand_cc (s : State) (p r k : Nat) (f : Strand → Strand) : (s.modStrand p r k f).cc = s.cc := rfl
@[simp] theorem State.modStrand_snapshots (s : State) (p r k : Nat) (f : Strand → Strand) : (s.modStrand p r k f).snapshots = s.snapshots := rfl
@[simp] theorem State.modStrand_storeShare (s : State) (p r k : Nat) (f : Strand → Strand) : (s.modStrand p r k f).storeShare = s.storeShare := rfl
@[simp] theorem State.modStrand_counted (s : State) (p r k : Nat) (f : Strand → Strand) : (s.modStrand p r k f).counted = s.counted := rfl
@[simp] theorem State.modStrand_hbm (s : State) (p r k : Nat) (f : Strand → Strand) : (s.modStrand p r k f).hbm = s.hbm := rfl
@[simp] theorem State.modStrand_early (s : State) (p r k : Nat) (f : Strand → Strand) : (s.modStrand p r k f).early = s.early := rfl
@[simp] theorem State.modStrand_failedChannels (s : State) (p r k : Nat) (f : Strand → Strand) : (s.modStrand p r k f).failedChannels = s.failedChannels := rfl
@[simp] theorem State.modStrand_channelCounts (s : State) (p r k : Nat) (f : Strand → Strand) : (s.modStrand p r k f).channelCounts = s.channelCounts := rfl
@[simp] theorem State.modStrand_channelErrors (s : State) (p r k : Nat) (f : Strand → Strand) : (s.modStrand p r k f).channelErrors = s.channelErrors := rfl
@[simp] theorem State.modStrand_cores (s : State) (p r k : Nat) (f : Strand → Strand) : (s.modStrand p r k f).cores = s.cores := rfl
@[simp] theorem State.modStrand_clusters (s : State) (p r k : Nat) (f : Strand → Strand) : (s.modStrand p r k f).clusters = s.clusters := rfl
@[simp] theorem State.modStrand_dies (s : State) (p r k : Nat) (f : Strand → Strand) : (s.modStrand p r k f).dies = s.dies := rfl
@[simp] theorem State.modStrand_conns (s : State) (p r k : Nat) (f : Strand → Strand) : (s.modStrand p r k f).conns = s.conns := rfl
@[simp] theorem State.modStrand_nextConn (s : State) (p r k : Nat) (f : Strand → Strand) : (s.modStrand p r k f).nextConn = s.nextConn := rfl
@[simp] theorem State.modStrand_launches (s : State) (p r k : Nat) (f : Strand → Strand) : (s.modStrand p r k f).launches = s.launches := rfl
@[simp] theorem State.modStrand_heads (s : State) (p r k : Nat) (f : Strand → Strand) : (s.modStrand p r k f).heads = s.heads := rfl
@[simp] theorem State.modStrand_served (s : State) (p r k : Nat) (f : Strand → Strand) : (s.modStrand p r k f).served = s.served := rfl
@[simp] theorem State.modStrand_nextLid (s : State) (p r k : Nat) (f : Strand → Strand) : (s.modStrand p r k f).nextLid = s.nextLid := rfl
@[simp] theorem State.modStrand_nextPackId (s : State) (p r k : Nat) (f : Strand → Strand) : (s.modStrand p r k f).nextPackId = s.nextPackId := rfl
@[simp] theorem State.modStrand_nextOrder (s : State) (p r k : Nat) (f : Strand → Strand) : (s.modStrand p r k f).nextOrder = s.nextOrder := rfl
@[simp] theorem State.modStrand_nextPlace (s : State) (p r k : Nat) (f : Strand → Strand) : (s.modStrand p r k f).nextPlace = s.nextPlace := rfl
@[simp] theorem State.modStrand_asked (s : State) (p r k : Nat) (f : Strand → Strand) : (s.modStrand p r k f).asked = s.asked := rfl
@[simp] theorem State.modStrand_pendingEnd (s : State) (p r k : Nat) (f : Strand → Strand) : (s.modStrand p r k f).pendingEnd = s.pendingEnd := rfl
@[simp] theorem State.modStrand_copies (s : State) (p r k : Nat) (f : Strand → Strand) : (s.modStrand p r k f).copies = s.copies := rfl
@[simp] theorem State.modStrand_partitions (s : State) (p r k : Nat) (f : Strand → Strand) : (s.modStrand p r k f).partitions = s.partitions := rfl
@[simp] theorem State.modStrand_contexts (s : State) (p r k : Nat) (f : Strand → Strand) : (s.modStrand p r k f).contexts = s.contexts := rfl
@[simp] theorem State.modStrand_laneRetire (s : State) (p r k : Nat) (f : Strand → Strand) : (s.modStrand p r k f).laneRetire = s.laneRetire := rfl
@[simp] theorem State.modStrand_patch (s : State) (p r k : Nat) (f : Strand → Strand) : (s.modStrand p r k f).patch = s.patch := rfl
@[simp] theorem State.modStrand_patchId (s : State) (p r k : Nat) (f : Strand → Strand) : (s.modStrand p r k f).patchId = s.patchId := rfl
@[simp] theorem State.modStrand_built (s : State) (p r k : Nat) (f : Strand → Strand) : (s.modStrand p r k f).built = s.built := rfl
@[simp] theorem State.modStrand_ranAdtan (s : State) (p r k : Nat) (f : Strand → Strand) : (s.modStrand p r k f).ranAdtan = s.ranAdtan := rfl
@[simp] theorem State.modStrand_links (s : State) (p r k : Nat) (f : Strand → Strand) : (s.modStrand p r k f).links = s.links := rfl
@[simp] theorem State.modStrand_sessions (s : State) (p r k : Nat) (f : Strand → Strand) : (s.modStrand p r k f).sessions = s.sessions := rfl
@[simp] theorem State.modStrand_linkOut (s : State) (p r k : Nat) (f : Strand → Strand) : (s.modStrand p r k f).linkOut = s.linkOut := rfl
@[simp] theorem State.modStrand_responses (s : State) (p r k : Nat) (f : Strand → Strand) : (s.modStrand p r k f).responses = s.responses := rfl
@[simp] theorem State.modStrand_hostReads (s : State) (p r k : Nat) (f : Strand → Strand) : (s.modStrand p r k f).hostReads = s.hostReads := rfl
@[simp] theorem State.modStrand_voided (s : State) (p r k : Nat) (f : Strand → Strand) : (s.modStrand p r k f).voided = s.voided := rfl
@[simp] theorem State.modStrand_romMeasured (s : State) (p r k : Nat) (f : Strand → Strand) : (s.modStrand p r k f).romMeasured = s.romMeasured := rfl
@[simp] theorem State.modStrand_partMade (s : State) (p r k : Nat) (f : Strand → Strand) : (s.modStrand p r k f).partMade = s.partMade := rfl
@[simp] theorem State.modStrand_ready (s : State) (p r k : Nat) (f : Strand → Strand) : (s.modStrand p r k f).ready = s.ready := rfl

/-! ### modSide -/

@[simp] theorem State.modSide_turn (s : State) (p : Nat) (b : Bool) (f : Side → Side) : (s.modSide p b f).turn = s.turn := rfl
@[simp] theorem State.modSide_sched (s : State) (p : Nat) (b : Bool) (f : Side → Side) : (s.modSide p b f).sched = s.sched := rfl
@[simp] theorem State.modSide_nonce (s : State) (p : Nat) (b : Bool) (f : Side → Side) : (s.modSide p b f).nonce = s.nonce := rfl
@[simp] theorem State.modSide_issuer (s : State) (p : Nat) (b : Bool) (f : Side → Side) : (s.modSide p b f).issuer = s.issuer := rfl
@[simp] theorem State.modSide_fetch (s : State) (p : Nat) (b : Bool) (f : Side → Side) : (s.modSide p b f).fetch = s.fetch := rfl
@[simp] theorem State.modSide_cycle (s : State) (p : Nat) (b : Bool) (f : Side → Side) : (s.modSide p b f).cycle = s.cycle := rfl
@[simp] theorem State.modSide_mem (s : State) (p : Nat) (b : Bool) (f : Side → Side) : (s.modSide p b f).mem = s.mem := rfl
@[simp] theorem State.modSide_poison (s : State) (p : Nat) (b : Bool) (f : Side → Side) : (s.modSide p b f).poison = s.poison := rfl
@[simp] theorem State.modSide_granules (s : State) (p : Nat) (b : Bool) (f : Side → Side) : (s.modSide p b f).granules = s.granules := rfl
@[simp] theorem State.modSide_lines (s : State) (p : Nat) (b : Bool) (f : Side → Side) : (s.modSide p b f).lines = s.lines := rfl
@[simp] theorem State.modSide_cc (s : State) (p : Nat) (b : Bool) (f : Side → Side) : (s.modSide p b f).cc = s.cc := rfl
@[simp] theorem State.modSide_snapshots (s : State) (p : Nat) (b : Bool) (f : Side → Side) : (s.modSide p b f).snapshots = s.snapshots := rfl
@[simp] theorem State.modSide_storeShare (s : State) (p : Nat) (b : Bool) (f : Side → Side) : (s.modSide p b f).storeShare = s.storeShare := rfl
@[simp] theorem State.modSide_counted (s : State) (p : Nat) (b : Bool) (f : Side → Side) : (s.modSide p b f).counted = s.counted := rfl
@[simp] theorem State.modSide_hbm (s : State) (p : Nat) (b : Bool) (f : Side → Side) : (s.modSide p b f).hbm = s.hbm := rfl
@[simp] theorem State.modSide_early (s : State) (p : Nat) (b : Bool) (f : Side → Side) : (s.modSide p b f).early = s.early := rfl
@[simp] theorem State.modSide_failedChannels (s : State) (p : Nat) (b : Bool) (f : Side → Side) : (s.modSide p b f).failedChannels = s.failedChannels := rfl
@[simp] theorem State.modSide_channelCounts (s : State) (p : Nat) (b : Bool) (f : Side → Side) : (s.modSide p b f).channelCounts = s.channelCounts := rfl
@[simp] theorem State.modSide_channelErrors (s : State) (p : Nat) (b : Bool) (f : Side → Side) : (s.modSide p b f).channelErrors = s.channelErrors := rfl
@[simp] theorem State.modSide_cores (s : State) (p : Nat) (b : Bool) (f : Side → Side) : (s.modSide p b f).cores = s.cores := rfl
@[simp] theorem State.modSide_clusters (s : State) (p : Nat) (b : Bool) (f : Side → Side) : (s.modSide p b f).clusters = s.clusters := rfl
@[simp] theorem State.modSide_dies (s : State) (p : Nat) (b : Bool) (f : Side → Side) : (s.modSide p b f).dies = s.dies := rfl
@[simp] theorem State.modSide_conns (s : State) (p : Nat) (b : Bool) (f : Side → Side) : (s.modSide p b f).conns = s.conns := rfl
@[simp] theorem State.modSide_nextConn (s : State) (p : Nat) (b : Bool) (f : Side → Side) : (s.modSide p b f).nextConn = s.nextConn := rfl
@[simp] theorem State.modSide_launches (s : State) (p : Nat) (b : Bool) (f : Side → Side) : (s.modSide p b f).launches = s.launches := rfl
@[simp] theorem State.modSide_heads (s : State) (p : Nat) (b : Bool) (f : Side → Side) : (s.modSide p b f).heads = s.heads := rfl
@[simp] theorem State.modSide_served (s : State) (p : Nat) (b : Bool) (f : Side → Side) : (s.modSide p b f).served = s.served := rfl
@[simp] theorem State.modSide_nextLid (s : State) (p : Nat) (b : Bool) (f : Side → Side) : (s.modSide p b f).nextLid = s.nextLid := rfl
@[simp] theorem State.modSide_nextPackId (s : State) (p : Nat) (b : Bool) (f : Side → Side) : (s.modSide p b f).nextPackId = s.nextPackId := rfl
@[simp] theorem State.modSide_nextOrder (s : State) (p : Nat) (b : Bool) (f : Side → Side) : (s.modSide p b f).nextOrder = s.nextOrder := rfl
@[simp] theorem State.modSide_nextPlace (s : State) (p : Nat) (b : Bool) (f : Side → Side) : (s.modSide p b f).nextPlace = s.nextPlace := rfl
@[simp] theorem State.modSide_asked (s : State) (p : Nat) (b : Bool) (f : Side → Side) : (s.modSide p b f).asked = s.asked := rfl
@[simp] theorem State.modSide_pendingEnd (s : State) (p : Nat) (b : Bool) (f : Side → Side) : (s.modSide p b f).pendingEnd = s.pendingEnd := rfl
@[simp] theorem State.modSide_copies (s : State) (p : Nat) (b : Bool) (f : Side → Side) : (s.modSide p b f).copies = s.copies := rfl
@[simp] theorem State.modSide_partitions (s : State) (p : Nat) (b : Bool) (f : Side → Side) : (s.modSide p b f).partitions = s.partitions := rfl
@[simp] theorem State.modSide_contexts (s : State) (p : Nat) (b : Bool) (f : Side → Side) : (s.modSide p b f).contexts = s.contexts := rfl
@[simp] theorem State.modSide_laneRetire (s : State) (p : Nat) (b : Bool) (f : Side → Side) : (s.modSide p b f).laneRetire = s.laneRetire := rfl
@[simp] theorem State.modSide_patch (s : State) (p : Nat) (b : Bool) (f : Side → Side) : (s.modSide p b f).patch = s.patch := rfl
@[simp] theorem State.modSide_patchId (s : State) (p : Nat) (b : Bool) (f : Side → Side) : (s.modSide p b f).patchId = s.patchId := rfl
@[simp] theorem State.modSide_built (s : State) (p : Nat) (b : Bool) (f : Side → Side) : (s.modSide p b f).built = s.built := rfl
@[simp] theorem State.modSide_ranAdtan (s : State) (p : Nat) (b : Bool) (f : Side → Side) : (s.modSide p b f).ranAdtan = s.ranAdtan := rfl
@[simp] theorem State.modSide_links (s : State) (p : Nat) (b : Bool) (f : Side → Side) : (s.modSide p b f).links = s.links := rfl
@[simp] theorem State.modSide_sessions (s : State) (p : Nat) (b : Bool) (f : Side → Side) : (s.modSide p b f).sessions = s.sessions := rfl
@[simp] theorem State.modSide_linkOut (s : State) (p : Nat) (b : Bool) (f : Side → Side) : (s.modSide p b f).linkOut = s.linkOut := rfl
@[simp] theorem State.modSide_responses (s : State) (p : Nat) (b : Bool) (f : Side → Side) : (s.modSide p b f).responses = s.responses := rfl
@[simp] theorem State.modSide_hostReads (s : State) (p : Nat) (b : Bool) (f : Side → Side) : (s.modSide p b f).hostReads = s.hostReads := rfl
@[simp] theorem State.modSide_voided (s : State) (p : Nat) (b : Bool) (f : Side → Side) : (s.modSide p b f).voided = s.voided := rfl
@[simp] theorem State.modSide_romMeasured (s : State) (p : Nat) (b : Bool) (f : Side → Side) : (s.modSide p b f).romMeasured = s.romMeasured := rfl
@[simp] theorem State.modSide_partMade (s : State) (p : Nat) (b : Bool) (f : Side → Side) : (s.modSide p b f).partMade = s.partMade := rfl
@[simp] theorem State.modSide_ready (s : State) (p : Nat) (b : Bool) (f : Side → Side) : (s.modSide p b f).ready = s.ready := rfl

/-! ### modCore -/

@[simp] theorem State.modCore_turn (s : State) (c : Nat) (f : Core → Core) : (s.modCore c f).turn = s.turn := rfl
@[simp] theorem State.modCore_sched (s : State) (c : Nat) (f : Core → Core) : (s.modCore c f).sched = s.sched := rfl
@[simp] theorem State.modCore_nonce (s : State) (c : Nat) (f : Core → Core) : (s.modCore c f).nonce = s.nonce := rfl
@[simp] theorem State.modCore_issuer (s : State) (c : Nat) (f : Core → Core) : (s.modCore c f).issuer = s.issuer := rfl
@[simp] theorem State.modCore_fetch (s : State) (c : Nat) (f : Core → Core) : (s.modCore c f).fetch = s.fetch := rfl
@[simp] theorem State.modCore_cycle (s : State) (c : Nat) (f : Core → Core) : (s.modCore c f).cycle = s.cycle := rfl
@[simp] theorem State.modCore_mem (s : State) (c : Nat) (f : Core → Core) : (s.modCore c f).mem = s.mem := rfl
@[simp] theorem State.modCore_poison (s : State) (c : Nat) (f : Core → Core) : (s.modCore c f).poison = s.poison := rfl
@[simp] theorem State.modCore_granules (s : State) (c : Nat) (f : Core → Core) : (s.modCore c f).granules = s.granules := rfl
@[simp] theorem State.modCore_lines (s : State) (c : Nat) (f : Core → Core) : (s.modCore c f).lines = s.lines := rfl
@[simp] theorem State.modCore_cc (s : State) (c : Nat) (f : Core → Core) : (s.modCore c f).cc = s.cc := rfl
@[simp] theorem State.modCore_snapshots (s : State) (c : Nat) (f : Core → Core) : (s.modCore c f).snapshots = s.snapshots := rfl
@[simp] theorem State.modCore_storeShare (s : State) (c : Nat) (f : Core → Core) : (s.modCore c f).storeShare = s.storeShare := rfl
@[simp] theorem State.modCore_counted (s : State) (c : Nat) (f : Core → Core) : (s.modCore c f).counted = s.counted := rfl
@[simp] theorem State.modCore_hbm (s : State) (c : Nat) (f : Core → Core) : (s.modCore c f).hbm = s.hbm := rfl
@[simp] theorem State.modCore_early (s : State) (c : Nat) (f : Core → Core) : (s.modCore c f).early = s.early := rfl
@[simp] theorem State.modCore_failedChannels (s : State) (c : Nat) (f : Core → Core) : (s.modCore c f).failedChannels = s.failedChannels := rfl
@[simp] theorem State.modCore_channelCounts (s : State) (c : Nat) (f : Core → Core) : (s.modCore c f).channelCounts = s.channelCounts := rfl
@[simp] theorem State.modCore_channelErrors (s : State) (c : Nat) (f : Core → Core) : (s.modCore c f).channelErrors = s.channelErrors := rfl
@[simp] theorem State.modCore_clusters (s : State) (c : Nat) (f : Core → Core) : (s.modCore c f).clusters = s.clusters := rfl
@[simp] theorem State.modCore_dies (s : State) (c : Nat) (f : Core → Core) : (s.modCore c f).dies = s.dies := rfl
@[simp] theorem State.modCore_conns (s : State) (c : Nat) (f : Core → Core) : (s.modCore c f).conns = s.conns := rfl
@[simp] theorem State.modCore_nextConn (s : State) (c : Nat) (f : Core → Core) : (s.modCore c f).nextConn = s.nextConn := rfl
@[simp] theorem State.modCore_packs (s : State) (c : Nat) (f : Core → Core) : (s.modCore c f).packs = s.packs := rfl
@[simp] theorem State.modCore_launches (s : State) (c : Nat) (f : Core → Core) : (s.modCore c f).launches = s.launches := rfl
@[simp] theorem State.modCore_heads (s : State) (c : Nat) (f : Core → Core) : (s.modCore c f).heads = s.heads := rfl
@[simp] theorem State.modCore_served (s : State) (c : Nat) (f : Core → Core) : (s.modCore c f).served = s.served := rfl
@[simp] theorem State.modCore_nextLid (s : State) (c : Nat) (f : Core → Core) : (s.modCore c f).nextLid = s.nextLid := rfl
@[simp] theorem State.modCore_nextPackId (s : State) (c : Nat) (f : Core → Core) : (s.modCore c f).nextPackId = s.nextPackId := rfl
@[simp] theorem State.modCore_nextOrder (s : State) (c : Nat) (f : Core → Core) : (s.modCore c f).nextOrder = s.nextOrder := rfl
@[simp] theorem State.modCore_nextPlace (s : State) (c : Nat) (f : Core → Core) : (s.modCore c f).nextPlace = s.nextPlace := rfl
@[simp] theorem State.modCore_asked (s : State) (c : Nat) (f : Core → Core) : (s.modCore c f).asked = s.asked := rfl
@[simp] theorem State.modCore_pendingEnd (s : State) (c : Nat) (f : Core → Core) : (s.modCore c f).pendingEnd = s.pendingEnd := rfl
@[simp] theorem State.modCore_copies (s : State) (c : Nat) (f : Core → Core) : (s.modCore c f).copies = s.copies := rfl
@[simp] theorem State.modCore_partitions (s : State) (c : Nat) (f : Core → Core) : (s.modCore c f).partitions = s.partitions := rfl
@[simp] theorem State.modCore_contexts (s : State) (c : Nat) (f : Core → Core) : (s.modCore c f).contexts = s.contexts := rfl
@[simp] theorem State.modCore_laneRetire (s : State) (c : Nat) (f : Core → Core) : (s.modCore c f).laneRetire = s.laneRetire := rfl
@[simp] theorem State.modCore_patch (s : State) (c : Nat) (f : Core → Core) : (s.modCore c f).patch = s.patch := rfl
@[simp] theorem State.modCore_patchId (s : State) (c : Nat) (f : Core → Core) : (s.modCore c f).patchId = s.patchId := rfl
@[simp] theorem State.modCore_built (s : State) (c : Nat) (f : Core → Core) : (s.modCore c f).built = s.built := rfl
@[simp] theorem State.modCore_ranAdtan (s : State) (c : Nat) (f : Core → Core) : (s.modCore c f).ranAdtan = s.ranAdtan := rfl
@[simp] theorem State.modCore_links (s : State) (c : Nat) (f : Core → Core) : (s.modCore c f).links = s.links := rfl
@[simp] theorem State.modCore_sessions (s : State) (c : Nat) (f : Core → Core) : (s.modCore c f).sessions = s.sessions := rfl
@[simp] theorem State.modCore_linkOut (s : State) (c : Nat) (f : Core → Core) : (s.modCore c f).linkOut = s.linkOut := rfl
@[simp] theorem State.modCore_responses (s : State) (c : Nat) (f : Core → Core) : (s.modCore c f).responses = s.responses := rfl
@[simp] theorem State.modCore_hostReads (s : State) (c : Nat) (f : Core → Core) : (s.modCore c f).hostReads = s.hostReads := rfl
@[simp] theorem State.modCore_voided (s : State) (c : Nat) (f : Core → Core) : (s.modCore c f).voided = s.voided := rfl
@[simp] theorem State.modCore_romMeasured (s : State) (c : Nat) (f : Core → Core) : (s.modCore c f).romMeasured = s.romMeasured := rfl
@[simp] theorem State.modCore_partMade (s : State) (c : Nat) (f : Core → Core) : (s.modCore c f).partMade = s.partMade := rfl
@[simp] theorem State.modCore_ready (s : State) (c : Nat) (f : Core → Core) : (s.modCore c f).ready = s.ready := rfl

/-! ### modCluster -/

@[simp] theorem State.modCluster_turn (s : State) (c : Nat) (f : Cluster → Cluster) : (s.modCluster c f).turn = s.turn := rfl
@[simp] theorem State.modCluster_sched (s : State) (c : Nat) (f : Cluster → Cluster) : (s.modCluster c f).sched = s.sched := rfl
@[simp] theorem State.modCluster_nonce (s : State) (c : Nat) (f : Cluster → Cluster) : (s.modCluster c f).nonce = s.nonce := rfl
@[simp] theorem State.modCluster_issuer (s : State) (c : Nat) (f : Cluster → Cluster) : (s.modCluster c f).issuer = s.issuer := rfl
@[simp] theorem State.modCluster_fetch (s : State) (c : Nat) (f : Cluster → Cluster) : (s.modCluster c f).fetch = s.fetch := rfl
@[simp] theorem State.modCluster_cycle (s : State) (c : Nat) (f : Cluster → Cluster) : (s.modCluster c f).cycle = s.cycle := rfl
@[simp] theorem State.modCluster_mem (s : State) (c : Nat) (f : Cluster → Cluster) : (s.modCluster c f).mem = s.mem := rfl
@[simp] theorem State.modCluster_poison (s : State) (c : Nat) (f : Cluster → Cluster) : (s.modCluster c f).poison = s.poison := rfl
@[simp] theorem State.modCluster_granules (s : State) (c : Nat) (f : Cluster → Cluster) : (s.modCluster c f).granules = s.granules := rfl
@[simp] theorem State.modCluster_lines (s : State) (c : Nat) (f : Cluster → Cluster) : (s.modCluster c f).lines = s.lines := rfl
@[simp] theorem State.modCluster_cc (s : State) (c : Nat) (f : Cluster → Cluster) : (s.modCluster c f).cc = s.cc := rfl
@[simp] theorem State.modCluster_snapshots (s : State) (c : Nat) (f : Cluster → Cluster) : (s.modCluster c f).snapshots = s.snapshots := rfl
@[simp] theorem State.modCluster_storeShare (s : State) (c : Nat) (f : Cluster → Cluster) : (s.modCluster c f).storeShare = s.storeShare := rfl
@[simp] theorem State.modCluster_counted (s : State) (c : Nat) (f : Cluster → Cluster) : (s.modCluster c f).counted = s.counted := rfl
@[simp] theorem State.modCluster_hbm (s : State) (c : Nat) (f : Cluster → Cluster) : (s.modCluster c f).hbm = s.hbm := rfl
@[simp] theorem State.modCluster_early (s : State) (c : Nat) (f : Cluster → Cluster) : (s.modCluster c f).early = s.early := rfl
@[simp] theorem State.modCluster_failedChannels (s : State) (c : Nat) (f : Cluster → Cluster) : (s.modCluster c f).failedChannels = s.failedChannels := rfl
@[simp] theorem State.modCluster_channelCounts (s : State) (c : Nat) (f : Cluster → Cluster) : (s.modCluster c f).channelCounts = s.channelCounts := rfl
@[simp] theorem State.modCluster_channelErrors (s : State) (c : Nat) (f : Cluster → Cluster) : (s.modCluster c f).channelErrors = s.channelErrors := rfl
@[simp] theorem State.modCluster_cores (s : State) (c : Nat) (f : Cluster → Cluster) : (s.modCluster c f).cores = s.cores := rfl
@[simp] theorem State.modCluster_dies (s : State) (c : Nat) (f : Cluster → Cluster) : (s.modCluster c f).dies = s.dies := rfl
@[simp] theorem State.modCluster_conns (s : State) (c : Nat) (f : Cluster → Cluster) : (s.modCluster c f).conns = s.conns := rfl
@[simp] theorem State.modCluster_nextConn (s : State) (c : Nat) (f : Cluster → Cluster) : (s.modCluster c f).nextConn = s.nextConn := rfl
@[simp] theorem State.modCluster_packs (s : State) (c : Nat) (f : Cluster → Cluster) : (s.modCluster c f).packs = s.packs := rfl
@[simp] theorem State.modCluster_launches (s : State) (c : Nat) (f : Cluster → Cluster) : (s.modCluster c f).launches = s.launches := rfl
@[simp] theorem State.modCluster_heads (s : State) (c : Nat) (f : Cluster → Cluster) : (s.modCluster c f).heads = s.heads := rfl
@[simp] theorem State.modCluster_served (s : State) (c : Nat) (f : Cluster → Cluster) : (s.modCluster c f).served = s.served := rfl
@[simp] theorem State.modCluster_nextLid (s : State) (c : Nat) (f : Cluster → Cluster) : (s.modCluster c f).nextLid = s.nextLid := rfl
@[simp] theorem State.modCluster_nextPackId (s : State) (c : Nat) (f : Cluster → Cluster) : (s.modCluster c f).nextPackId = s.nextPackId := rfl
@[simp] theorem State.modCluster_nextOrder (s : State) (c : Nat) (f : Cluster → Cluster) : (s.modCluster c f).nextOrder = s.nextOrder := rfl
@[simp] theorem State.modCluster_nextPlace (s : State) (c : Nat) (f : Cluster → Cluster) : (s.modCluster c f).nextPlace = s.nextPlace := rfl
@[simp] theorem State.modCluster_asked (s : State) (c : Nat) (f : Cluster → Cluster) : (s.modCluster c f).asked = s.asked := rfl
@[simp] theorem State.modCluster_pendingEnd (s : State) (c : Nat) (f : Cluster → Cluster) : (s.modCluster c f).pendingEnd = s.pendingEnd := rfl
@[simp] theorem State.modCluster_copies (s : State) (c : Nat) (f : Cluster → Cluster) : (s.modCluster c f).copies = s.copies := rfl
@[simp] theorem State.modCluster_partitions (s : State) (c : Nat) (f : Cluster → Cluster) : (s.modCluster c f).partitions = s.partitions := rfl
@[simp] theorem State.modCluster_contexts (s : State) (c : Nat) (f : Cluster → Cluster) : (s.modCluster c f).contexts = s.contexts := rfl
@[simp] theorem State.modCluster_laneRetire (s : State) (c : Nat) (f : Cluster → Cluster) : (s.modCluster c f).laneRetire = s.laneRetire := rfl
@[simp] theorem State.modCluster_patch (s : State) (c : Nat) (f : Cluster → Cluster) : (s.modCluster c f).patch = s.patch := rfl
@[simp] theorem State.modCluster_patchId (s : State) (c : Nat) (f : Cluster → Cluster) : (s.modCluster c f).patchId = s.patchId := rfl
@[simp] theorem State.modCluster_built (s : State) (c : Nat) (f : Cluster → Cluster) : (s.modCluster c f).built = s.built := rfl
@[simp] theorem State.modCluster_ranAdtan (s : State) (c : Nat) (f : Cluster → Cluster) : (s.modCluster c f).ranAdtan = s.ranAdtan := rfl
@[simp] theorem State.modCluster_links (s : State) (c : Nat) (f : Cluster → Cluster) : (s.modCluster c f).links = s.links := rfl
@[simp] theorem State.modCluster_sessions (s : State) (c : Nat) (f : Cluster → Cluster) : (s.modCluster c f).sessions = s.sessions := rfl
@[simp] theorem State.modCluster_linkOut (s : State) (c : Nat) (f : Cluster → Cluster) : (s.modCluster c f).linkOut = s.linkOut := rfl
@[simp] theorem State.modCluster_responses (s : State) (c : Nat) (f : Cluster → Cluster) : (s.modCluster c f).responses = s.responses := rfl
@[simp] theorem State.modCluster_hostReads (s : State) (c : Nat) (f : Cluster → Cluster) : (s.modCluster c f).hostReads = s.hostReads := rfl
@[simp] theorem State.modCluster_voided (s : State) (c : Nat) (f : Cluster → Cluster) : (s.modCluster c f).voided = s.voided := rfl
@[simp] theorem State.modCluster_romMeasured (s : State) (c : Nat) (f : Cluster → Cluster) : (s.modCluster c f).romMeasured = s.romMeasured := rfl
@[simp] theorem State.modCluster_partMade (s : State) (c : Nat) (f : Cluster → Cluster) : (s.modCluster c f).partMade = s.partMade := rfl
@[simp] theorem State.modCluster_ready (s : State) (c : Nat) (f : Cluster → Cluster) : (s.modCluster c f).ready = s.ready := rfl

/-! ### modDie -/

@[simp] theorem State.modDie_turn (s : State) (d : Nat) (f : Die → Die) : (s.modDie d f).turn = s.turn := rfl
@[simp] theorem State.modDie_sched (s : State) (d : Nat) (f : Die → Die) : (s.modDie d f).sched = s.sched := rfl
@[simp] theorem State.modDie_nonce (s : State) (d : Nat) (f : Die → Die) : (s.modDie d f).nonce = s.nonce := rfl
@[simp] theorem State.modDie_issuer (s : State) (d : Nat) (f : Die → Die) : (s.modDie d f).issuer = s.issuer := rfl
@[simp] theorem State.modDie_fetch (s : State) (d : Nat) (f : Die → Die) : (s.modDie d f).fetch = s.fetch := rfl
@[simp] theorem State.modDie_cycle (s : State) (d : Nat) (f : Die → Die) : (s.modDie d f).cycle = s.cycle := rfl
@[simp] theorem State.modDie_mem (s : State) (d : Nat) (f : Die → Die) : (s.modDie d f).mem = s.mem := rfl
@[simp] theorem State.modDie_poison (s : State) (d : Nat) (f : Die → Die) : (s.modDie d f).poison = s.poison := rfl
@[simp] theorem State.modDie_granules (s : State) (d : Nat) (f : Die → Die) : (s.modDie d f).granules = s.granules := rfl
@[simp] theorem State.modDie_lines (s : State) (d : Nat) (f : Die → Die) : (s.modDie d f).lines = s.lines := rfl
@[simp] theorem State.modDie_cc (s : State) (d : Nat) (f : Die → Die) : (s.modDie d f).cc = s.cc := rfl
@[simp] theorem State.modDie_snapshots (s : State) (d : Nat) (f : Die → Die) : (s.modDie d f).snapshots = s.snapshots := rfl
@[simp] theorem State.modDie_storeShare (s : State) (d : Nat) (f : Die → Die) : (s.modDie d f).storeShare = s.storeShare := rfl
@[simp] theorem State.modDie_counted (s : State) (d : Nat) (f : Die → Die) : (s.modDie d f).counted = s.counted := rfl
@[simp] theorem State.modDie_hbm (s : State) (d : Nat) (f : Die → Die) : (s.modDie d f).hbm = s.hbm := rfl
@[simp] theorem State.modDie_early (s : State) (d : Nat) (f : Die → Die) : (s.modDie d f).early = s.early := rfl
@[simp] theorem State.modDie_failedChannels (s : State) (d : Nat) (f : Die → Die) : (s.modDie d f).failedChannels = s.failedChannels := rfl
@[simp] theorem State.modDie_channelCounts (s : State) (d : Nat) (f : Die → Die) : (s.modDie d f).channelCounts = s.channelCounts := rfl
@[simp] theorem State.modDie_channelErrors (s : State) (d : Nat) (f : Die → Die) : (s.modDie d f).channelErrors = s.channelErrors := rfl
@[simp] theorem State.modDie_cores (s : State) (d : Nat) (f : Die → Die) : (s.modDie d f).cores = s.cores := rfl
@[simp] theorem State.modDie_clusters (s : State) (d : Nat) (f : Die → Die) : (s.modDie d f).clusters = s.clusters := rfl
@[simp] theorem State.modDie_packs (s : State) (d : Nat) (f : Die → Die) : (s.modDie d f).packs = s.packs := rfl
@[simp] theorem State.modDie_launches (s : State) (d : Nat) (f : Die → Die) : (s.modDie d f).launches = s.launches := rfl
@[simp] theorem State.modDie_heads (s : State) (d : Nat) (f : Die → Die) : (s.modDie d f).heads = s.heads := rfl
@[simp] theorem State.modDie_served (s : State) (d : Nat) (f : Die → Die) : (s.modDie d f).served = s.served := rfl
@[simp] theorem State.modDie_nextLid (s : State) (d : Nat) (f : Die → Die) : (s.modDie d f).nextLid = s.nextLid := rfl
@[simp] theorem State.modDie_nextPackId (s : State) (d : Nat) (f : Die → Die) : (s.modDie d f).nextPackId = s.nextPackId := rfl
@[simp] theorem State.modDie_nextOrder (s : State) (d : Nat) (f : Die → Die) : (s.modDie d f).nextOrder = s.nextOrder := rfl
@[simp] theorem State.modDie_nextPlace (s : State) (d : Nat) (f : Die → Die) : (s.modDie d f).nextPlace = s.nextPlace := rfl
@[simp] theorem State.modDie_asked (s : State) (d : Nat) (f : Die → Die) : (s.modDie d f).asked = s.asked := rfl
@[simp] theorem State.modDie_pendingEnd (s : State) (d : Nat) (f : Die → Die) : (s.modDie d f).pendingEnd = s.pendingEnd := rfl
@[simp] theorem State.modDie_copies (s : State) (d : Nat) (f : Die → Die) : (s.modDie d f).copies = s.copies := rfl
@[simp] theorem State.modDie_partitions (s : State) (d : Nat) (f : Die → Die) : (s.modDie d f).partitions = s.partitions := rfl
@[simp] theorem State.modDie_contexts (s : State) (d : Nat) (f : Die → Die) : (s.modDie d f).contexts = s.contexts := rfl
@[simp] theorem State.modDie_laneRetire (s : State) (d : Nat) (f : Die → Die) : (s.modDie d f).laneRetire = s.laneRetire := rfl
@[simp] theorem State.modDie_patch (s : State) (d : Nat) (f : Die → Die) : (s.modDie d f).patch = s.patch := rfl
@[simp] theorem State.modDie_patchId (s : State) (d : Nat) (f : Die → Die) : (s.modDie d f).patchId = s.patchId := rfl
@[simp] theorem State.modDie_built (s : State) (d : Nat) (f : Die → Die) : (s.modDie d f).built = s.built := rfl
@[simp] theorem State.modDie_ranAdtan (s : State) (d : Nat) (f : Die → Die) : (s.modDie d f).ranAdtan = s.ranAdtan := rfl
@[simp] theorem State.modDie_links (s : State) (d : Nat) (f : Die → Die) : (s.modDie d f).links = s.links := rfl
@[simp] theorem State.modDie_sessions (s : State) (d : Nat) (f : Die → Die) : (s.modDie d f).sessions = s.sessions := rfl
@[simp] theorem State.modDie_linkOut (s : State) (d : Nat) (f : Die → Die) : (s.modDie d f).linkOut = s.linkOut := rfl
@[simp] theorem State.modDie_responses (s : State) (d : Nat) (f : Die → Die) : (s.modDie d f).responses = s.responses := rfl
@[simp] theorem State.modDie_hostReads (s : State) (d : Nat) (f : Die → Die) : (s.modDie d f).hostReads = s.hostReads := rfl
@[simp] theorem State.modDie_voided (s : State) (d : Nat) (f : Die → Die) : (s.modDie d f).voided = s.voided := rfl
@[simp] theorem State.modDie_romMeasured (s : State) (d : Nat) (f : Die → Die) : (s.modDie d f).romMeasured = s.romMeasured := rfl
@[simp] theorem State.modDie_partMade (s : State) (d : Nat) (f : Die → Die) : (s.modDie d f).partMade = s.partMade := rfl
@[simp] theorem State.modDie_ready (s : State) (d : Nat) (f : Die → Die) : (s.modDie d f).ready = s.ready := rfl

/-! ### modLaunch -/

@[simp] theorem State.modLaunch_turn (s : State) (l : Nat) (f : Launch → Launch) : (s.modLaunch l f).turn = s.turn := rfl
@[simp] theorem State.modLaunch_sched (s : State) (l : Nat) (f : Launch → Launch) : (s.modLaunch l f).sched = s.sched := rfl
@[simp] theorem State.modLaunch_nonce (s : State) (l : Nat) (f : Launch → Launch) : (s.modLaunch l f).nonce = s.nonce := rfl
@[simp] theorem State.modLaunch_issuer (s : State) (l : Nat) (f : Launch → Launch) : (s.modLaunch l f).issuer = s.issuer := rfl
@[simp] theorem State.modLaunch_fetch (s : State) (l : Nat) (f : Launch → Launch) : (s.modLaunch l f).fetch = s.fetch := rfl
@[simp] theorem State.modLaunch_cycle (s : State) (l : Nat) (f : Launch → Launch) : (s.modLaunch l f).cycle = s.cycle := rfl
@[simp] theorem State.modLaunch_mem (s : State) (l : Nat) (f : Launch → Launch) : (s.modLaunch l f).mem = s.mem := rfl
@[simp] theorem State.modLaunch_poison (s : State) (l : Nat) (f : Launch → Launch) : (s.modLaunch l f).poison = s.poison := rfl
@[simp] theorem State.modLaunch_granules (s : State) (l : Nat) (f : Launch → Launch) : (s.modLaunch l f).granules = s.granules := rfl
@[simp] theorem State.modLaunch_lines (s : State) (l : Nat) (f : Launch → Launch) : (s.modLaunch l f).lines = s.lines := rfl
@[simp] theorem State.modLaunch_cc (s : State) (l : Nat) (f : Launch → Launch) : (s.modLaunch l f).cc = s.cc := rfl
@[simp] theorem State.modLaunch_snapshots (s : State) (l : Nat) (f : Launch → Launch) : (s.modLaunch l f).snapshots = s.snapshots := rfl
@[simp] theorem State.modLaunch_storeShare (s : State) (l : Nat) (f : Launch → Launch) : (s.modLaunch l f).storeShare = s.storeShare := rfl
@[simp] theorem State.modLaunch_counted (s : State) (l : Nat) (f : Launch → Launch) : (s.modLaunch l f).counted = s.counted := rfl
@[simp] theorem State.modLaunch_hbm (s : State) (l : Nat) (f : Launch → Launch) : (s.modLaunch l f).hbm = s.hbm := rfl
@[simp] theorem State.modLaunch_early (s : State) (l : Nat) (f : Launch → Launch) : (s.modLaunch l f).early = s.early := rfl
@[simp] theorem State.modLaunch_failedChannels (s : State) (l : Nat) (f : Launch → Launch) : (s.modLaunch l f).failedChannels = s.failedChannels := rfl
@[simp] theorem State.modLaunch_channelCounts (s : State) (l : Nat) (f : Launch → Launch) : (s.modLaunch l f).channelCounts = s.channelCounts := rfl
@[simp] theorem State.modLaunch_channelErrors (s : State) (l : Nat) (f : Launch → Launch) : (s.modLaunch l f).channelErrors = s.channelErrors := rfl
@[simp] theorem State.modLaunch_cores (s : State) (l : Nat) (f : Launch → Launch) : (s.modLaunch l f).cores = s.cores := rfl
@[simp] theorem State.modLaunch_clusters (s : State) (l : Nat) (f : Launch → Launch) : (s.modLaunch l f).clusters = s.clusters := rfl
@[simp] theorem State.modLaunch_dies (s : State) (l : Nat) (f : Launch → Launch) : (s.modLaunch l f).dies = s.dies := rfl
@[simp] theorem State.modLaunch_conns (s : State) (l : Nat) (f : Launch → Launch) : (s.modLaunch l f).conns = s.conns := rfl
@[simp] theorem State.modLaunch_nextConn (s : State) (l : Nat) (f : Launch → Launch) : (s.modLaunch l f).nextConn = s.nextConn := rfl
@[simp] theorem State.modLaunch_packs (s : State) (l : Nat) (f : Launch → Launch) : (s.modLaunch l f).packs = s.packs := rfl
@[simp] theorem State.modLaunch_heads (s : State) (l : Nat) (f : Launch → Launch) : (s.modLaunch l f).heads = s.heads := rfl
@[simp] theorem State.modLaunch_served (s : State) (l : Nat) (f : Launch → Launch) : (s.modLaunch l f).served = s.served := rfl
@[simp] theorem State.modLaunch_nextLid (s : State) (l : Nat) (f : Launch → Launch) : (s.modLaunch l f).nextLid = s.nextLid := rfl
@[simp] theorem State.modLaunch_nextPackId (s : State) (l : Nat) (f : Launch → Launch) : (s.modLaunch l f).nextPackId = s.nextPackId := rfl
@[simp] theorem State.modLaunch_nextOrder (s : State) (l : Nat) (f : Launch → Launch) : (s.modLaunch l f).nextOrder = s.nextOrder := rfl
@[simp] theorem State.modLaunch_nextPlace (s : State) (l : Nat) (f : Launch → Launch) : (s.modLaunch l f).nextPlace = s.nextPlace := rfl
@[simp] theorem State.modLaunch_asked (s : State) (l : Nat) (f : Launch → Launch) : (s.modLaunch l f).asked = s.asked := rfl
@[simp] theorem State.modLaunch_pendingEnd (s : State) (l : Nat) (f : Launch → Launch) : (s.modLaunch l f).pendingEnd = s.pendingEnd := rfl
@[simp] theorem State.modLaunch_copies (s : State) (l : Nat) (f : Launch → Launch) : (s.modLaunch l f).copies = s.copies := rfl
@[simp] theorem State.modLaunch_partitions (s : State) (l : Nat) (f : Launch → Launch) : (s.modLaunch l f).partitions = s.partitions := rfl
@[simp] theorem State.modLaunch_contexts (s : State) (l : Nat) (f : Launch → Launch) : (s.modLaunch l f).contexts = s.contexts := rfl
@[simp] theorem State.modLaunch_laneRetire (s : State) (l : Nat) (f : Launch → Launch) : (s.modLaunch l f).laneRetire = s.laneRetire := rfl
@[simp] theorem State.modLaunch_patch (s : State) (l : Nat) (f : Launch → Launch) : (s.modLaunch l f).patch = s.patch := rfl
@[simp] theorem State.modLaunch_patchId (s : State) (l : Nat) (f : Launch → Launch) : (s.modLaunch l f).patchId = s.patchId := rfl
@[simp] theorem State.modLaunch_built (s : State) (l : Nat) (f : Launch → Launch) : (s.modLaunch l f).built = s.built := rfl
@[simp] theorem State.modLaunch_ranAdtan (s : State) (l : Nat) (f : Launch → Launch) : (s.modLaunch l f).ranAdtan = s.ranAdtan := rfl
@[simp] theorem State.modLaunch_links (s : State) (l : Nat) (f : Launch → Launch) : (s.modLaunch l f).links = s.links := rfl
@[simp] theorem State.modLaunch_sessions (s : State) (l : Nat) (f : Launch → Launch) : (s.modLaunch l f).sessions = s.sessions := rfl
@[simp] theorem State.modLaunch_linkOut (s : State) (l : Nat) (f : Launch → Launch) : (s.modLaunch l f).linkOut = s.linkOut := rfl
@[simp] theorem State.modLaunch_responses (s : State) (l : Nat) (f : Launch → Launch) : (s.modLaunch l f).responses = s.responses := rfl
@[simp] theorem State.modLaunch_hostReads (s : State) (l : Nat) (f : Launch → Launch) : (s.modLaunch l f).hostReads = s.hostReads := rfl
@[simp] theorem State.modLaunch_voided (s : State) (l : Nat) (f : Launch → Launch) : (s.modLaunch l f).voided = s.voided := rfl
@[simp] theorem State.modLaunch_romMeasured (s : State) (l : Nat) (f : Launch → Launch) : (s.modLaunch l f).romMeasured = s.romMeasured := rfl
@[simp] theorem State.modLaunch_partMade (s : State) (l : Nat) (f : Launch → Launch) : (s.modLaunch l f).partMade = s.partMade := rfl
@[simp] theorem State.modLaunch_ready (s : State) (l : Nat) (f : Launch → Launch) : (s.modLaunch l f).ready = s.ready := rfl

/-! ### modPart -/

@[simp] theorem State.modPart_turn (s : State) (p : Nat) (f : Partition → Partition) : (s.modPart p f).turn = s.turn := rfl
@[simp] theorem State.modPart_sched (s : State) (p : Nat) (f : Partition → Partition) : (s.modPart p f).sched = s.sched := rfl
@[simp] theorem State.modPart_nonce (s : State) (p : Nat) (f : Partition → Partition) : (s.modPart p f).nonce = s.nonce := rfl
@[simp] theorem State.modPart_issuer (s : State) (p : Nat) (f : Partition → Partition) : (s.modPart p f).issuer = s.issuer := rfl
@[simp] theorem State.modPart_fetch (s : State) (p : Nat) (f : Partition → Partition) : (s.modPart p f).fetch = s.fetch := rfl
@[simp] theorem State.modPart_cycle (s : State) (p : Nat) (f : Partition → Partition) : (s.modPart p f).cycle = s.cycle := rfl
@[simp] theorem State.modPart_mem (s : State) (p : Nat) (f : Partition → Partition) : (s.modPart p f).mem = s.mem := rfl
@[simp] theorem State.modPart_poison (s : State) (p : Nat) (f : Partition → Partition) : (s.modPart p f).poison = s.poison := rfl
@[simp] theorem State.modPart_granules (s : State) (p : Nat) (f : Partition → Partition) : (s.modPart p f).granules = s.granules := rfl
@[simp] theorem State.modPart_lines (s : State) (p : Nat) (f : Partition → Partition) : (s.modPart p f).lines = s.lines := rfl
@[simp] theorem State.modPart_cc (s : State) (p : Nat) (f : Partition → Partition) : (s.modPart p f).cc = s.cc := rfl
@[simp] theorem State.modPart_snapshots (s : State) (p : Nat) (f : Partition → Partition) : (s.modPart p f).snapshots = s.snapshots := rfl
@[simp] theorem State.modPart_storeShare (s : State) (p : Nat) (f : Partition → Partition) : (s.modPart p f).storeShare = s.storeShare := rfl
@[simp] theorem State.modPart_counted (s : State) (p : Nat) (f : Partition → Partition) : (s.modPart p f).counted = s.counted := rfl
@[simp] theorem State.modPart_hbm (s : State) (p : Nat) (f : Partition → Partition) : (s.modPart p f).hbm = s.hbm := rfl
@[simp] theorem State.modPart_early (s : State) (p : Nat) (f : Partition → Partition) : (s.modPart p f).early = s.early := rfl
@[simp] theorem State.modPart_failedChannels (s : State) (p : Nat) (f : Partition → Partition) : (s.modPart p f).failedChannels = s.failedChannels := rfl
@[simp] theorem State.modPart_channelCounts (s : State) (p : Nat) (f : Partition → Partition) : (s.modPart p f).channelCounts = s.channelCounts := rfl
@[simp] theorem State.modPart_channelErrors (s : State) (p : Nat) (f : Partition → Partition) : (s.modPart p f).channelErrors = s.channelErrors := rfl
@[simp] theorem State.modPart_cores (s : State) (p : Nat) (f : Partition → Partition) : (s.modPart p f).cores = s.cores := rfl
@[simp] theorem State.modPart_clusters (s : State) (p : Nat) (f : Partition → Partition) : (s.modPart p f).clusters = s.clusters := rfl
@[simp] theorem State.modPart_dies (s : State) (p : Nat) (f : Partition → Partition) : (s.modPart p f).dies = s.dies := rfl
@[simp] theorem State.modPart_conns (s : State) (p : Nat) (f : Partition → Partition) : (s.modPart p f).conns = s.conns := rfl
@[simp] theorem State.modPart_nextConn (s : State) (p : Nat) (f : Partition → Partition) : (s.modPart p f).nextConn = s.nextConn := rfl
@[simp] theorem State.modPart_packs (s : State) (p : Nat) (f : Partition → Partition) : (s.modPart p f).packs = s.packs := rfl
@[simp] theorem State.modPart_launches (s : State) (p : Nat) (f : Partition → Partition) : (s.modPart p f).launches = s.launches := rfl
@[simp] theorem State.modPart_heads (s : State) (p : Nat) (f : Partition → Partition) : (s.modPart p f).heads = s.heads := rfl
@[simp] theorem State.modPart_served (s : State) (p : Nat) (f : Partition → Partition) : (s.modPart p f).served = s.served := rfl
@[simp] theorem State.modPart_nextLid (s : State) (p : Nat) (f : Partition → Partition) : (s.modPart p f).nextLid = s.nextLid := rfl
@[simp] theorem State.modPart_nextPackId (s : State) (p : Nat) (f : Partition → Partition) : (s.modPart p f).nextPackId = s.nextPackId := rfl
@[simp] theorem State.modPart_nextOrder (s : State) (p : Nat) (f : Partition → Partition) : (s.modPart p f).nextOrder = s.nextOrder := rfl
@[simp] theorem State.modPart_nextPlace (s : State) (p : Nat) (f : Partition → Partition) : (s.modPart p f).nextPlace = s.nextPlace := rfl
@[simp] theorem State.modPart_asked (s : State) (p : Nat) (f : Partition → Partition) : (s.modPart p f).asked = s.asked := rfl
@[simp] theorem State.modPart_pendingEnd (s : State) (p : Nat) (f : Partition → Partition) : (s.modPart p f).pendingEnd = s.pendingEnd := rfl
@[simp] theorem State.modPart_copies (s : State) (p : Nat) (f : Partition → Partition) : (s.modPart p f).copies = s.copies := rfl
@[simp] theorem State.modPart_contexts (s : State) (p : Nat) (f : Partition → Partition) : (s.modPart p f).contexts = s.contexts := rfl
@[simp] theorem State.modPart_laneRetire (s : State) (p : Nat) (f : Partition → Partition) : (s.modPart p f).laneRetire = s.laneRetire := rfl
@[simp] theorem State.modPart_patch (s : State) (p : Nat) (f : Partition → Partition) : (s.modPart p f).patch = s.patch := rfl
@[simp] theorem State.modPart_patchId (s : State) (p : Nat) (f : Partition → Partition) : (s.modPart p f).patchId = s.patchId := rfl
@[simp] theorem State.modPart_built (s : State) (p : Nat) (f : Partition → Partition) : (s.modPart p f).built = s.built := rfl
@[simp] theorem State.modPart_ranAdtan (s : State) (p : Nat) (f : Partition → Partition) : (s.modPart p f).ranAdtan = s.ranAdtan := rfl
@[simp] theorem State.modPart_links (s : State) (p : Nat) (f : Partition → Partition) : (s.modPart p f).links = s.links := rfl
@[simp] theorem State.modPart_sessions (s : State) (p : Nat) (f : Partition → Partition) : (s.modPart p f).sessions = s.sessions := rfl
@[simp] theorem State.modPart_linkOut (s : State) (p : Nat) (f : Partition → Partition) : (s.modPart p f).linkOut = s.linkOut := rfl
@[simp] theorem State.modPart_responses (s : State) (p : Nat) (f : Partition → Partition) : (s.modPart p f).responses = s.responses := rfl
@[simp] theorem State.modPart_hostReads (s : State) (p : Nat) (f : Partition → Partition) : (s.modPart p f).hostReads = s.hostReads := rfl
@[simp] theorem State.modPart_voided (s : State) (p : Nat) (f : Partition → Partition) : (s.modPart p f).voided = s.voided := rfl
@[simp] theorem State.modPart_romMeasured (s : State) (p : Nat) (f : Partition → Partition) : (s.modPart p f).romMeasured = s.romMeasured := rfl
@[simp] theorem State.modPart_partMade (s : State) (p : Nat) (f : Partition → Partition) : (s.modPart p f).partMade = s.partMade := rfl
@[simp] theorem State.modPart_ready (s : State) (p : Nat) (f : Partition → Partition) : (s.modPart p f).ready = s.ready := rfl

/-! ### modThread -/

@[simp] theorem State.modThread_turn (s : State) (a : Agent) (f : Thread → Thread) : (s.modThread a f).turn = s.turn := by cases a <;> rfl
@[simp] theorem State.modThread_sched (s : State) (a : Agent) (f : Thread → Thread) : (s.modThread a f).sched = s.sched := by cases a <;> rfl
@[simp] theorem State.modThread_nonce (s : State) (a : Agent) (f : Thread → Thread) : (s.modThread a f).nonce = s.nonce := by cases a <;> rfl
@[simp] theorem State.modThread_issuer (s : State) (a : Agent) (f : Thread → Thread) : (s.modThread a f).issuer = s.issuer := by cases a <;> rfl
@[simp] theorem State.modThread_fetch (s : State) (a : Agent) (f : Thread → Thread) : (s.modThread a f).fetch = s.fetch := by cases a <;> rfl
@[simp] theorem State.modThread_cycle (s : State) (a : Agent) (f : Thread → Thread) : (s.modThread a f).cycle = s.cycle := by cases a <;> rfl
@[simp] theorem State.modThread_mem (s : State) (a : Agent) (f : Thread → Thread) : (s.modThread a f).mem = s.mem := by cases a <;> rfl
@[simp] theorem State.modThread_poison (s : State) (a : Agent) (f : Thread → Thread) : (s.modThread a f).poison = s.poison := by cases a <;> rfl
@[simp] theorem State.modThread_granules (s : State) (a : Agent) (f : Thread → Thread) : (s.modThread a f).granules = s.granules := by cases a <;> rfl
@[simp] theorem State.modThread_lines (s : State) (a : Agent) (f : Thread → Thread) : (s.modThread a f).lines = s.lines := by cases a <;> rfl
@[simp] theorem State.modThread_cc (s : State) (a : Agent) (f : Thread → Thread) : (s.modThread a f).cc = s.cc := by cases a <;> rfl
@[simp] theorem State.modThread_snapshots (s : State) (a : Agent) (f : Thread → Thread) : (s.modThread a f).snapshots = s.snapshots := by cases a <;> rfl
@[simp] theorem State.modThread_storeShare (s : State) (a : Agent) (f : Thread → Thread) : (s.modThread a f).storeShare = s.storeShare := by cases a <;> rfl
@[simp] theorem State.modThread_counted (s : State) (a : Agent) (f : Thread → Thread) : (s.modThread a f).counted = s.counted := by cases a <;> rfl
@[simp] theorem State.modThread_failedChannels (s : State) (a : Agent) (f : Thread → Thread) : (s.modThread a f).failedChannels = s.failedChannels := by cases a <;> rfl
@[simp] theorem State.modThread_channelCounts (s : State) (a : Agent) (f : Thread → Thread) : (s.modThread a f).channelCounts = s.channelCounts := by cases a <;> rfl
@[simp] theorem State.modThread_channelErrors (s : State) (a : Agent) (f : Thread → Thread) : (s.modThread a f).channelErrors = s.channelErrors := by cases a <;> rfl
@[simp] theorem State.modThread_cores (s : State) (a : Agent) (f : Thread → Thread) : (s.modThread a f).cores = s.cores := by cases a <;> rfl
@[simp] theorem State.modThread_clusters (s : State) (a : Agent) (f : Thread → Thread) : (s.modThread a f).clusters = s.clusters := by cases a <;> rfl
@[simp] theorem State.modThread_dies (s : State) (a : Agent) (f : Thread → Thread) : (s.modThread a f).dies = s.dies := by cases a <;> rfl
@[simp] theorem State.modThread_launches (s : State) (a : Agent) (f : Thread → Thread) : (s.modThread a f).launches = s.launches := by cases a <;> rfl
@[simp] theorem State.modThread_heads (s : State) (a : Agent) (f : Thread → Thread) : (s.modThread a f).heads = s.heads := by cases a <;> rfl
@[simp] theorem State.modThread_served (s : State) (a : Agent) (f : Thread → Thread) : (s.modThread a f).served = s.served := by cases a <;> rfl
@[simp] theorem State.modThread_nextLid (s : State) (a : Agent) (f : Thread → Thread) : (s.modThread a f).nextLid = s.nextLid := by cases a <;> rfl
@[simp] theorem State.modThread_nextPackId (s : State) (a : Agent) (f : Thread → Thread) : (s.modThread a f).nextPackId = s.nextPackId := by cases a <;> rfl
@[simp] theorem State.modThread_nextOrder (s : State) (a : Agent) (f : Thread → Thread) : (s.modThread a f).nextOrder = s.nextOrder := by cases a <;> rfl
@[simp] theorem State.modThread_nextPlace (s : State) (a : Agent) (f : Thread → Thread) : (s.modThread a f).nextPlace = s.nextPlace := by cases a <;> rfl
@[simp] theorem State.modThread_asked (s : State) (a : Agent) (f : Thread → Thread) : (s.modThread a f).asked = s.asked := by cases a <;> rfl
@[simp] theorem State.modThread_pendingEnd (s : State) (a : Agent) (f : Thread → Thread) : (s.modThread a f).pendingEnd = s.pendingEnd := by cases a <;> rfl
@[simp] theorem State.modThread_copies (s : State) (a : Agent) (f : Thread → Thread) : (s.modThread a f).copies = s.copies := by cases a <;> rfl
@[simp] theorem State.modThread_partitions (s : State) (a : Agent) (f : Thread → Thread) : (s.modThread a f).partitions = s.partitions := by cases a <;> rfl
@[simp] theorem State.modThread_contexts (s : State) (a : Agent) (f : Thread → Thread) : (s.modThread a f).contexts = s.contexts := by cases a <;> rfl
@[simp] theorem State.modThread_laneRetire (s : State) (a : Agent) (f : Thread → Thread) : (s.modThread a f).laneRetire = s.laneRetire := by cases a <;> rfl
@[simp] theorem State.modThread_patch (s : State) (a : Agent) (f : Thread → Thread) : (s.modThread a f).patch = s.patch := by cases a <;> rfl
@[simp] theorem State.modThread_patchId (s : State) (a : Agent) (f : Thread → Thread) : (s.modThread a f).patchId = s.patchId := by cases a <;> rfl
@[simp] theorem State.modThread_built (s : State) (a : Agent) (f : Thread → Thread) : (s.modThread a f).built = s.built := by cases a <;> rfl
@[simp] theorem State.modThread_links (s : State) (a : Agent) (f : Thread → Thread) : (s.modThread a f).links = s.links := by cases a <;> rfl
@[simp] theorem State.modThread_sessions (s : State) (a : Agent) (f : Thread → Thread) : (s.modThread a f).sessions = s.sessions := by cases a <;> rfl
@[simp] theorem State.modThread_linkOut (s : State) (a : Agent) (f : Thread → Thread) : (s.modThread a f).linkOut = s.linkOut := by cases a <;> rfl
@[simp] theorem State.modThread_responses (s : State) (a : Agent) (f : Thread → Thread) : (s.modThread a f).responses = s.responses := by cases a <;> rfl
@[simp] theorem State.modThread_hostReads (s : State) (a : Agent) (f : Thread → Thread) : (s.modThread a f).hostReads = s.hostReads := by cases a <;> rfl
@[simp] theorem State.modThread_voided (s : State) (a : Agent) (f : Thread → Thread) : (s.modThread a f).voided = s.voided := by cases a <;> rfl
@[simp] theorem State.modThread_romMeasured (s : State) (a : Agent) (f : Thread → Thread) : (s.modThread a f).romMeasured = s.romMeasured := by cases a <;> rfl
@[simp] theorem State.modThread_partMade (s : State) (a : Agent) (f : Thread → Thread) : (s.modThread a f).partMade = s.partMade := by cases a <;> rfl
@[simp] theorem State.modThread_ready (s : State) (a : Agent) (f : Thread → Thread) : (s.modThread a f).ready = s.ready := by cases a <;> rfl

/-! ### Accessors -/

theorem State.pack_modPack (s : State) (p q : Nat) (f : Pack → Pack) :
    (s.modPack p f).pack q = if q = p ∧ p < s.packs.length then f (s.pack p) else s.pack q := by
  simp only [State.pack, State.modPack, List.getD_eq_getElem?_getD, List.getElem?_modify]
  by_cases h : p = q
  · subst h
    by_cases hl : p < s.packs.length
    · simp [hl]
    · simp [hl]
  · simp [h, Ne.symm h]

@[simp] theorem State.packs_modPack_length (s : State) (p : Nat) (f : Pack → Pack) :
    (s.modPack p f).packs.length = s.packs.length := by simp [State.modPack]
@[simp] theorem State.packs_modRow_length (s : State) (p r : Nat) (f : Row → Row) :
    (s.modRow p r f).packs.length = s.packs.length := by simp [State.modRow]
@[simp] theorem State.packs_modStrand_length (s : State) (p r k : Nat) (f : Strand → Strand) :
    (s.modStrand p r k f).packs.length = s.packs.length := by simp [State.modStrand]

/-- A pack after a row of it is replaced. -/
theorem State.pack_modRow (s : State) (p r q : Nat) (f : Row → Row) :
    (s.modRow p r f).pack q =
      if q = p ∧ p < s.packs.length then { s.pack p with rows := (s.pack p).rows.modify r f } else s.pack q :=
  State.pack_modPack s p q _

theorem State.pack_modRow_same (s : State) (p r : Nat) (f : Row → Row) (hp : p < s.packs.length) :
    (s.modRow p r f).pack p = { s.pack p with rows := (s.pack p).rows.modify r f } := by
  rw [State.pack_modRow, if_pos ⟨rfl, hp⟩]

theorem State.row_modRow_same (s : State) (p r : Nat) (f : Row → Row) (hp : p < s.packs.length)
    (hr : r < (s.pack p).rows.length) : (s.modRow p r f).row p r = f (s.row p r) := by
  simp [State.row, State.pack_modRow_same s p r f hp, List.getD_eq_getElem?_getD, hr]

theorem State.row_modRow_ne (s : State) (p r q j : Nat) (f : Row → Row) (h : ¬ (q = p ∧ j = r)) :
    (s.modRow p r f).row q j = s.row q j := by
  simp only [State.row, State.pack_modRow]
  split
  · rename_i hq
    have hj : ¬ r = j := fun e => h ⟨hq.1, e.symm⟩
    simp [List.getD_eq_getElem?_getD, hj, hq.1]
  · rfl

@[simp] theorem State.rows_modRow_length (s : State) (p r q : Nat) (f : Row → Row) :
    ((s.modRow p r f).pack q).rows.length = (s.pack q).rows.length := by
  rw [State.pack_modRow]
  split
  · rename_i h; simp [h.1]
  · rfl

theorem State.row_modRow (s : State) (p r q j : Nat) (f : Row → Row) :
    (s.modRow p r f).row q j =
      if q = p ∧ j = r ∧ p < s.packs.length ∧ r < (s.pack p).rows.length then f (s.row p r) else s.row q j := by
  split
  · rename_i h
    rw [h.1, h.2.1, State.row_modRow_same s p r f h.2.2.1 h.2.2.2]
  · rename_i h
    by_cases hq : q = p ∧ j = r
    · obtain ⟨rfl, rfl⟩ := hq
      by_cases hp : q < s.packs.length
      · have hr : ¬ j < (s.pack q).rows.length := fun e => h ⟨rfl, rfl, hp, e⟩
        simp only [State.row, State.pack_modRow, hp, and_self, if_true]
        simp [List.getD_eq_getElem?_getD, List.getElem?_eq_none (Nat.le_of_not_lt hr)]
      · simp [State.row, State.pack_modRow, hp]
    · exact State.row_modRow_ne s p r q j f hq

theorem State.strand_modStrand_same (s : State) (p r k : Nat) (f : Strand → Strand) (hp : p < s.packs.length)
    (hr : r < (s.pack p).rows.length) (hk : k < (s.row p r).strands.length) :
    (s.modStrand p r k f).strand p r k = f (s.strand p r k) := by
  simp [State.strand, State.modStrand, State.row_modRow_same s p r _ hp hr, List.getD_eq_getElem?_getD, hk]

theorem State.strand_modStrand_ne (s : State) (p r k q j i : Nat) (f : Strand → Strand)
    (h : ¬ (q = p ∧ j = r ∧ i = k)) : (s.modStrand p r k f).strand q j i = s.strand q j i := by
  by_cases hq : q = p ∧ j = r
  · obtain ⟨rfl, rfl⟩ := hq
    have hi : ¬ k = i := fun e => h ⟨rfl, rfl, e.symm⟩
    by_cases hp : q < s.packs.length
    · by_cases hr : j < (s.pack q).rows.length
      · simp [State.strand, State.modStrand, State.row_modRow_same s q j _ hp hr, List.getD_eq_getElem?_getD, hi]
      · simp only [State.strand, State.modStrand, State.row, State.pack_modRow, hp, and_self, if_true]
        simp only [List.getD_eq_getElem?_getD, List.getElem?_modify]
        simp [List.getElem?_eq_none (Nat.le_of_not_lt hr)]
    · simp [State.strand, State.modStrand, State.row, State.pack_modRow, hp]
  · simp [State.strand, State.modStrand, State.row_modRow_ne s p r q j _ hq]

theorem State.strand_modStrand (s : State) (p r k q j i : Nat) (f : Strand → Strand) :
    (s.modStrand p r k f).strand q j i =
      if q = p ∧ j = r ∧ i = k ∧ p < s.packs.length ∧ r < (s.pack p).rows.length ∧ k < (s.row p r).strands.length then
        f (s.strand p r k)
      else s.strand q j i := by
  split
  · rename_i h
    obtain ⟨rfl, rfl, rfl, h1, h2, h3⟩ := h
    exact State.strand_modStrand_same s _ _ _ f h1 h2 h3
  · rename_i h
    by_cases hq : q = p ∧ j = r ∧ i = k
    · obtain ⟨rfl, rfl, rfl⟩ := hq
      simp only [State.strand, State.modStrand, State.row_modRow]
      split
      · rename_i h'
        have hk : ¬ i < (s.row q j).strands.length := fun e => h ⟨rfl, rfl, rfl, h'.2.2.1, h'.2.2.2, e⟩
        simp [List.getD_eq_getElem?_getD, List.getElem?_eq_none (Nat.le_of_not_lt hk)]
      · rfl
    · exact State.strand_modStrand_ne s p r k q j i f hq

/-- A strand's update leaves the row's own registers. -/
theorem State.x_modStrand (s : State) (p r k q j : Nat) (f : Strand → Strand) :
    ((s.modStrand p r k f).row q j).x = (s.row q j).x := by
  simp only [State.modStrand, State.row_modRow]; split
  · rename_i h; rw [h.1, h.2.1]
  · rfl
theorem State.bad_modStrand (s : State) (p r k q j : Nat) (f : Strand → Strand) :
    ((s.modStrand p r k f).row q j).bad = (s.row q j).bad := by
  simp only [State.modStrand, State.row_modRow]; split
  · rename_i h; rw [h.1, h.2.1]
  · rfl
theorem State.p_modStrand (s : State) (p r k q j : Nat) (f : Strand → Strand) :
    ((s.modStrand p r k f).row q j).p = (s.row q j).p := by
  simp only [State.modStrand, State.row_modRow]; split
  · rename_i h; rw [h.1, h.2.1]
  · rfl

/-- The side of a pack after a side of some pack is replaced. -/
theorem State.side_modSide_same (s : State) (p : Nat) (b : Bool) (f : Side → Side) (hp : p < s.packs.length) :
    (s.modSide p b f).side p b = f (s.side p b) := by
  simp only [State.side, State.modSide, State.pack_modPack, hp, and_self, if_true]
  cases b <;> rfl

end Sys2Proof.Machine
end

