-- ==== Sys2Proof/Laws/Frame.lean ====
section
/-! SUPPORT. How frames compose, and the frame of each operation that completing an instruction uses: registers, runs, the
trace, `retire`. -/
namespace Sys2Proof.Machine

set_option Elab.async false

theorem Frame.refl (s : State) (a : Agent) : Frame s s a [] :=
  ⟨rfl, fun _ _ => rfl, rfl, fun _ _ => rfl, rfl, fun _ _ _ _ => rfl, fun _ _ _ _ => Iff.rfl, fun h => ⟨h, fun _ _ => rfl⟩⟩

/-- A trace buffer's place is the same in states that differ only in progress. -/
theorem untraced_of_rest {s t : State} {p x : Nat} (h : t.rest = s.rest) (hp : (t.pack p).core = (s.pack p).core)
    (hu : Untraced s p x) : Untraced t p x := by
  intro c hcore w hw
  have hc : t.cores.map Core.rest = s.cores.map Core.rest := congrArg State.cores h
  have hg : ∀ c, (t.core c).trace.map TraceState.rest = (s.core c).trace.map TraceState.rest := by
    intro c
    have := congrArg (fun l => (l[c]?).map fun k => k.trace) hc
    simp only [List.getElem?_map, Option.map_map] at this
    simp only [State.core, List.getD_eq_getElem?_getD]
    cases h1 : t.cores[c]? <;> cases h2 : s.cores[c]? <;> simp_all [Core.rest]
  have hg' := hg c
  rw [hp] at hcore
  rw [hw] at hg'
  cases hs : (s.core c).trace with
  | none => simp [hs] at hg'
  | some u =>
    have := hu c hcore u hs
    simp only [hs, Option.map_some, Option.some.injEq, TraceState.rest] at hg'
    have hset : w.set = u.set := by
      have := congrArg TraceState.set hg'; simpa using this
    rw [hset]; exact this

theorem Frame.trans {s t u : State} {a : Agent} {ns ms : List RegName} (h : Frame s t a ns) (k : Frame t u a ms) :
    Frame s u a (ns ++ ms) where
  rest := k.rest.trans h.rest
  packs q hq := (k.packs q hq).trans (h.packs q hq)
  pack := k.pack.trans h.pack
  rows j hj := (k.rows j hj).trans (h.rows j hj)
  row := k.row.trans h.row
  regs b n hb hn := by
    rw [k.regs b n hb fun e => fun m => hn e (List.mem_append_right _ m),
      h.regs b n hb fun e => fun m => hn e (List.mem_append_left _ m)]
  sound b n hb hn :=
    (k.sound b n hb fun e => fun m => hn e (List.mem_append_right _ m)).trans
      (h.sound b n hb fun e => fun m => hn e (List.mem_append_left _ m))
  mem hw := by
    have h1 := h.mem hw
    have h2 := k.mem h1.1
    refine ⟨h2.1, fun x hx => ?_⟩
    rw [h2.2 x (untraced_of_rest h.rest (by simpa [Pack.rest] using congrArg Pack.core h.pack) hx), h1.2 x hx]

/-- A frame followed by one that changes no register. -/
theorem Frame.andThen {s t u : State} {a : Agent} {ns : List RegName} (h : Frame s t a ns) (k : Frame t u a []) :
    Frame s u a ns := by simpa using h.trans k

/-- A frame holds for any larger set of registers. -/
theorem Frame.mono {s t : State} {a : Agent} {ns ms : List RegName} (h : Frame s t a ns) (k : ∀ n ∈ ns, n ∈ ms) :
    Frame s t a ms where
  rest := h.rest
  packs := h.packs
  pack := h.pack
  rows := h.rows
  row := h.row
  regs b n hb hn := h.regs b n hb fun e m => hn e (k n m)
  sound b n hb hn := h.sound b n hb fun e m => hn e (k n m)
  mem := h.mem

/-- An update of the row of an agent that keeps what a frame keeps. -/
theorem frame_modRow {s : State} {a : Agent} {ns : List RegName} {f : Row → Row}
    (hrest : ∀ w : Row, (f w).rest a = w.rest a)
    (hregs : ∀ b n, b.pr = a.pr → (b = a → n ∉ ns) →
      (s.modRow a.pr.1 a.pr.2 f).regNow b n = s.regNow b n)
    (hbad : ∀ b n, b.pr = a.pr → (b = a → n ∉ ns) →
      (n ∈ (s.modRow a.pr.1 a.pr.2 f).badRegs b ↔ n ∈ s.badRegs b)) :
    Frame s (s.modRow a.pr.1 a.pr.2 f) a ns where
  rest := rfl
  packs q hq := by rw [State.pack_modRow, if_neg fun h => hq h.1]
  pack := by
    rw [State.pack_modRow]; split <;> rfl
  rows j hj := State.row_modRow_ne _ _ _ _ _ _ fun h => hj h.2
  row := by
    by_cases hp : a.pr.1 < s.packs.length
    · by_cases hr : a.pr.2 < (s.pack a.pr.1).rows.length
      · rw [State.row_modRow_same s _ _ f hp hr, hrest]
      · simp only [State.row, State.pack_modRow, hp, and_self, if_true]
        simp [List.getD_eq_getElem?_getD, List.getElem?_eq_none (Nat.le_of_not_lt hr)]
    · simp [State.row, State.pack_modRow, hp]
  regs := hregs
  sound := hbad
  mem h := ⟨h, fun _ _ => rfl⟩

/-- A row update that keeps all registers of the row. -/
theorem regs_modRow {s : State} {p r : Nat} {f : Row → Row}
    (hx : ∀ w : Row, (f w).x = w.x) (hq : ∀ w : Row, (f w).p = w.p)
    (hs : ∀ (w : Row) k, ((f w).strands.getD k Strand.idle).g = (w.strands.getD k Strand.idle).g ∧
      ((f w).strands.getD k Strand.idle).p = (w.strands.getD k Strand.idle).p) (b : Agent) (n : RegName) :
    (s.modRow p r f).regNow b n = s.regNow b n := by
  have hrow : ∀ q j, ((s.modRow p r f).row q j).x = (s.row q j).x ∧ ((s.modRow p r f).row q j).p = (s.row q j).p ∧
      ∀ k, ((s.modRow p r f).strand q j k).g = (s.strand q j k).g ∧
        ((s.modRow p r f).strand q j k).p = (s.strand q j k).p := by
    intro q j
    by_cases h : q = p ∧ j = r
    · obtain ⟨rfl, rfl⟩ := h
      by_cases hp : q < s.packs.length
      · by_cases hr : j < (s.pack q).rows.length
        · simp only [State.strand, State.row_modRow_same s q j f hp hr, hx, hq, hs, and_self, implies_true]
        · have : (s.modRow q j f).row q j = s.row q j := by
            simp only [State.row, State.pack_modRow, hp, and_self, if_true]
            simp [List.getD_eq_getElem?_getD, List.getElem?_eq_none (Nat.le_of_not_lt hr)]
          simp [State.strand, this]
      · have : (s.modRow q j f).row q j = s.row q j := by simp [State.row, State.pack_modRow, hp]
        simp [State.strand, this]
    · simp [State.strand, State.row_modRow_ne s p r q j f h]
  cases n <;> cases b <;> simp [State.regNow, State.intReg, State.predReg, hrow]

/-- A row update that keeps which registers of the row are poisoned. -/
theorem badRegs_modRow {s : State} {p r : Nat} {f : Row → Row} (hb : ∀ w : Row, (f w).bad = w.bad)
    (hs : ∀ (w : Row) k, ((f w).strands.getD k Strand.idle).bad = (w.strands.getD k Strand.idle).bad) (b : Agent) :
    (s.modRow p r f).badRegs b = s.badRegs b := by
  cases b <;> simp only [State.badRegs, State.strand, State.row_modRow] <;> split <;>
    first | rfl | (rename_i h; rw [h.1, h.2.1]; first | exact hb _ | exact hs _ _)

/-- A row update that changes only what completing an instruction may change. -/
theorem frame_progress {s : State} {a : Agent} {f : Row → Row} (hrest : ∀ w : Row, (f w).rest a = w.rest a)
    (hx : ∀ w : Row, (f w).x = w.x) (hq : ∀ w : Row, (f w).p = w.p) (hb : ∀ w : Row, (f w).bad = w.bad)
    (hs : ∀ (w : Row) k, ((f w).strands.getD k Strand.idle).g = (w.strands.getD k Strand.idle).g ∧
      ((f w).strands.getD k Strand.idle).p = (w.strands.getD k Strand.idle).p ∧
      ((f w).strands.getD k Strand.idle).bad = (w.strands.getD k Strand.idle).bad) :
    Frame s (s.modRow a.pr.1 a.pr.2 f) a [] :=
  frame_modRow hrest (fun b n _ _ => regs_modRow hx hq (fun w k => ⟨(hs w k).1, (hs w k).2.1⟩) b n) fun b n _ _ => by
    rw [badRegs_modRow hb fun w k => (hs w k).2.2]

/-- A strand update that keeps the strand's registers and its rest. -/
theorem frame_strand {s : State} {p r k j : Nat} {f : Strand → Strand} (hrest : ∀ t : Strand, (f t).rest = t.rest)
    (hg : ∀ t : Strand, (f t).g = t.g) (hq : ∀ t : Strand, (f t).p = t.p) (hb : ∀ t : Strand, (f t).bad = t.bad) :
    Frame s (s.modStrand p r j f) (.strand p r k) [] := by
  refine frame_progress (a := .strand p r k) (fun w => ?_) (fun _ => rfl) (fun _ => rfl) (fun _ => rfl) fun w i => ?_
  · have : (w.strands.modify j f).map Strand.rest = w.strands.map Strand.rest := by
      apply List.ext_getElem?
      intro i
      simp only [List.getElem?_map, List.getElem?_modify]
      split <;> cases w.strands[i]? <;> simp [hrest]
    simp [Row.rest, this]
  · simp only [List.getD_eq_getElem?_getD, List.getElem?_modify]
    split <;> cases h : w.strands[i]? <;> simp [hg, hq, hb]

/-- An update of an agent's own thread. -/
theorem frame_thread (s : State) (a : Agent) (f : Thread → Thread) : Frame s (s.modThread a f) a [] := by
  cases a with
  | control p r => exact frame_progress (a := .control p r) (fun _ => rfl) (fun _ => rfl) (fun _ => rfl) (fun _ => rfl) fun _ _ => ⟨rfl, rfl, rfl⟩
  | strand p r k => exact frame_strand (fun _ => rfl) (fun _ => rfl) (fun _ => rfl) fun _ => rfl

/-- A register write changes that register alone. -/
theorem regNow_regPut_other (s : State) (a b : Agent) (n m : RegName) (v : BitVec 64) (h : b = a → m ≠ n) :
    (s.regPut a n v).regNow b m = s.regNow b m := by
  have hne : ∀ {k : Nat} (i j : BitVec k), j ≠ i → i.toNat ≠ j.toNat :=
    fun i j h e => h (BitVec.eq_of_toNat_eq e.symm)
  cases a with
  | control p r =>
    cases n <;> simp only [State.regPut] <;> split <;> try rfl
    all_goals
      cases b <;> cases m <;>
        simp only [State.regNow, State.intReg, State.predReg, State.strand, State.row_modRow] <;>
        (try split) <;> (try split) <;> (try rfl)
    all_goals
      rename_i hq
      obtain ⟨rfl, rfl, -⟩ := hq
      first
        | rfl
        | (simp only [ne_eq, forall_const, RegName.int.injEq, RegName.pred.injEq] at h
           simp [setReg, hne _ _ h, List.getD_eq_getElem?_getD])
  | strand p r k =>
    cases n <;> simp only [State.regPut] <;> split <;> try rfl
    all_goals
      cases b <;> cases m <;>
        simp only [State.regNow, State.intReg, State.predReg, State.strand_modStrand, State.x_modStrand,
          State.p_modStrand] <;>
        (try split) <;> (try split) <;> (try rfl)
    all_goals
      rename_i hq
      obtain ⟨rfl, rfl, rfl, -⟩ := hq
      first
        | rfl
        | (simp only [ne_eq, forall_const, RegName.int.injEq, RegName.pred.injEq] at h
           simp [setReg, hne _ _ h])

/-- A register write changes no other register's poison. -/
theorem badRegs_regPut_other (s : State) (a b : Agent) (n m : RegName) (v : BitVec 64) (h : b = a → m ≠ n) :
    m ∈ (s.regPut a n v).badRegs b ↔ m ∈ s.badRegs b := by
  cases a with
  | control p r =>
    cases n <;> simp only [State.regPut] <;> split <;> try rfl
    all_goals
      cases b <;> simp only [State.badRegs, State.strand, State.row_modRow] <;> split <;> try rfl
      all_goals
        rename_i hq
        obtain ⟨rfl, rfl, -⟩ := hq
        first
          | rfl
          | exact List.mem_erase_of_ne (h rfl)
  | strand p r k =>
    cases n <;> simp only [State.regPut] <;> split <;> try rfl
    all_goals
      cases b <;> simp only [State.badRegs, State.strand_modStrand, State.bad_modStrand] <;> (try split) <;> try rfl
      all_goals
        rename_i hq
        obtain ⟨rfl, rfl, rfl, -⟩ := hq
        exact List.mem_erase_of_ne (h rfl)

theorem frame_regPut (s : State) (a : Agent) (n : RegName) (v : BitVec 64) : Frame s (s.regPut a n v) a [n] := by
  have hr : ∀ b m, b.pr = a.pr → (b = a → m ∉ [n]) → (s.regPut a n v).regNow b m = s.regNow b m :=
    fun b m _ h => regNow_regPut_other s a b n m v fun e => by simpa using h e
  have hs : ∀ b m, b.pr = a.pr → (b = a → m ∉ [n]) → (m ∈ (s.regPut a n v).badRegs b ↔ m ∈ s.badRegs b) :=
    fun b m _ h => badRegs_regPut_other s a b n m v fun e => by simpa using h e
  cases a with
  | control p r =>
    cases n <;> simp only [State.regPut] at hr hs ⊢ <;> split at hr <;> rename_i h0 <;>
      simp only [h0, if_true, if_false] at hs ⊢ <;>
      first
        | exact (Frame.refl _ _).mono (by simp)
        | exact frame_modRow (a := .control p r) (fun _ => rfl) hr hs
  | strand p r k =>
    have hm : ∀ f : Strand → Strand, (∀ t : Strand, (f t).rest = t.rest) →
        ∀ w : Row, ({ w with strands := w.strands.modify k f } : Row).rest (.strand p r k) = w.rest (.strand p r k) := by
      intro f hf w
      simp only [Row.rest]
      congr 1
      apply List.ext_getElem?
      intro i
      simp only [List.getElem?_map, List.getElem?_modify]
      split <;> cases w.strands[i]? <;> simp [hf]
    cases n <;> simp only [State.regPut] at hr hs ⊢ <;> split at hr <;> rename_i h0 <;>
      simp only [h0, if_true, if_false] at hs ⊢ <;>
      first
        | exact (Frame.refl _ _).mono (by simp)
        | exact frame_modRow (a := .strand p r k) (hm _ fun _ => rfl) hr hs

/-! ## Runs -/

theorem core_rest_modCore (s : State) (c : Nat) (f : Core → Core) (h : (f (s.core c)).rest = (s.core c).rest) :
    (s.modCore c f).rest = s.rest := by
  have : (s.modCore c f).cores.map Core.rest = s.cores.map Core.rest := by
    apply List.ext_getElem?
    intro i
    simp only [State.modCore, List.getElem?_map, List.getElem?_modify]
    split
    · rename_i e; subst e
      cases hc : s.cores[c]? with
      | none => simp
      | some w =>
        have : s.core c = w := by simp [State.core, List.getD_eq_getElem?_getD, hc]
        rw [this] at h; simp [h]
    · simp
  simp only [State.rest, this, State.modCore_dies]
  rfl

theorem die_rest_modDie (s : State) (d : Nat) (f : Die → Die) (h : ∀ w : Die, (f w).rest = w.rest) :
    (s.modDie d f).rest = s.rest := by
  have : (s.modDie d f).dies.map Die.rest = s.dies.map Die.rest := by
    apply List.ext_getElem?
    intro i
    simp only [State.modDie, List.getElem?_map, List.getElem?_modify]
    split <;> cases s.dies[i]? <;> simp [h]
  simp only [State.rest, this, State.modDie_cores]
  rfl

/-- A state that keeps packs and differs in memory only in a trace buffer. -/
theorem frame_of_packs {s t : State} {a : Agent} (hrest : t.rest = s.rest) (hp : t.packs = s.packs)
    (hm : s.mem.wf = true → t.mem.wf = true ∧ ∀ x, Untraced s a.pr.1 x → memRead t.mem x = memRead s.mem x) :
    Frame s t a [] := by
  have hk : ∀ q, t.pack q = s.pack q := fun q => by simp [State.pack, hp]
  have hr : ∀ q j, t.row q j = s.row q j := fun q j => by simp [State.row, hk]
  refine ⟨hrest, fun q _ => hk q, by rw [hk], fun j _ => hr _ j, by rw [hr], fun b n _ _ => ?_, fun b n _ _ => ?_, hm⟩
  · cases b <;> cases n <;> simp [State.regNow, State.intReg, State.predReg, State.strand, hr]
  · cases b <;> simp [State.badRegs, State.strand, hr]

/-- Early reads are no part of what a frame keeps. -/
theorem frame_forget (s : State) (a : Agent) (f : Early → Bool) : Frame s (s.forget f) a [] :=
  frame_of_packs rfl rfl fun h => ⟨h, fun _ _ => rfl⟩

@[simp] theorem regNow_forget (s : State) (f : Early → Bool) (b : Agent) (m : RegName) :
    (s.forget f).regNow b m = s.regNow b m := by cases b <;> cases m <;> rfl

theorem frame_forgetBase (s : State) (a : Agent) (n : RegName) : Frame s (s.forgetBase a n) a [] := by
  cases n with
  | int _ => exact frame_forget s a _
  | pred _ => exact Frame.refl s a

theorem regNow_putReg_other (s : State) (a b : Agent) (n m : RegName) (v : BitVec 64) (h : b = a → m ≠ n) :
    (s.putReg a n v).regNow b m = s.regNow b m := by
  rw [State.putReg, regNow_regPut_other _ _ _ _ _ _ h]
  cases n <;> simp [State.forgetBase]

theorem frame_putReg (s : State) (a : Agent) (n : RegName) (v : BitVec 64) : Frame s (s.putReg a n v) a [n] :=
  (frame_forgetBase s a n).trans (frame_regPut _ a n v)

theorem leBytes_length (n v : Nat) : (leBytes n v).length = n := by
  induction n generalizing v with
  | zero => rfl
  | succ n ih => simp [leBytes, ih]

/-- Appending a record writes inside the buffer alone. -/
theorem appendRecord_spec {s t : State} {base size written : Nat} {l : List (BitVec 64)}
    (h : s.appendRecord base size written l = some t) :
    ∃ m, t = { s with mem := m } ∧ (s.mem.wf = true → m.wf = true ∧
      ∀ x, ¬ (base ≤ x ∧ x < base + size) → memRead m x = memRead s.mem x) := by
  unfold State.appendRecord at h
  dsimp only at h
  split at h
  · rename_i hb
    simp only [Option.some.injEq] at h
    subst h
    refine ⟨_, rfl, fun hw => ⟨memPut_wf _ _ _ hw, fun x hx => ?_⟩⟩
    rw [memRead_memPut _ _ _ _ hw, if_neg]
    have : (l.flatMap fun w => leBytes 8 w.toNat).length = 8 * l.length := by
      clear hb
      induction l with
      | nil => rfl
      | cons a l ih => simp only [List.flatMap_cons, List.length_append, ih, leBytes_length, List.length_cons]; omega
    rw [this]
    omega
  · cases h

/-- What changes of a trace in progress is how far it has come. -/
theorem rest_modTrace (s : State) (c : Nat) (t u : TraceState) (ht : (s.core c).trace = some t) (hu : u.rest = t.rest) :
    (s.modCore c fun k => { k with trace := some u }).rest = s.rest := by
  apply core_rest_modCore
  simp [Core.rest, ht, hu]

/-- A record of one of the agent's cores changes memory in that core's trace buffer alone (R463). -/
theorem frame_traceRecord (s : State) (a : Agent) (c : Nat) (t : TraceState) (l : List (BitVec 64))
    (ht : (s.core c).trace = some t) (hc : c = (s.pack a.pr.1).core ∨ c = (s.pack a.pr.1).core + 1) :
    Frame s (s.traceRecord c t l) a [] := by
  unfold State.traceRecord
  split
  · rename_i s' hs
    obtain ⟨m, rfl, hm⟩ := appendRecord_spec hs
    exact frame_of_packs (rest_modTrace _ _ t _ ht rfl) rfl fun hw =>
      ⟨(hm hw).1, fun x hx => (hm hw).2 x (hx c hc t ht)⟩
  · dsimp only
    split
    · exact frame_of_packs (rest_modTrace _ _ t _ ht rfl) rfl fun hw => ⟨hw, fun _ _ => rfl⟩
    · rename_i hb
      refine frame_of_packs (rest_modTrace { s with mem := _ } _ t _ ht rfl) rfl fun hw => ⟨memWrite_wf _ _ _ hw, fun x hx => ?_⟩
      have hx := hx c hc t ht
      simp only [State.modCore_mem]
      refine memRead_memWrite_other _ _ _ _ hw fun e => hx ?_
      subst e
      have : Config.overflowFlag % (8 * Config.bufferHeader) < 8 * Config.bufferHeader :=
        Nat.mod_lt _ (by omega)
      omega

/-- The cores an agent runs on. -/
theorem coreOf_cases (s : State) (a : Agent) :
    s.coreOf a = (s.pack a.pr.1).core ∨ s.coreOf a = (s.pack a.pr.1).core + 1 := by
  cases a with
  | control p r => exact .inl rfl
  | strand p r k => simp only [State.coreOf, Agent.pr]; split <;> simp

theorem frame_traceRun (s : State) (a : Agent) (w : Bool) : Frame s (s.traceRun a w) a [] := by
  unfold State.traceRun
  dsimp only
  split
  · exact Frame.refl _ _
  · rename_i t ht
    split
    · exact frame_traceRecord s a _ t _ ht (coreOf_cases s a)
    · exact Frame.refl _ _

theorem frame_endRun (s : State) (a : Agent) (w : Bool) : Frame s (s.endRun a w) a [] := by
  have h1 := (frame_traceRun s a w).andThen (frame_thread (s.traceRun a w) a fun t => { t with run := Run.empty })
  unfold State.endRun
  dsimp only
  cases a with
  | control p r =>
    exact h1.andThen (frame_progress (a := .control p r) (fun _ => rfl) (fun _ => rfl) (fun _ => rfl) (fun _ => rfl) fun _ _ => ⟨rfl, rfl, rfl⟩)
  | strand p r k =>
    dsimp only
    split
    · exact h1.andThen (frame_progress (a := .strand p r k) (fun _ => rfl) (fun _ => rfl) (fun _ => rfl) (fun _ => rfl) fun _ _ => ⟨rfl, rfl, rfl⟩)
    · exact h1

theorem frame_modDie (s : State) (a : Agent) (d n : Nat) : Frame s (s.modDie d fun x => { x with lastIssue := n }) a [] :=
  frame_of_packs (die_rest_modDie _ _ _ fun _ => rfl) rfl fun h => ⟨h, fun _ _ => rfl⟩

theorem frame_tally (s : State) (a : Agent) : Frame s (s.tally a) a [] := by
  unfold State.tally
  refine Frame.andThen ?_ (frame_modDie _ a _ _)
  refine Frame.andThen ?_
    (frame_progress (a := a) (fun _ => by cases a <;> rfl) (fun _ => rfl) (fun _ => rfl) (fun _ => rfl) fun _ _ => ⟨rfl, rfl, rfl⟩)
  exact frame_thread s a _

theorem frame_clearMarks (s : State) (a : Agent) (npc : BitVec 48) : Frame s (s.clearMarks a npc) a [] := by
  cases a with
  | control p r => exact frame_progress (a := .control p r) (fun _ => rfl) (fun _ => rfl) (fun _ => rfl) (fun _ => rfl) fun _ _ => ⟨rfl, rfl, rfl⟩
  | strand p r k => exact frame_strand (fun _ => rfl) (fun _ => rfl) (fun _ => rfl) fun _ => rfl

theorem frame_noteLong (s : State) (a : Agent) (b : Bool) : Frame s (s.noteLong a b) a [] :=
  frame_progress (a := a) (fun _ => by cases a <;> cases b <;> rfl) (fun _ => rfl) (fun _ => rfl) (fun _ => rfl) fun _ _ => ⟨rfl, rfl, rfl⟩

theorem frame_tallyLong (s : State) (a : Agent) : Frame s (s.tallyLong a) a [] :=
  (frame_tally s a).andThen (frame_noteLong _ a _)

theorem frame_unblock (s : State) (a : Agent) : Frame s (s.unblock a) a [] := by
  cases a with
  | control p r => exact Frame.refl _ _
  | strand p r k => exact frame_strand (fun _ => rfl) (fun _ => rfl) (fun _ => rfl) fun _ => rfl

/-- Completing an instruction changes no register and nothing outside the thread's progress. -/
theorem frame_retire (s : State) (a : Agent) (npc : BitVec 48) : Frame s (s.retire a npc) a [] := by
  unfold State.retire
  split
  · exact (frame_thread _ _ _).andThen (frame_unblock _ a)
  · dsimp only
    have h := ((frame_tallyLong s a).andThen (frame_thread _ a fun t =>
      { t with pc := npc, waiting := none, patch := none, begun := [] })).andThen (frame_clearMarks _ a npc)
    split
    · exact h.andThen (frame_endRun _ a false)
    · exact h

end Sys2Proof.Machine
end

