-- ==== Sys2Proof/Laws/Issue.lean ====
section
/-! SUPPORT. What completing an instruction does: where the thread stands, which earlier values it may still read, and the
whole of `issue` for an instruction that goes on. -/
namespace Sys2Proof.Machine

set_option Elab.async false

/-! ## Threads -/

theorem has_modRow (s : State) (p r : Nat) (f : Row → Row) (hf : ∀ w : Row, (f w).strands.length = w.strands.length)
    (a : Agent) : (s.modRow p r f).has a ↔ s.has a := by
  have : ∀ q j, ((s.modRow p r f).row q j).strands.length = (s.row q j).strands.length := by
    intro q j
    rw [State.row_modRow]
    split
    · rename_i h; rw [hf, h.1, h.2.1]
    · rfl
  cases a <;> simp [State.has, this]

theorem has_modThread (s : State) (b : Agent) (f : Thread → Thread) (a : Agent) : (s.modThread b f).has a ↔ s.has a := by
  cases b with
  | control p r => exact has_modRow s p r (fun w => { w with thread := f w.thread }) (fun _ => rfl) a
  | strand p r k => exact has_modRow s p r (fun w => { w with strands := w.strands.modify k _ }) (fun w => by simp) a

theorem thread_modThread {s : State} {a : Agent} (h : s.has a) (f : Thread → Thread) :
    (s.modThread a f).thread a = f (s.thread a) := by
  cases a with
  | control p r => simp [State.thread, State.modThread, State.row_modRow_same s p r _ h.1 h.2]
  | strand p r k => simp [State.thread, State.modThread, State.strand_modStrand_same s p r k _ h.1 h.2.1 h.2.2]

/-- A row update that keeps the threads. -/
theorem thread_modRow (s : State) (p r : Nat) (f : Row → Row) (a : Agent) (ht : ∀ w : Row, (f w).thread = w.thread)
    (hs : ∀ (w : Row) k, ((f w).strands.getD k Strand.idle).thread = (w.strands.getD k Strand.idle).thread) :
    (s.modRow p r f).thread a = s.thread a := by
  cases a <;> simp only [State.thread, State.strand, State.row_modRow] <;> split <;>
    first | rfl | (rename_i h; rw [h.1, h.2.1]; first | exact ht _ | exact hs _ _)

theorem thread_modStrand (s : State) (p r k : Nat) (f : Strand → Strand) (a : Agent)
    (ht : ∀ t : Strand, (f t).thread = t.thread) : (s.modStrand p r k f).thread a = s.thread a := by
  refine thread_modRow s p r _ a (fun _ => rfl) fun w i => ?_
  simp only [List.getD_eq_getElem?_getD, List.getElem?_modify]
  split <;> cases w.strands[i]? <;> simp [ht]

/-- What a trace record leaves: packs, the latch and the counters. -/
theorem traceRecord_keeps (s : State) (c : Nat) (t : TraceState) (l : List (BitVec 64)) :
    (s.traceRecord c t l).packs = s.packs ∧ (s.traceRecord c t l).fetch = s.fetch ∧
      (s.traceRecord c t l).issuer = s.issuer ∧ (s.traceRecord c t l).nonce = s.nonce := by
  unfold State.traceRecord
  split
  · rename_i h
    obtain ⟨m, rfl, -⟩ := appendRecord_spec h
    simp
  · dsimp only
    split <;> simp

/-- What the trace of a run leaves: packs, the latch and the counters. -/
theorem traceRun_keeps (s : State) (a : Agent) (w : Bool) :
    (s.traceRun a w).packs = s.packs ∧ (s.traceRun a w).fetch = s.fetch ∧ (s.traceRun a w).issuer = s.issuer ∧
      (s.traceRun a w).nonce = s.nonce := by
  unfold State.traceRun
  dsimp only
  split
  · simp
  · split
    · exact traceRecord_keeps s _ _ _
    · simp

theorem has_of_packs {s t : State} (h : t.packs = s.packs) (a : Agent) : t.has a ↔ s.has a := by
  cases a <;> simp [State.has, State.row, State.pack, h]

theorem thread_of_packs {s t : State} (h : t.packs = s.packs) (a : Agent) : t.thread a = s.thread a := by
  cases a <;> simp [State.thread, State.strand, State.row, State.pack, h]

theorem thread_endRun {s : State} {a : Agent} (h : s.has a) (w : Bool) :
    (s.endRun a w).thread a = { s.thread a with run := Run.empty } := by
  have hp := (traceRun_keeps s a w).1
  have h1 : ((s.traceRun a w).modThread a fun t => { t with run := Run.empty }).thread a =
      { s.thread a with run := Run.empty } := by
    rw [thread_modThread ((has_of_packs hp a).2 h), thread_of_packs hp]
  unfold State.endRun
  cases a with
  | control p r =>
    dsimp only
    rw [thread_modRow]
    · exact h1
    · intro _; rfl
    · intro _ _; rfl
  | strand p r k =>
    dsimp only
    split
    · rw [thread_modRow]
      · exact h1
      · intro _; rfl
      · intro _ _; rfl
    · exact h1

theorem has_endRun (s : State) (b : Agent) (w : Bool) (a : Agent) : (s.endRun b w).has a ↔ s.has a := by
  have h1 : ((s.traceRun b w).modThread b fun t => { t with run := Run.empty }).has a ↔ s.has a :=
    (has_modThread _ _ _ a).trans (has_of_packs (traceRun_keeps s b w).1 a)
  unfold State.endRun
  cases b with
  | control p r => dsimp only; rw [has_modRow]; · exact h1
                   · intro _; rfl
  | strand p r k =>
    dsimp only
    split
    · rw [has_modRow]; · exact h1
      · intro _; rfl
    · exact h1

@[simp] theorem endRun_fetch (s : State) (a : Agent) (w : Bool) : (s.endRun a w).fetch = s.fetch := by
  unfold State.endRun
  cases a <;> dsimp only <;> (try split) <;> simp [(traceRun_keeps s _ w).2.1]

@[simp] theorem tally_fetch (s : State) (a : Agent) : (s.tally a).fetch = s.fetch := by
  simp [State.tally]

theorem has_modDie (s : State) (d : Nat) (f : Die → Die) (a : Agent) : (s.modDie d f).has a ↔ s.has a := has_of_packs rfl a

theorem thread_modDie (s : State) (d : Nat) (f : Die → Die) (a : Agent) : (s.modDie d f).thread a = s.thread a :=
  thread_of_packs rfl a

theorem has_tally (s : State) (b a : Agent) : (s.tally b).has a ↔ s.has a := by
  unfold State.tally
  rw [has_modDie, has_modRow, has_modThread]
  intro _; rfl

theorem thread_tally {s : State} {a : Agent} (h : s.has a) :
    ∃ run : Run, (s.tally a).thread a = { s.thread a with run := run } ∧ run.owed = (s.thread a).run.owed := by
  unfold State.tally
  rw [thread_modDie, thread_modRow, thread_modThread h]
  · exact ⟨_, rfl, rfl⟩
  · intro _; rfl
  · intro _ _; rfl

theorem has_clearMarks (s : State) (b : Agent) (npc : BitVec 48) (a : Agent) : (s.clearMarks b npc).has a ↔ s.has a := by
  cases b <;> simp only [State.clearMarks, State.modStrand] <;> rw [has_modRow] <;> intro _ <;> simp

theorem has_noteLong (s : State) (b : Agent) (l : Bool) (a : Agent) : (s.noteLong b l).has a ↔ s.has a := by
  rw [State.noteLong, has_modRow]; intro _; rfl

theorem thread_clearMarks (s : State) (b : Agent) (npc : BitVec 48) (a : Agent) :
    (s.clearMarks b npc).thread a = s.thread a := by
  cases b
  · simp only [State.clearMarks]
    rw [thread_modRow] <;> intros <;> rfl
  · simp only [State.clearMarks]
    rw [thread_modStrand]; intros; rfl

theorem thread_noteLong (s : State) (b : Agent) (l : Bool) (a : Agent) : (s.noteLong b l).thread a = s.thread a := by
  rw [State.noteLong, thread_modRow] <;> intros <;> rfl

theorem has_tallyLong (s : State) (b a : Agent) : (s.tallyLong b).has a ↔ s.has a :=
  (has_noteLong _ _ _ _).trans (has_tally _ _ _)

theorem thread_tallyLong {s : State} {a : Agent} (h : s.has a) :
    ∃ run : Run, (s.tallyLong a).thread a = { s.thread a with run := run } ∧ run.owed = (s.thread a).run.owed := by
  obtain ⟨run, h1, h2⟩ := thread_tally h
  exact ⟨run, (thread_noteLong _ a _ a).trans h1, h2⟩

theorem has_unblock (s : State) (b a : Agent) : (s.unblock b).has a ↔ s.has a := by
  cases b with
  | control p r => exact Iff.rfl
  | strand p r k => exact has_modRow s p r (fun w => { w with strands := w.strands.modify k _ }) (fun w => by simp) a

theorem thread_unblock (s : State) (b a : Agent) : (s.unblock b).thread a = s.thread a := by
  cases b with
  | control p r => rfl
  | strand p r k => exact thread_modStrand s p r k _ a fun _ => rfl

/-- The earlier values a thread may still read only get fewer. -/
structure After1 (s t : State) (a : Agent) (npc : BitVec 48) : Prop extends Goes s t a npc where
  has : t.has a
  owed : (t.thread a).run.owed = (s.thread a).run.owed ∨ (t.thread a).run.owed = []

theorem retire_goes {s : State} {a : Agent} (h : s.has a) (npc : BitVec 48) : After1 s (s.retire a npc) a npc := by
  unfold State.retire
  by_cases hf : (s.fetch.sub && !s.fetch.lastSub) = true
  · simp only [hf, if_true]
    have := thread_modThread h fun t =>
      { t with waiting := none, patch := t.patch.map fun q => { q with next := q.next + 1 }, begun := [] }
    rw [← thread_unblock _ a a] at this
    exact ⟨⟨by rw [this, hf]; rfl, by rw [this]⟩, (has_unblock _ _ _).2 ((has_modThread _ _ _ _).2 h), by
      rw [this]; exact .inl rfl⟩
  · rw [if_neg hf]
    dsimp only
    obtain ⟨run, ht, ho⟩ := thread_tallyLong h
    have h1 := (has_tallyLong s a a).2 h
    have h2 := thread_modThread h1 fun t => { t with pc := npc, waiting := none, patch := none, begun := [] }
    have h3 := (has_modThread _ a (fun t => { t with pc := npc, waiting := none, patch := none, begun := [] }) a).2 h1
    rw [ht] at h2
    have h4 := (thread_clearMarks _ a npc a).trans h2
    have h5 := (has_clearMarks _ a npc a).2 h3
    split
    · refine ⟨⟨?_, ?_⟩, (has_endRun _ _ _ _).2 h5, ?_⟩ <;> rw [thread_endRun h5]
      · simp [h4, hf]
      · simp [h4]
      · exact .inr rfl
    · refine ⟨⟨?_, ?_⟩, h5, ?_⟩ <;> rw [h4]
      · simp [hf]
      · exact .inl ho

/-! ## What may follow the completion: leashes and releases (R102, R103) -/

/-- Nothing changes but progress; the thread stays at its address, and waits for nothing it did not wait for. -/
structure Keeps (s t : State) (a : Agent) : Prop where
  frame : Frame s t a []
  has : s.has a → t.has a
  pc : s.has a → (t.thread a).pc = (s.thread a).pc
  idle : s.has a → (t.thread a).waiting = (s.thread a).waiting ∨ (t.thread a).waiting = none
  owed : s.has a → (t.thread a).run.owed = (s.thread a).run.owed ∨ (t.thread a).run.owed = []

theorem Keeps.refl (s : State) (a : Agent) : Keeps s s a :=
  ⟨Frame.refl s a, id, fun _ => rfl, fun _ => .inl rfl, fun _ => .inl rfl⟩

theorem Keeps.trans {s t u : State} {a : Agent} (h : Keeps s t a) (k : Keeps t u a) : Keeps s u a where
  frame := h.frame.andThen k.frame
  has e := k.has (h.has e)
  pc e := (k.pc (h.has e)).trans (h.pc e)
  idle e := by
    rcases k.idle (h.has e) with h1 | h1
    · rw [h1]; exact h.idle e
    · exact .inr h1
  owed e := by
    rcases k.owed (h.has e) with h1 | h1
    · rw [h1]; exact h.owed e
    · exact .inr h1

/-- A strand's update that keeps its registers and its address. -/
theorem keeps_modStrand {p r k j : Nat} {f : Strand → Strand} (s : State) (hr : ∀ t : Strand, (f t).rest = t.rest)
    (hg : ∀ t : Strand, (f t).g = t.g) (hp : ∀ t : Strand, (f t).p = t.p) (hb : ∀ t : Strand, (f t).bad = t.bad)
    (hc : ∀ t : Strand, (f t).thread.pc = t.thread.pc)
    (hw : ∀ t : Strand, (f t).thread.waiting = t.thread.waiting ∨ (f t).thread.waiting = none)
    (ho : ∀ t : Strand, (f t).thread.run.owed = t.thread.run.owed ∨ (f t).thread.run.owed = []) :
    Keeps s (s.modStrand p r j f) (.strand p r k) := by
  have ht : (s.modStrand p r j f).thread (.strand p r k) = s.thread (.strand p r k) ∨
      (s.modStrand p r j f).thread (.strand p r k) = (f (s.strand p r k)).thread := by
    simp only [State.thread, State.strand_modStrand]
    split
    · rename_i h; obtain ⟨-, -, rfl, -⟩ := h; exact .inr rfl
    · exact .inl rfl
  refine ⟨frame_strand hr hg hp hb, fun h => ?_, fun _ => ?_, fun _ => ?_, fun _ => ?_⟩
  · exact (has_modRow s p r (fun w => { w with strands := w.strands.modify j f }) (fun w => by simp) _).2 h
  all_goals rcases ht with h | h <;> rw [h]
  · exact hc _
  · exact .inl rfl
  · exact hw _
  · exact .inl rfl
  · exact ho _

theorem keeps_endRun (s : State) (a : Agent) (w : Bool) : Keeps s (s.endRun a w) a :=
  ⟨frame_endRun s a w, fun h => (has_endRun _ _ _ _).2 h, fun h => by rw [thread_endRun h],
    fun h => by rw [thread_endRun h]; exact .inl rfl, fun h => by rw [thread_endRun h]; exact .inr rfl⟩

theorem keeps_leaveRun (s : State) (a : Agent) (w : Bool) : Keeps s (s.leaveRun a w) a := by
  cases a with
  | control p r => exact keeps_endRun s (.control p r) w
  | strand p r k =>
    unfold State.leaveRun
    dsimp only
    split
    · exact keeps_endRun s _ w
    · exact keeps_modStrand s (fun _ => rfl) (fun _ => rfl) (fun _ => rfl) (fun _ => rfl) (fun _ => rfl) (fun _ => .inl rfl) fun _ => .inr rfl

/-- A strand that leaves its stream where it stands. -/
theorem keeps_leaveStrand (s : State) (p r k : Nat) (st : StrandState) :
    Keeps s (s.leaveStrand p r k st (s.strand p r k).thread.pc) (.strand p r k) := by
  refine (keeps_leaveRun s (.strand p r k) false).trans ?_
  have keep := keeps_leaveRun s (.strand p r k) false
  generalize hu : s.leaveRun (.strand p r k) false = u at keep ⊢
  have hfr : Frame u (s.leaveStrand p r k st (s.strand p r k).thread.pc) (.strand p r k) [] := by
    rw [State.leaveStrand, hu]
    exact frame_strand (fun _ => rfl) (fun _ => rfl) (fun _ => rfl) fun _ => rfl
  by_cases h : s.has (.strand p r k)
  · have hs := keep.has h
    have ht := State.strand_modStrand_same u p r k (fun t =>
      { t with state := st, qblk := false, skip := false,
               thread := { t.thread with pc := (s.strand p r k).thread.pc, waiting := none, patch := none } })
      hs.1 hs.2.1 hs.2.2
    rw [State.leaveStrand, hu] at hfr ⊢
    refine ⟨hfr, fun _ => ?_, fun _ => ?_, fun _ => ?_, fun _ => ?_⟩
    · exact (has_modRow _ p r (fun w => { w with strands := w.strands.modify k _ }) (fun w => by simp) _).2 hs
    · exact (congrArg (fun t : Strand => t.thread.pc) ht).trans (keep.pc h).symm
    · exact .inr (congrArg (fun t : Strand => t.thread.waiting) ht)
    · have h1 := congrArg (fun t : Strand => t.thread.run.owed) ht
      exact .inl h1
  · have hn : ¬ u.has (.strand p r k) := by
      rw [← hu]
      intro e
      apply h
      unfold State.leaveRun at e
      dsimp only at e
      split at e
      · exact (has_endRun _ _ _ _).1 e
      · exact (has_modThread _ _ _ _).1 e
    exact ⟨hfr, fun e => absurd e hn, fun e => absurd e hn, fun e => absurd e hn, fun e => absurd e hn⟩

theorem keeps_arriveCheck (s : State) (p r k : Nat) : Keeps s (s.arriveCheck p r k) (.strand p r k) := by
  unfold State.arriveCheck
  dsimp only
  split
  · exact keeps_leaveStrand s p r k .held
  · exact Keeps.refl _ _

theorem keeps_nextGroup (s : State) (p r k n : Nat) :
    Keeps s (s.modRow p r fun w => { w with nextGroup := n }) (.strand p r k) := by
  refine ⟨frame_progress (a := .strand p r k) (fun _ => rfl) (fun _ => rfl) (fun _ => rfl) (fun _ => rfl) fun _ _ => ⟨rfl, rfl, rfl⟩,
    fun e => ?_, fun _ => ?_, fun _ => ?_, fun _ => ?_⟩
  · rw [has_modRow]
    · exact e
    · intro _; rfl
  · rw [thread_modRow] <;> intros <;> rfl
  · rw [thread_modRow] <;> intros <;> (try exact .inl rfl) <;> rfl
  · rw [thread_modRow] <;> intros <;> (try exact .inl rfl) <;> rfl

theorem keeps_release (s : State) (p r k : Nat) (l : BitVec 48) : Keeps s (s.release p r l) (.strand p r k) := by
  unfold State.release
  dsimp only
  split
  · generalize s.oneSnapshot p r _ = keep
    unfold State.formGroup
    dsimp only
    have h : ∀ (g : Nat) (m : List Nat) (u : State), Keeps u (m.foldl (fun s k => s.modStrand p r k fun t =>
        { t with leash := 0, thread := { t.thread with run := Run.empty, waiting := none,
                                                       line := if keep then t.thread.line else none },
                 state := .lockstep, group := g }) u) (.strand p r k) := by
      intro g m
      induction m with
      | nil => exact fun u => Keeps.refl _ _
      | cons j m ih =>
        intro u
        refine Keeps.trans ?_ (ih _)
        exact keeps_modStrand u (fun _ => rfl) (fun _ => rfl) (fun _ => rfl) (fun _ => rfl) (fun _ => rfl) (fun _ => .inr rfl) fun _ => .inr rfl
    refine Keeps.trans ?_ (keeps_nextGroup _ p r k _)
    exact h _ _ s
  · exact Keeps.refl _ _

theorem keeps_releaseAll (s : State) (p r k : Nat) : Keeps s (s.releaseAll p r) (.strand p r k) := by
  unfold State.releaseAll
  generalize ((s.row p r).strands.map fun t => t.leash).eraseDups = l
  induction l generalizing s with
  | nil => exact Keeps.refl _ _
  | cons x l ih => exact (keeps_release s p r k x).trans (ih _)

/-! ## An instruction that goes on -/

/-- The state `t` in which thread `a` has completed its instruction and gone on: nothing but progress has changed since `s`. -/
structure Went (s t : State) (a : Agent) (npc : BitVec 48) : Prop extends After1 s t a npc where
  frame : Frame s t a []

theorem After1.keeps {s t u : State} {a : Agent} {npc : BitVec 48} (h : After1 s t a npc) (k : Keeps t u a) :
    After1 s u a npc :=
  ⟨⟨(k.pc h.has).trans h.pc, by rcases k.idle h.has with e | e <;> simp [e, h.idle]⟩, k.has h.has, by
    rcases k.owed h.has with e | e
    · rw [e]; exact h.owed
    · exact .inr e⟩

/-- An instruction whose outcome is to go on at `npc` completes. -/
theorem issue_res {i : Form} {g : Guard} {f : State → Agent → Res} {s s' : State} {a : Agent} {npc : BitVec 48}
    (hr : Ready s a) (hres : checkedRes i g f s a = .done s' (.go npc)) (hh : s'.has a) :
    ∃ t, issue i g f s = .next t ∧ Went s' t a npc := by
  unfold issue
  rw [hr.issuer]
  cases a with
  | control p r =>
    refine ⟨_, rfl, ?_⟩
    unfold controlStep
    rw [hres]
    exact ⟨retire_goes hh npc, frame_retire _ _ _⟩
  | strand p r k =>
    refine ⟨_, rfl, ?_⟩
    have hm : memberRes i g f s (.strand p r k) = .done s' (.go npc) := by
      unfold memberRes
      split
      · rename_i h; exact absurd h (hr.alone.2.2 _)
      · exact hres
    have he : groupEffects i g f p r [k] s = (s', [(k, .go npc)], []) := by
      simp only [groupEffects, hm]
    unfold groupStep
    rw [hr.alone.1]
    dsimp only
    rw [he]
    have h1 := retire_goes hh npc
    have hk := (keeps_arriveCheck (s'.retire (.strand p r k) npc) p r k).trans (keeps_releaseAll _ p r k)
    simp only [disagree, List.any_nil, Bool.and_false, List.foldl_cons, List.foldl_nil, State.moveStrand,
      State.finishStrand, Bool.false_eq_true, if_false]
    exact ⟨h1.keeps hk, (frame_retire _ _ _).andThen hk.frame⟩

/-- An instruction that passes the checks of R67, whose guard is on and whose effect goes on at `npc`, completes. -/
theorem issue_go {i : Form} {g : Guard} {f : State → Agent → Res} {s s' : State} {a : Agent} {npc : BitVec 48}
    (hr : Ready s a) (hc : issueCheck i s a = none) (hg : s.guardOn a g = true) (hf : f s a = .done s' (.go npc))
    (hh : s'.has a) : ∃ t, issue i g f s = .next t ∧ Went s' t a npc :=
  issue_res hr (by simp only [checkedRes, hc, hr.free, hg, if_true, hf]) hh

/-- A suppressed instruction (R55) completes with no effect. -/
theorem issue_off {i : Form} {g : Guard} {f : State → Agent → Res} {s : State} {a : Agent} (hr : Ready s a)
    (hc : issueCheck i s a = none) (hg : s.guardOn a g = false) : ∃ t, issue i g f s = .next t ∧ Went s t a s.next :=
  issue_res hr (by simp [checkedRes, hc, hr.free, hg]) hr.has

end Sys2Proof.Machine
end

