-- ==== Sys2Proof/Laws/Parity.lean ====
section
/-! SUPPORT. The parity of HBM (R407, R408): a line rebuilt from the rest of its stripe is the line as it was stored. -/
namespace Sys2Proof.Machine

set_option Elab.async false

/-- The XOR of a list with one of its members taken out leaves that member. -/
theorem State.xorStored_erase (s : State) {line : Nat} : ∀ {l : List Nat}, line ∈ l →
    s.xorStored l ^^^ s.xorStored (l.erase line) = s.stored line
  | [], h => absurd h (by simp)
  | x :: l, h => by
    by_cases hx : x = line
    · subst hx
      simp only [List.erase_cons_head, State.xorStored, List.foldr_cons]
      rw [Nat.xor_assoc, Nat.xor_self, Nat.xor_zero]
    · have hm : line ∈ l := by
        rcases List.mem_cons.1 h with e | e
        · exact absurd e.symm hx
        · exact e
      have ih := State.xorStored_erase s hm
      rw [List.erase_cons_tail (by simpa using hx)]
      simp only [State.xorStored, List.foldr_cons] at ih ⊢
      rw [← ih, Nat.xor_assoc, Nat.xor_comm (s.stored x), Nat.xor_assoc, Nat.xor_assoc, Nat.xor_comm (s.stored x),
        Nat.xor_assoc, Nat.xor_self, Nat.xor_zero]

/-- A line is among the data lines of its stripe, which its own stack holds. -/
theorem mem_stripeLines (line : Nat) : line ∈ stripeLines (lineChannel line).2 (stripeOf line) := by
  have hk : (lineChannel line).1 < 8 := by simp only [lineChannel]; omega
  refine List.mem_map.2 ⟨(lineChannel line).1, List.mem_filter.2 ⟨List.mem_range.2 hk, decide_eq_true ?_⟩, ?_⟩
  · simp only [parityStack, stripeOf]
    split <;> omega
  · simp only [stripeLine, stripeOf]
    split
    · rename_i h
      rw [if_pos (by omega)]
      simp only [lineChannel] at hk ⊢
      omega
    · rename_i h
      rw [if_neg (by omega)]
      simp only [lineChannel] at hk ⊢
      omega

/-- What is rebuilt of a line is what was stored of it. -/
theorem State.rebuilt_eq (s : State) (line : Nat) : s.rebuilt line = s.stored line :=
  s.xorStored_erase (mem_stripeLines line)

end Sys2Proof.Machine
end

