-- ==== Sys2Proof/Laws/PerInstr.lean ====
section
/-! SUPPORT. One lemma per instruction: the fields its encoding table gives it are read back as that instruction (R69, R72). -/
namespace Sys2Proof.Laws.Encoding

set_option Elab.async false

/-- The fields that encode a well-formed instruction select that instruction and hold its operands (R69). Events and commands
have no fields. -/
def Statement (i : Instr) : Prop := ∀ e : Enc, i.wf = true → i.enc = some e → ofEnc e = some i

theorem nop : Statement .nop := by intro e _ h; cases h; rfl
theorem stop : Statement .stop := by intro e _ h; cases h; rfl
theorem halt : Statement .halt := by intro e _ h; cases h; rfl
theorem heel : Statement .heel := by intro e _ h; cases h; rfl
theorem rwait : Statement .rwait := by intro e _ h; cases h; rfl
theorem brk : Statement .brk := by intro e _ h; cases h; rfl
theorem tret : Statement .tret := by intro e _ h; cases h; rfl
theorem vdrainLd : Statement .vdrainLd := by intro e _ h; cases h; rfl
theorem vdrainSt : Statement .vdrainSt := by intro e _ h; cases h; rfl
theorem vdrain : Statement .vdrain := by intro e _ h; cases h; rfl
theorem txabort : Statement .txabort := by intro e _ h; cases h; rfl
theorem add (d : BitVec 6) (a : BitVec 6) (b : BitVec 6) : Statement (.add d a b) := by intro e _ h; cases h; rfl
theorem sub (d : BitVec 6) (a : BitVec 6) (b : BitVec 6) : Statement (.sub d a b) := by intro e _ h; cases h; rfl
theorem and (d : BitVec 6) (a : BitVec 6) (b : BitVec 6) : Statement (.and d a b) := by intro e _ h; cases h; rfl
theorem or (d : BitVec 6) (a : BitVec 6) (b : BitVec 6) : Statement (.or d a b) := by intro e _ h; cases h; rfl
theorem xor (d : BitVec 6) (a : BitVec 6) (b : BitVec 6) : Statement (.xor d a b) := by intro e _ h; cases h; rfl
theorem andn (d : BitVec 6) (a : BitVec 6) (b : BitVec 6) : Statement (.andn d a b) := by intro e _ h; cases h; rfl
theorem sll (d : BitVec 6) (a : BitVec 6) (b : BitVec 6) : Statement (.sll d a b) := by intro e _ h; cases h; rfl
theorem srl (d : BitVec 6) (a : BitVec 6) (b : BitVec 6) : Statement (.srl d a b) := by intro e _ h; cases h; rfl
theorem sra (d : BitVec 6) (a : BitVec 6) (b : BitVec 6) : Statement (.sra d a b) := by intro e _ h; cases h; rfl
theorem rol (d : BitVec 6) (a : BitVec 6) (b : BitVec 6) : Statement (.rol d a b) := by intro e _ h; cases h; rfl
theorem min (d : BitVec 6) (a : BitVec 6) (b : BitVec 6) : Statement (.min d a b) := by intro e _ h; cases h; rfl
theorem max (d : BitVec 6) (a : BitVec 6) (b : BitVec 6) : Statement (.max d a b) := by intro e _ h; cases h; rfl
theorem minu (d : BitVec 6) (a : BitVec 6) (b : BitVec 6) : Statement (.minu d a b) := by intro e _ h; cases h; rfl
theorem maxu (d : BitVec 6) (a : BitVec 6) (b : BitVec 6) : Statement (.maxu d a b) := by intro e _ h; cases h; rfl
theorem addw (d : BitVec 6) (a : BitVec 6) (b : BitVec 6) : Statement (.addw d a b) := by intro e _ h; cases h; rfl
theorem subw (d : BitVec 6) (a : BitVec 6) (b : BitVec 6) : Statement (.subw d a b) := by intro e _ h; cases h; rfl
theorem mul (d : BitVec 6) (a : BitVec 6) (b : BitVec 6) : Statement (.mul d a b) := by intro e _ h; cases h; rfl
theorem mulh (d : BitVec 6) (a : BitVec 6) (b : BitVec 6) : Statement (.mulh d a b) := by intro e _ h; cases h; rfl
theorem mulhu (d : BitVec 6) (a : BitVec 6) (b : BitVec 6) : Statement (.mulhu d a b) := by intro e _ h; cases h; rfl
theorem div (d : BitVec 6) (a : BitVec 6) (b : BitVec 6) : Statement (.div d a b) := by intro e _ h; cases h; rfl
theorem divu (d : BitVec 6) (a : BitVec 6) (b : BitVec 6) : Statement (.divu d a b) := by intro e _ h; cases h; rfl
theorem rem (d : BitVec 6) (a : BitVec 6) (b : BitVec 6) : Statement (.rem d a b) := by intro e _ h; cases h; rfl
theorem remu (d : BitVec 6) (a : BitVec 6) (b : BitVec 6) : Statement (.remu d a b) := by intro e _ h; cases h; rfl
theorem mulw (d : BitVec 6) (a : BitVec 6) (b : BitVec 6) : Statement (.mulw d a b) := by intro e _ h; cases h; rfl
theorem clz (d : BitVec 6) (a : BitVec 6) : Statement (.clz d a) := by intro e _ h; cases h; rfl
theorem ctz (d : BitVec 6) (a : BitVec 6) : Statement (.ctz d a) := by intro e _ h; cases h; rfl
theorem popc (d : BitVec 6) (a : BitVec 6) : Statement (.popc d a) := by intro e _ h; cases h; rfl
theorem bswap (d : BitVec 6) (a : BitVec 6) : Statement (.bswap d a) := by intro e _ h; cases h; rfl
theorem brev (d : BitVec 6) (a : BitVec 6) : Statement (.brev d a) := by intro e _ h; cases h; rfl
theorem sxb (d : BitVec 6) (a : BitVec 6) : Statement (.sxb d a) := by intro e _ h; cases h; rfl
theorem sxh (d : BitVec 6) (a : BitVec 6) : Statement (.sxh d a) := by intro e _ h; cases h; rfl
theorem sxw (d : BitVec 6) (a : BitVec 6) : Statement (.sxw d a) := by intro e _ h; cases h; rfl
theorem zxw (d : BitVec 6) (a : BitVec 6) : Statement (.zxw d a) := by intro e _ h; cases h; rfl
theorem addi (d : BitVec 6) (a : BitVec 6) (imm : BitVec 22) : Statement (.addi d a imm) := by
  intro e _ h; cases h; simp [ofEnc, ofEnc04]
theorem andi (d : BitVec 6) (a : BitVec 6) (imm : BitVec 22) : Statement (.andi d a imm) := by
  intro e _ h; cases h; simp [ofEnc, ofEnc04]
theorem ori (d : BitVec 6) (a : BitVec 6) (imm : BitVec 22) : Statement (.ori d a imm) := by
  intro e _ h; cases h; simp [ofEnc, ofEnc04]
theorem xori (d : BitVec 6) (a : BitVec 6) (imm : BitVec 22) : Statement (.xori d a imm) := by
  intro e _ h; cases h; simp [ofEnc, ofEnc04]
theorem slli (d : BitVec 6) (a : BitVec 6) (sh : BitVec 6) : Statement (.slli d a sh) := by
  intro e _ h; cases h; simp [ofEnc, ofEnc04]
theorem srli (d : BitVec 6) (a : BitVec 6) (sh : BitVec 6) : Statement (.srli d a sh) := by
  intro e _ h; cases h; simp [ofEnc, ofEnc04]
theorem srai (d : BitVec 6) (a : BitVec 6) (sh : BitVec 6) : Statement (.srai d a sh) := by
  intro e _ h; cases h; simp [ofEnc, ofEnc04]
theorem roli (d : BitVec 6) (a : BitVec 6) (sh : BitVec 6) : Statement (.roli d a sh) := by
  intro e _ h; cases h; simp [ofEnc, ofEnc04]
theorem li (d : BitVec 6) (imm : BitVec 38) : Statement (.li d imm) := by intro e _ h; cases h; rfl
theorem lhi (d : BitVec 6) (imm : BitVec 22) : Statement (.lhi d imm) := by intro e _ h; cases h; simp [ofEnc, ofEnc06]
theorem sel (gd : Guard) (d : BitVec 6) (a : BitVec 6) (b : BitVec 6) : Statement (.sel gd d a b) := by
  intro e _ h; cases h; rfl
theorem adda (gd : Guard) (d : BitVec 6) (a : BitVec 6) (b : BitVec 6) (sh : BitVec 2) : Statement (.adda gd d a b sh) := by
  intro e _ h; cases h; simp [ofEnc, ofEnc08]
theorem ceq (pd : BitVec 5) (a : BitVec 6) (b : BitVec 6) : Statement (.ceq pd a b) := by
  intro e _ h; cases h; simp [ofEnc, ofEnc09]
theorem cne (pd : BitVec 5) (a : BitVec 6) (b : BitVec 6) : Statement (.cne pd a b) := by
  intro e _ h; cases h; simp [ofEnc, ofEnc09]
theorem clt (pd : BitVec 5) (a : BitVec 6) (b : BitVec 6) : Statement (.clt pd a b) := by
  intro e _ h; cases h; simp [ofEnc, ofEnc09]
theorem cge (pd : BitVec 5) (a : BitVec 6) (b : BitVec 6) : Statement (.cge pd a b) := by
  intro e _ h; cases h; simp [ofEnc, ofEnc09]
theorem cltu (pd : BitVec 5) (a : BitVec 6) (b : BitVec 6) : Statement (.cltu pd a b) := by
  intro e _ h; cases h; simp [ofEnc, ofEnc09]
theorem cgeu (pd : BitVec 5) (a : BitVec 6) (b : BitVec 6) : Statement (.cgeu pd a b) := by
  intro e _ h; cases h; simp [ofEnc, ofEnc09]
theorem ceqi (pd : BitVec 5) (a : BitVec 6) (imm : BitVec 22) : Statement (.ceqi pd a imm) := by
  intro e _ h; cases h; simp [ofEnc, ofEnc0A]
theorem cnei (pd : BitVec 5) (a : BitVec 6) (imm : BitVec 22) : Statement (.cnei pd a imm) := by
  intro e _ h; cases h; simp [ofEnc, ofEnc0A]
theorem clti (pd : BitVec 5) (a : BitVec 6) (imm : BitVec 22) : Statement (.clti pd a imm) := by
  intro e _ h; cases h; simp [ofEnc, ofEnc0A]
theorem cgei (pd : BitVec 5) (a : BitVec 6) (imm : BitVec 22) : Statement (.cgei pd a imm) := by
  intro e _ h; cases h; simp [ofEnc, ofEnc0A]
theorem cltui (pd : BitVec 5) (a : BitVec 6) (imm : BitVec 22) : Statement (.cltui pd a imm) := by
  intro e _ h; cases h; simp [ofEnc, ofEnc0A]
theorem cgeui (pd : BitVec 5) (a : BitVec 6) (imm : BitVec 22) : Statement (.cgeui pd a imm) := by
  intro e _ h; cases h; simp [ofEnc, ofEnc0A]
theorem pand (pd : BitVec 5) (pa : BitVec 5) (pb : BitVec 5) : Statement (.pand pd pa pb) := by
  intro e _ h; cases h; simp [ofEnc, ofEnc0B]
theorem por (pd : BitVec 5) (pa : BitVec 5) (pb : BitVec 5) : Statement (.por pd pa pb) := by
  intro e _ h; cases h; simp [ofEnc, ofEnc0B]
theorem pxor (pd : BitVec 5) (pa : BitVec 5) (pb : BitVec 5) : Statement (.pxor pd pa pb) := by
  intro e _ h; cases h; simp [ofEnc, ofEnc0B]
theorem pandn (pd : BitVec 5) (pa : BitVec 5) (pb : BitVec 5) : Statement (.pandn pd pa pb) := by
  intro e _ h; cases h; simp [ofEnc, ofEnc0B]
theorem pnot (pd : BitVec 5) (pa : BitVec 5) : Statement (.pnot pd pa) := by intro e _ h; cases h; simp [ofEnc, ofEnc0B]
theorem pmov (pd : BitVec 5) (pa : BitVec 5) : Statement (.pmov pd pa) := by intro e _ h; cases h; simp [ofEnc, ofEnc0B]
theorem ld8 (d : BitVec 6) (a : BitVec 6) (imm : BitVec 22) : Statement (.ld8 d a imm) := by
  intro e _ h; cases h; simp [ofEnc, ofEnc10]
theorem ld16 (d : BitVec 6) (a : BitVec 6) (imm : BitVec 22) : Statement (.ld16 d a imm) := by
  intro e _ h; cases h; simp [ofEnc, ofEnc10]
theorem ld32 (d : BitVec 6) (a : BitVec 6) (imm : BitVec 22) : Statement (.ld32 d a imm) := by
  intro e _ h; cases h; simp [ofEnc, ofEnc10]
theorem ld64 (d : BitVec 6) (a : BitVec 6) (imm : BitVec 22) : Statement (.ld64 d a imm) := by
  intro e _ h; cases h; simp [ofEnc, ofEnc10]
theorem ld8s (d : BitVec 6) (a : BitVec 6) (imm : BitVec 22) : Statement (.ld8s d a imm) := by
  intro e _ h; cases h; simp [ofEnc, ofEnc10]
theorem ld16s (d : BitVec 6) (a : BitVec 6) (imm : BitVec 22) : Statement (.ld16s d a imm) := by
  intro e _ h; cases h; simp [ofEnc, ofEnc10]
theorem ld32s (d : BitVec 6) (a : BitVec 6) (imm : BitVec 22) : Statement (.ld32s d a imm) := by
  intro e _ h; cases h; simp [ofEnc, ofEnc10]
theorem st8 (d : BitVec 6) (a : BitVec 6) (imm : BitVec 22) : Statement (.st8 d a imm) := by
  intro e _ h; cases h; simp [ofEnc, ofEnc11]
theorem st16 (d : BitVec 6) (a : BitVec 6) (imm : BitVec 22) : Statement (.st16 d a imm) := by
  intro e _ h; cases h; simp [ofEnc, ofEnc11]
theorem st32 (d : BitVec 6) (a : BitVec 6) (imm : BitVec 22) : Statement (.st32 d a imm) := by
  intro e _ h; cases h; simp [ofEnc, ofEnc11]
theorem st64 (d : BitVec 6) (a : BitVec 6) (imm : BitVec 22) : Statement (.st64 d a imm) := by
  intro e _ h; cases h; simp [ofEnc, ofEnc11]
theorem ldl8 (d : BitVec 6) (a : BitVec 6) (imm : BitVec 22) : Statement (.ldl8 d a imm) := by
  intro e _ h; cases h; simp [ofEnc, ofEnc12]
theorem ldl16 (d : BitVec 6) (a : BitVec 6) (imm : BitVec 22) : Statement (.ldl16 d a imm) := by
  intro e _ h; cases h; simp [ofEnc, ofEnc12]
theorem ldl32 (d : BitVec 6) (a : BitVec 6) (imm : BitVec 22) : Statement (.ldl32 d a imm) := by
  intro e _ h; cases h; simp [ofEnc, ofEnc12]
theorem ldl64 (d : BitVec 6) (a : BitVec 6) (imm : BitVec 22) : Statement (.ldl64 d a imm) := by
  intro e _ h; cases h; simp [ofEnc, ofEnc12]
theorem stl8 (d : BitVec 6) (a : BitVec 6) (imm : BitVec 22) : Statement (.stl8 d a imm) := by
  intro e _ h; cases h; simp [ofEnc, ofEnc13]
theorem stl16 (d : BitVec 6) (a : BitVec 6) (imm : BitVec 22) : Statement (.stl16 d a imm) := by
  intro e _ h; cases h; simp [ofEnc, ofEnc13]
theorem stl32 (d : BitVec 6) (a : BitVec 6) (imm : BitVec 22) : Statement (.stl32 d a imm) := by
  intro e _ h; cases h; simp [ofEnc, ofEnc13]
theorem stl64 (d : BitVec 6) (a : BitVec 6) (imm : BitVec 22) : Statement (.stl64 d a imm) := by
  intro e _ h; cases h; simp [ofEnc, ofEnc13]
theorem ldv8 (d : BitVec 6) (a : BitVec 6) (imm : BitVec 22) : Statement (.ldv8 d a imm) := by
  intro e _ h; cases h; simp [ofEnc, ofEnc14]
theorem ldv16 (d : BitVec 6) (a : BitVec 6) (imm : BitVec 22) : Statement (.ldv16 d a imm) := by
  intro e _ h; cases h; simp [ofEnc, ofEnc14]
theorem ldv32 (d : BitVec 6) (a : BitVec 6) (imm : BitVec 22) : Statement (.ldv32 d a imm) := by
  intro e _ h; cases h; simp [ofEnc, ofEnc14]
theorem ldv64 (d : BitVec 6) (a : BitVec 6) (imm : BitVec 22) : Statement (.ldv64 d a imm) := by
  intro e _ h; cases h; simp [ofEnc, ofEnc14]
theorem br (neg : Bool) (pa : BitVec 5) (imm : BitVec 22) : Statement (.br neg pa imm) := by
  intro e w h; cases h; simp [ofEnc, ofEnc18]; clear w; decide +revert
theorem jmp (imm : BitVec 38) : Statement (.jmp imm) := by intro e _ h; cases h; rfl
theorem call (d : BitVec 6) (imm : BitVec 38) : Statement (.call d imm) := by intro e _ h; cases h; rfl
theorem jmpr (a : BitVec 6) : Statement (.jmpr a) := by intro e _ h; cases h; rfl
theorem callr (d : BitVec 6) (a : BitVec 6) : Statement (.callr d a) := by intro e _ h; cases h; rfl
theorem ret (a : BitVec 6) : Statement (.ret a) := by intro e _ h; cases h; rfl
theorem fetch (imm : BitVec 38) : Statement (.fetch imm) := by intro e _ h; cases h; rfl
theorem fetchr (a : BitVec 6) : Statement (.fetchr a) := by intro e _ h; cases h; rfl
theorem leash (imm : BitVec 38) : Statement (.leash imm) := by intro e _ h; cases h; rfl
theorem leashr (a : BitVec 6) : Statement (.leashr a) := by intro e _ h; cases h; rfl
theorem qsendQ0 (d : BitVec 6) : Statement (.qsendQ0 d) := by intro e _ h; cases h; rfl
theorem qsendQ1 (d : BitVec 6) : Statement (.qsendQ1 d) := by intro e _ h; cases h; rfl
theorem qrecvQ0 (d : BitVec 6) : Statement (.qrecvQ0 d) := by intro e _ h; cases h; rfl
theorem qrecvQ1 (d : BitVec 6) : Statement (.qrecvQ1 d) := by intro e _ h; cases h; rfl
theorem xqpushQ0 (xd : BitVec 5) : Statement (.xqpushQ0 xd) := by intro e _ h; cases h; simp [ofEnc, ofEnc1B]
theorem xqpushQ1 (xd : BitVec 5) : Statement (.xqpushQ1 xd) := by intro e _ h; cases h; simp [ofEnc, ofEnc1B]
theorem xqpopQ0 (xd : BitVec 5) : Statement (.xqpopQ0 xd) := by intro e _ h; cases h; simp [ofEnc, ofEnc1B]
theorem xqpopQ1 (xd : BitVec 5) : Statement (.xqpopQ1 xd) := by intro e _ h; cases h; simp [ofEnc, ofEnc1B]
theorem queueWaitComplete (t : Agent) : Statement (.queueWaitComplete t) := by intro e _ h; cases h
theorem faddS (gd : Guard) (ex : Exc) (rm : BitVec 4) (d : BitVec 6) (a : BitVec 6) (b : BitVec 6) : Statement (.faddS gd ex rm d a b) := by
  intro e _ h; cases h; rfl
theorem fsubS (gd : Guard) (ex : Exc) (rm : BitVec 4) (d : BitVec 6) (a : BitVec 6) (b : BitVec 6) : Statement (.fsubS gd ex rm d a b) := by
  intro e _ h; cases h; rfl
theorem fmulS (gd : Guard) (ex : Exc) (rm : BitVec 4) (d : BitVec 6) (a : BitVec 6) (b : BitVec 6) : Statement (.fmulS gd ex rm d a b) := by
  intro e _ h; cases h; rfl
theorem fdivS (gd : Guard) (ex : Exc) (rm : BitVec 4) (d : BitVec 6) (a : BitVec 6) (b : BitVec 6) : Statement (.fdivS gd ex rm d a b) := by
  intro e _ h; cases h; rfl
theorem fminS (gd : Guard) (ex : Exc) (d : BitVec 6) (a : BitVec 6) (b : BitVec 6) : Statement (.fminS gd ex d a b) := by
  intro e _ h; cases h; rfl
theorem fmaxS (gd : Guard) (ex : Exc) (d : BitVec 6) (a : BitVec 6) (b : BitVec 6) : Statement (.fmaxS gd ex d a b) := by
  intro e _ h; cases h; rfl
theorem fsqrtS (gd : Guard) (ex : Exc) (rm : BitVec 4) (d : BitVec 6) (a : BitVec 6) : Statement (.fsqrtS gd ex rm d a) := by
  intro e _ h; cases h; rfl
theorem fabsS (gd : Guard) (ex : Exc) (d : BitVec 6) (a : BitVec 6) : Statement (.fabsS gd ex d a) := by
  intro e _ h; cases h; rfl
theorem fnegS (gd : Guard) (ex : Exc) (d : BitVec 6) (a : BitVec 6) : Statement (.fnegS gd ex d a) := by
  intro e _ h; cases h; rfl
theorem faddD (gd : Guard) (ex : Exc) (rm : BitVec 4) (d : BitVec 6) (a : BitVec 6) (b : BitVec 6) : Statement (.faddD gd ex rm d a b) := by
  intro e _ h; cases h; rfl
theorem fsubD (gd : Guard) (ex : Exc) (rm : BitVec 4) (d : BitVec 6) (a : BitVec 6) (b : BitVec 6) : Statement (.fsubD gd ex rm d a b) := by
  intro e _ h; cases h; rfl
theorem fmulD (gd : Guard) (ex : Exc) (rm : BitVec 4) (d : BitVec 6) (a : BitVec 6) (b : BitVec 6) : Statement (.fmulD gd ex rm d a b) := by
  intro e _ h; cases h; rfl
theorem fdivD (gd : Guard) (ex : Exc) (rm : BitVec 4) (d : BitVec 6) (a : BitVec 6) (b : BitVec 6) : Statement (.fdivD gd ex rm d a b) := by
  intro e _ h; cases h; rfl
theorem fminD (gd : Guard) (ex : Exc) (d : BitVec 6) (a : BitVec 6) (b : BitVec 6) : Statement (.fminD gd ex d a b) := by
  intro e _ h; cases h; rfl
theorem fmaxD (gd : Guard) (ex : Exc) (d : BitVec 6) (a : BitVec 6) (b : BitVec 6) : Statement (.fmaxD gd ex d a b) := by
  intro e _ h; cases h; rfl
theorem fsqrtD (gd : Guard) (ex : Exc) (rm : BitVec 4) (d : BitVec 6) (a : BitVec 6) : Statement (.fsqrtD gd ex rm d a) := by
  intro e _ h; cases h; rfl
theorem fabsD (gd : Guard) (ex : Exc) (d : BitVec 6) (a : BitVec 6) : Statement (.fabsD gd ex d a) := by
  intro e _ h; cases h; rfl
theorem fnegD (gd : Guard) (ex : Exc) (d : BitVec 6) (a : BitVec 6) : Statement (.fnegD gd ex d a) := by
  intro e _ h; cases h; rfl
theorem ffmaS (gd : Guard) (ex : Exc) (rm : BitVec 4) (d : BitVec 6) (a : BitVec 6) (b : BitVec 6) (c : BitVec 6) : Statement (.ffmaS gd ex rm d a b c) := by
  intro e _ h; cases h; rfl
theorem ffmsS (gd : Guard) (ex : Exc) (rm : BitVec 4) (d : BitVec 6) (a : BitVec 6) (b : BitVec 6) (c : BitVec 6) : Statement (.ffmsS gd ex rm d a b c) := by
  intro e _ h; cases h; rfl
theorem ffnmaS (gd : Guard) (ex : Exc) (rm : BitVec 4) (d : BitVec 6) (a : BitVec 6) (b : BitVec 6) (c : BitVec 6) : Statement (.ffnmaS gd ex rm d a b c) := by
  intro e _ h; cases h; rfl
theorem ffmaD (gd : Guard) (ex : Exc) (rm : BitVec 4) (d : BitVec 6) (a : BitVec 6) (b : BitVec 6) (c : BitVec 6) : Statement (.ffmaD gd ex rm d a b c) := by
  intro e _ h; cases h; rfl
theorem ffmsD (gd : Guard) (ex : Exc) (rm : BitVec 4) (d : BitVec 6) (a : BitVec 6) (b : BitVec 6) (c : BitVec 6) : Statement (.ffmsD gd ex rm d a b c) := by
  intro e _ h; cases h; rfl
theorem ffnmaD (gd : Guard) (ex : Exc) (rm : BitVec 4) (d : BitVec 6) (a : BitVec 6) (b : BitVec 6) (c : BitVec 6) : Statement (.ffnmaD gd ex rm d a b c) := by
  intro e _ h; cases h; rfl
theorem feqS (pd : BitVec 5) (a : BitVec 6) (b : BitVec 6) : Statement (.feqS pd a b) := by
  intro e _ h; cases h; simp [ofEnc, ofEnc23]
theorem fltS (pd : BitVec 5) (a : BitVec 6) (b : BitVec 6) : Statement (.fltS pd a b) := by
  intro e _ h; cases h; simp [ofEnc, ofEnc23]
theorem fleS (pd : BitVec 5) (a : BitVec 6) (b : BitVec 6) : Statement (.fleS pd a b) := by
  intro e _ h; cases h; simp [ofEnc, ofEnc23]
theorem funordS (pd : BitVec 5) (a : BitVec 6) (b : BitVec 6) : Statement (.funordS pd a b) := by
  intro e _ h; cases h; simp [ofEnc, ofEnc23]
theorem feqD (pd : BitVec 5) (a : BitVec 6) (b : BitVec 6) : Statement (.feqD pd a b) := by
  intro e _ h; cases h; simp [ofEnc, ofEnc23]
theorem fltD (pd : BitVec 5) (a : BitVec 6) (b : BitVec 6) : Statement (.fltD pd a b) := by
  intro e _ h; cases h; simp [ofEnc, ofEnc23]
theorem fleD (pd : BitVec 5) (a : BitVec 6) (b : BitVec 6) : Statement (.fleD pd a b) := by
  intro e _ h; cases h; simp [ofEnc, ofEnc23]
theorem funordD (pd : BitVec 5) (a : BitVec 6) (b : BitVec 6) : Statement (.funordD pd a b) := by
  intro e _ h; cases h; simp [ofEnc, ofEnc23]
theorem cvtF64F32 (gd : Guard) (ex : Exc) (rm : BitVec 4) (d : BitVec 6) (a : BitVec 6) : Statement (.cvtF64F32 gd ex rm d a) := by
  intro e _ h; cases h; rfl
theorem cvtF32F64 (gd : Guard) (ex : Exc) (rm : BitVec 4) (d : BitVec 6) (a : BitVec 6) : Statement (.cvtF32F64 gd ex rm d a) := by
  intro e _ h; cases h; rfl
theorem cvtF32I64 (gd : Guard) (ex : Exc) (rm : BitVec 4) (d : BitVec 6) (a : BitVec 6) : Statement (.cvtF32I64 gd ex rm d a) := by
  intro e _ h; cases h; rfl
theorem cvtI64F32 (gd : Guard) (ex : Exc) (rm : BitVec 4) (d : BitVec 6) (a : BitVec 6) : Statement (.cvtI64F32 gd ex rm d a) := by
  intro e _ h; cases h; rfl
theorem cvtF64I64 (gd : Guard) (ex : Exc) (rm : BitVec 4) (d : BitVec 6) (a : BitVec 6) : Statement (.cvtF64I64 gd ex rm d a) := by
  intro e _ h; cases h; rfl
theorem cvtI64F64 (gd : Guard) (ex : Exc) (rm : BitVec 4) (d : BitVec 6) (a : BitVec 6) : Statement (.cvtI64F64 gd ex rm d a) := by
  intro e _ h; cases h; rfl
theorem cvtBf16F32 (gd : Guard) (ex : Exc) (rm : BitVec 4) (d : BitVec 6) (a : BitVec 6) : Statement (.cvtBf16F32 gd ex rm d a) := by
  intro e _ h; cases h; rfl
theorem cvtF32Bf16 (gd : Guard) (ex : Exc) (rm : BitVec 4) (d : BitVec 6) (a : BitVec 6) : Statement (.cvtF32Bf16 gd ex rm d a) := by
  intro e _ h; cases h; rfl
theorem cvtFp16F32 (gd : Guard) (ex : Exc) (rm : BitVec 4) (d : BitVec 6) (a : BitVec 6) : Statement (.cvtFp16F32 gd ex rm d a) := by
  intro e _ h; cases h; rfl
theorem cvtF32Fp16 (gd : Guard) (ex : Exc) (rm : BitVec 4) (d : BitVec 6) (a : BitVec 6) : Statement (.cvtF32Fp16 gd ex rm d a) := by
  intro e _ h; cases h; rfl
theorem cvtE4m3F32 (gd : Guard) (ex : Exc) (rm : BitVec 4) (d : BitVec 6) (a : BitVec 6) : Statement (.cvtE4m3F32 gd ex rm d a) := by
  intro e _ h; cases h; rfl
theorem cvtF32E4m3 (gd : Guard) (ex : Exc) (rm : BitVec 4) (d : BitVec 6) (a : BitVec 6) : Statement (.cvtF32E4m3 gd ex rm d a) := by
  intro e _ h; cases h; rfl
theorem cvtE5m2F32 (gd : Guard) (ex : Exc) (rm : BitVec 4) (d : BitVec 6) (a : BitVec 6) : Statement (.cvtE5m2F32 gd ex rm d a) := by
  intro e _ h; cases h; rfl
theorem cvtF32E5m2 (gd : Guard) (ex : Exc) (rm : BitVec 4) (d : BitVec 6) (a : BitVec 6) : Statement (.cvtF32E5m2 gd ex rm d a) := by
  intro e _ h; cases h; rfl
theorem cvtLgF32 (gd : Guard) (ex : Exc) (rm : BitVec 4) (d : BitVec 6) (a : BitVec 6) : Statement (.cvtLgF32 gd ex rm d a) := by
  intro e _ h; cases h; rfl
theorem cvtF32Lg (gd : Guard) (ex : Exc) (rm : BitVec 4) (d : BitVec 6) (a : BitVec 6) : Statement (.cvtF32Lg gd ex rm d a) := by
  intro e _ h; cases h; rfl
theorem getsr (d : BitVec 6) (a : BitVec 6) (b : BitVec 6) : Statement (.getsr d a b) := by
  intro e w h; cases h; simp [Instr.wf] at w; simp [ofEnc, ofEnc28]; exact fun ha => w.resolve_left fun n => n ha
theorem setsr (d : BitVec 6) (a : BitVec 6) (b : BitVec 6) : Statement (.setsr d a b) := by intro e _ h; cases h; rfl
theorem cpgo (d : BitVec 6) : Statement (.cpgo d) := by intro e _ h; cases h; rfl
theorem trap (a : BitVec 6) (b : BitVec 6) : Statement (.trap a b) := by intro e _ h; cases h; rfl
theorem rdcyc (d : BitVec 6) : Statement (.rdcyc d) := by intro e _ h; cases h; rfl
theorem rfetch (imm : BitVec 38) : Statement (.rfetch imm) := by intro e _ h; cases h; rfl
theorem rfetchIdem (imm : BitVec 38) : Statement (.rfetchIdem imm) := by intro e _ h; cases h; rfl
theorem rfetchr (xa : BitVec 5) : Statement (.rfetchr xa) := by intro e _ h; cases h; simp [ofEnc, ofEnc30]
theorem rfetchrIdem (xa : BitVec 5) : Statement (.rfetchrIdem xa) := by intro e _ h; cases h; simp [ofEnc, ofEnc30]
theorem setvl (xd : BitVec 5) (xa : BitVec 5) (vt : BitVec 5) : Statement (.setvl xd xa vt) := by
  intro e _ h; cases h; simp [ofEnc, ofEnc31]
theorem launch (xd : BitVec 5) (xa : BitVec 5) : Statement (.launch xd xa) := by intro e _ h; cases h; simp [ofEnc, ofEnc32]
theorem vadd (gd : Guard) (vd : BitVec 6) (va : BitVec 6) (vb : BitVec 6) : Statement (.vadd gd vd va vb) := by
  intro e _ h; cases h; rfl
theorem vsub (gd : Guard) (vd : BitVec 6) (va : BitVec 6) (vb : BitVec 6) : Statement (.vsub gd vd va vb) := by
  intro e _ h; cases h; rfl
theorem vmul (gd : Guard) (vd : BitVec 6) (va : BitVec 6) (vb : BitVec 6) : Statement (.vmul gd vd va vb) := by
  intro e _ h; cases h; rfl
theorem vmulh (gd : Guard) (vd : BitVec 6) (va : BitVec 6) (vb : BitVec 6) : Statement (.vmulh gd vd va vb) := by
  intro e _ h; cases h; rfl
theorem vand (gd : Guard) (vd : BitVec 6) (va : BitVec 6) (vb : BitVec 6) : Statement (.vand gd vd va vb) := by
  intro e _ h; cases h; rfl
theorem vor (gd : Guard) (vd : BitVec 6) (va : BitVec 6) (vb : BitVec 6) : Statement (.vor gd vd va vb) := by
  intro e _ h; cases h; rfl
theorem vxor (gd : Guard) (vd : BitVec 6) (va : BitVec 6) (vb : BitVec 6) : Statement (.vxor gd vd va vb) := by
  intro e _ h; cases h; rfl
theorem vsll (gd : Guard) (vd : BitVec 6) (va : BitVec 6) (vb : BitVec 6) : Statement (.vsll gd vd va vb) := by
  intro e _ h; cases h; rfl
theorem vsrl (gd : Guard) (vd : BitVec 6) (va : BitVec 6) (vb : BitVec 6) : Statement (.vsrl gd vd va vb) := by
  intro e _ h; cases h; rfl
theorem vsra (gd : Guard) (vd : BitVec 6) (va : BitVec 6) (vb : BitVec 6) : Statement (.vsra gd vd va vb) := by
  intro e _ h; cases h; rfl
theorem vmin (gd : Guard) (vd : BitVec 6) (va : BitVec 6) (vb : BitVec 6) : Statement (.vmin gd vd va vb) := by
  intro e _ h; cases h; rfl
theorem vmax (gd : Guard) (vd : BitVec 6) (va : BitVec 6) (vb : BitVec 6) : Statement (.vmax gd vd va vb) := by
  intro e _ h; cases h; rfl
theorem vminu (gd : Guard) (vd : BitVec 6) (va : BitVec 6) (vb : BitVec 6) : Statement (.vminu gd vd va vb) := by
  intro e _ h; cases h; rfl
theorem vmaxu (gd : Guard) (vd : BitVec 6) (va : BitVec 6) (vb : BitVec 6) : Statement (.vmaxu gd vd va vb) := by
  intro e _ h; cases h; rfl
theorem vadc (gd : Guard) (vd : BitVec 6) (va : BitVec 6) (vb : BitVec 6) (mc : BitVec 5) (mm : BitVec 5) : Statement (.vadc gd vd va vb mc mm) := by
  intro e _ h; cases h; simp [ofEnc, ofEnc40]
theorem vsbc (gd : Guard) (vd : BitVec 6) (va : BitVec 6) (vb : BitVec 6) (mc : BitVec 5) (mm : BitVec 5) : Statement (.vsbc gd vd va vb mc mm) := by
  intro e _ h; cases h; simp [ofEnc, ofEnc40]
theorem vaddVx (gd : Guard) (vd : BitVec 6) (va : BitVec 6) (xb : BitVec 5) : Statement (.vaddVx gd vd va xb) := by
  intro e _ h; cases h; simp [ofEnc, ofEnc41]
theorem vsubVx (gd : Guard) (vd : BitVec 6) (va : BitVec 6) (xb : BitVec 5) : Statement (.vsubVx gd vd va xb) := by
  intro e _ h; cases h; simp [ofEnc, ofEnc41]
theorem vmulVx (gd : Guard) (vd : BitVec 6) (va : BitVec 6) (xb : BitVec 5) : Statement (.vmulVx gd vd va xb) := by
  intro e _ h; cases h; simp [ofEnc, ofEnc41]
theorem vmulhVx (gd : Guard) (vd : BitVec 6) (va : BitVec 6) (xb : BitVec 5) : Statement (.vmulhVx gd vd va xb) := by
  intro e _ h; cases h; simp [ofEnc, ofEnc41]
theorem vandVx (gd : Guard) (vd : BitVec 6) (va : BitVec 6) (xb : BitVec 5) : Statement (.vandVx gd vd va xb) := by
  intro e _ h; cases h; simp [ofEnc, ofEnc41]
theorem vorVx (gd : Guard) (vd : BitVec 6) (va : BitVec 6) (xb : BitVec 5) : Statement (.vorVx gd vd va xb) := by
  intro e _ h; cases h; simp [ofEnc, ofEnc41]
theorem vxorVx (gd : Guard) (vd : BitVec 6) (va : BitVec 6) (xb : BitVec 5) : Statement (.vxorVx gd vd va xb) := by
  intro e _ h; cases h; simp [ofEnc, ofEnc41]
theorem vsllVx (gd : Guard) (vd : BitVec 6) (va : BitVec 6) (xb : BitVec 5) : Statement (.vsllVx gd vd va xb) := by
  intro e _ h; cases h; simp [ofEnc, ofEnc41]
theorem vsrlVx (gd : Guard) (vd : BitVec 6) (va : BitVec 6) (xb : BitVec 5) : Statement (.vsrlVx gd vd va xb) := by
  intro e _ h; cases h; simp [ofEnc, ofEnc41]
theorem vsraVx (gd : Guard) (vd : BitVec 6) (va : BitVec 6) (xb : BitVec 5) : Statement (.vsraVx gd vd va xb) := by
  intro e _ h; cases h; simp [ofEnc, ofEnc41]
theorem vminVx (gd : Guard) (vd : BitVec 6) (va : BitVec 6) (xb : BitVec 5) : Statement (.vminVx gd vd va xb) := by
  intro e _ h; cases h; simp [ofEnc, ofEnc41]
theorem vmaxVx (gd : Guard) (vd : BitVec 6) (va : BitVec 6) (xb : BitVec 5) : Statement (.vmaxVx gd vd va xb) := by
  intro e _ h; cases h; simp [ofEnc, ofEnc41]
theorem vminuVx (gd : Guard) (vd : BitVec 6) (va : BitVec 6) (xb : BitVec 5) : Statement (.vminuVx gd vd va xb) := by
  intro e _ h; cases h; simp [ofEnc, ofEnc41]
theorem vmaxuVx (gd : Guard) (vd : BitVec 6) (va : BitVec 6) (xb : BitVec 5) : Statement (.vmaxuVx gd vd va xb) := by
  intro e _ h; cases h; simp [ofEnc, ofEnc41]
theorem vadcVx (gd : Guard) (vd : BitVec 6) (va : BitVec 6) (xb : BitVec 5) (mc : BitVec 5) (mm : BitVec 5) : Statement (.vadcVx gd vd va xb mc mm) := by
  intro e _ h; cases h; simp [ofEnc, ofEnc41]
theorem vsbcVx (gd : Guard) (vd : BitVec 6) (va : BitVec 6) (xb : BitVec 5) (mc : BitVec 5) (mm : BitVec 5) : Statement (.vsbcVx gd vd va xb mc mm) := by
  intro e _ h; cases h; simp [ofEnc, ofEnc41]
theorem vfadd (gd : Guard) (ex : Exc) (rm : BitVec 4) (fp16 : Bool) (vd : BitVec 6) (va : BitVec 6) (vb : BitVec 6) : Statement (.vfadd gd ex rm fp16 vd va vb) := by
  intro e _ h; cases h; simp [ofEnc, ofEnc42]
theorem vfsub (gd : Guard) (ex : Exc) (rm : BitVec 4) (fp16 : Bool) (vd : BitVec 6) (va : BitVec 6) (vb : BitVec 6) : Statement (.vfsub gd ex rm fp16 vd va vb) := by
  intro e _ h; cases h; simp [ofEnc, ofEnc42]
theorem vfmul (gd : Guard) (ex : Exc) (rm : BitVec 4) (fp16 : Bool) (vd : BitVec 6) (va : BitVec 6) (vb : BitVec 6) : Statement (.vfmul gd ex rm fp16 vd va vb) := by
  intro e _ h; cases h; simp [ofEnc, ofEnc42]
theorem vfdiv (gd : Guard) (ex : Exc) (rm : BitVec 4) (fp16 : Bool) (vd : BitVec 6) (va : BitVec 6) (vb : BitVec 6) : Statement (.vfdiv gd ex rm fp16 vd va vb) := by
  intro e _ h; cases h; simp [ofEnc, ofEnc42]
theorem vfmin (gd : Guard) (ex : Exc) (fp16 : Bool) (vd : BitVec 6) (va : BitVec 6) (vb : BitVec 6) : Statement (.vfmin gd ex fp16 vd va vb) := by
  intro e _ h; cases h; simp [ofEnc, ofEnc42]
theorem vfmax (gd : Guard) (ex : Exc) (fp16 : Bool) (vd : BitVec 6) (va : BitVec 6) (vb : BitVec 6) : Statement (.vfmax gd ex fp16 vd va vb) := by
  intro e _ h; cases h; simp [ofEnc, ofEnc42]
theorem vfsqrt (gd : Guard) (ex : Exc) (rm : BitVec 4) (fp16 : Bool) (vd : BitVec 6) (va : BitVec 6) : Statement (.vfsqrt gd ex rm fp16 vd va) := by
  intro e _ h; cases h; simp [ofEnc, ofEnc42]
theorem vfma (gd : Guard) (ex : Exc) (rm : BitVec 4) (fp16 : Bool) (vd : BitVec 6) (va : BitVec 6) (vb : BitVec 6) (vc : BitVec 6) : Statement (.vfma gd ex rm fp16 vd va vb vc) := by
  intro e _ h; cases h; simp [ofEnc, ofEnc42]
theorem vfms (gd : Guard) (ex : Exc) (rm : BitVec 4) (fp16 : Bool) (vd : BitVec 6) (va : BitVec 6) (vb : BitVec 6) (vc : BitVec 6) : Statement (.vfms gd ex rm fp16 vd va vb vc) := by
  intro e _ h; cases h; simp [ofEnc, ofEnc42]
theorem vfnma (gd : Guard) (ex : Exc) (rm : BitVec 4) (fp16 : Bool) (vd : BitVec 6) (va : BitVec 6) (vb : BitVec 6) (vc : BitVec 6) : Statement (.vfnma gd ex rm fp16 vd va vb vc) := by
  intro e _ h; cases h; simp [ofEnc, ofEnc42]
theorem vfabs (gd : Guard) (ex : Exc) (fp16 : Bool) (vd : BitVec 6) (va : BitVec 6) : Statement (.vfabs gd ex fp16 vd va) := by
  intro e _ h; cases h; simp [ofEnc, ofEnc42]
theorem vfneg (gd : Guard) (ex : Exc) (fp16 : Bool) (vd : BitVec 6) (va : BitVec 6) : Statement (.vfneg gd ex fp16 vd va) := by
  intro e _ h; cases h; simp [ofEnc, ofEnc42]
theorem vceq (gd : Guard) (xb : Bool) (md : BitVec 5) (va : BitVec 6) (b : BitVec 6) : Statement (.vceq gd xb md va b) := by
  intro e _ h; cases h; simp [ofEnc, ofEnc43]
theorem vcne (gd : Guard) (xb : Bool) (md : BitVec 5) (va : BitVec 6) (b : BitVec 6) : Statement (.vcne gd xb md va b) := by
  intro e _ h; cases h; simp [ofEnc, ofEnc43]
theorem vclt (gd : Guard) (xb : Bool) (md : BitVec 5) (va : BitVec 6) (b : BitVec 6) : Statement (.vclt gd xb md va b) := by
  intro e _ h; cases h; simp [ofEnc, ofEnc43]
theorem vcge (gd : Guard) (xb : Bool) (md : BitVec 5) (va : BitVec 6) (b : BitVec 6) : Statement (.vcge gd xb md va b) := by
  intro e _ h; cases h; simp [ofEnc, ofEnc43]
theorem vcltu (gd : Guard) (xb : Bool) (md : BitVec 5) (va : BitVec 6) (b : BitVec 6) : Statement (.vcltu gd xb md va b) := by
  intro e _ h; cases h; simp [ofEnc, ofEnc43]
theorem vcgeu (gd : Guard) (xb : Bool) (md : BitVec 5) (va : BitVec 6) (b : BitVec 6) : Statement (.vcgeu gd xb md va b) := by
  intro e _ h; cases h; simp [ofEnc, ofEnc43]
theorem vfeq (gd : Guard) (ex : Exc) (xb : Bool) (md : BitVec 5) (va : BitVec 6) (b : BitVec 6) : Statement (.vfeq gd ex xb md va b) := by
  intro e _ h; cases h; simp [ofEnc, ofEnc43]
theorem vflt (gd : Guard) (ex : Exc) (xb : Bool) (md : BitVec 5) (va : BitVec 6) (b : BitVec 6) : Statement (.vflt gd ex xb md va b) := by
  intro e _ h; cases h; simp [ofEnc, ofEnc43]
theorem vfle (gd : Guard) (ex : Exc) (xb : Bool) (md : BitVec 5) (va : BitVec 6) (b : BitVec 6) : Statement (.vfle gd ex xb md va b) := by
  intro e _ h; cases h; simp [ofEnc, ofEnc43]
theorem vfunord (gd : Guard) (ex : Exc) (xb : Bool) (md : BitVec 5) (va : BitVec 6) (b : BitVec 6) : Statement (.vfunord gd ex xb md va b) := by
  intro e _ h; cases h; simp [ofEnc, ofEnc43]
theorem mand (gd : Guard) (md : BitVec 5) (ma : BitVec 5) (mb : BitVec 5) : Statement (.mand gd md ma mb) := by
  intro e _ h; cases h; simp [ofEnc, ofEnc44]
theorem mor (gd : Guard) (md : BitVec 5) (ma : BitVec 5) (mb : BitVec 5) : Statement (.mor gd md ma mb) := by
  intro e _ h; cases h; simp [ofEnc, ofEnc44]
theorem mxor (gd : Guard) (md : BitVec 5) (ma : BitVec 5) (mb : BitVec 5) : Statement (.mxor gd md ma mb) := by
  intro e _ h; cases h; simp [ofEnc, ofEnc44]
theorem mandn (gd : Guard) (md : BitVec 5) (ma : BitVec 5) (mb : BitVec 5) : Statement (.mandn gd md ma mb) := by
  intro e _ h; cases h; simp [ofEnc, ofEnc44]
theorem mnot (gd : Guard) (md : BitVec 5) (ma : BitVec 5) : Statement (.mnot gd md ma) := by
  intro e _ h; cases h; simp [ofEnc, ofEnc44]
theorem mmov (gd : Guard) (md : BitVec 5) (ma : BitVec 5) : Statement (.mmov gd md ma) := by
  intro e _ h; cases h; simp [ofEnc, ofEnc44]
theorem mshl (gd : Guard) (md : BitVec 5) (ma : BitVec 5) : Statement (.mshl gd md ma) := by
  intro e _ h; cases h; simp [ofEnc, ofEnc44]
theorem mshr (gd : Guard) (md : BitVec 5) (ma : BitVec 5) : Statement (.mshr gd md ma) := by
  intro e _ h; cases h; simp [ofEnc, ofEnc44]
theorem mset (gd : Guard) (md : BitVec 5) : Statement (.mset gd md) := by intro e _ h; cases h; simp [ofEnc, ofEnc44]
theorem mclr (gd : Guard) (md : BitVec 5) : Statement (.mclr gd md) := by intro e _ h; cases h; simp [ofEnc, ofEnc44]
theorem mrdd (gd : Guard) (md : BitVec 5) : Statement (.mrdd gd md) := by intro e _ h; cases h; simp [ofEnc, ofEnc44]
theorem mwrd (gd : Guard) (ma : BitVec 5) : Statement (.mwrd gd ma) := by intro e _ h; cases h; simp [ofEnc, ofEnc44]
theorem mpop (xd : BitVec 5) (ma : BitVec 5) : Statement (.mpop xd ma) := by intro e _ h; cases h; simp [ofEnc, ofEnc45]
theorem mffs (xd : BitVec 5) (ma : BitVec 5) : Statement (.mffs xd ma) := by intro e _ h; cases h; simp [ofEnc, ofEnc45]
theorem mfls (xd : BitVec 5) (ma : BitVec 5) : Statement (.mfls xd ma) := by intro e _ h; cases h; simp [ofEnc, ofEnc45]
theorem vslideup (gd : Guard) (vd : BitVec 6) (va : BitVec 6) (xb : BitVec 5) : Statement (.vslideup gd vd va xb) := by
  intro e _ h; cases h; simp [ofEnc, ofEnc46]
theorem vslidedn (gd : Guard) (vd : BitVec 6) (va : BitVec 6) (xb : BitVec 5) : Statement (.vslidedn gd vd va xb) := by
  intro e _ h; cases h; simp [ofEnc, ofEnc46]
theorem vperm (gd : Guard) (vd : BitVec 6) (va : BitVec 6) (vb : BitVec 6) : Statement (.vperm gd vd va vb) := by
  intro e _ h; cases h; rfl
theorem vbcast (gd : Guard) (vd : BitVec 6) (xa : BitVec 5) : Statement (.vbcast gd vd xa) := by
  intro e _ h; cases h; simp [ofEnc, ofEnc46]
theorem vcompress (vd : BitVec 6) (va : BitVec 6) (mb : BitVec 5) : Statement (.vcompress vd va mb) := by
  intro e _ h; cases h; simp [ofEnc, ofEnc46]
theorem vexpand (vd : BitVec 6) (va : BitVec 6) (mb : BitVec 5) : Statement (.vexpand vd va mb) := by
  intro e _ h; cases h; simp [ofEnc, ofEnc46]
theorem vext (xd : BitVec 5) (va : BitVec 6) (xb : BitVec 5) : Statement (.vext xd va xb) := by
  intro e _ h; cases h; simp [ofEnc, ofEnc46]
theorem vins (vd : BitVec 6) (xa : BitVec 5) (xb : BitVec 5) : Statement (.vins vd xa xb) := by
  intro e _ h; cases h; simp [ofEnc, ofEnc46]
theorem vredoFadd (gd : Guard) (fp16 : Bool) (xd : BitVec 5) (va : BitVec 6) (xb : BitVec 5) : Statement (.vredoFadd gd fp16 xd va xb) := by
  intro e _ h; cases h; simp [ofEnc, ofEnc47]
theorem vredtFadd (gd : Guard) (fp16 : Bool) (xd : BitVec 5) (va : BitVec 6) (xb : BitVec 5) : Statement (.vredtFadd gd fp16 xd va xb) := by
  intro e _ h; cases h; simp [ofEnc, ofEnc47]
theorem vredFmax (gd : Guard) (fp16 : Bool) (xd : BitVec 5) (va : BitVec 6) (xb : BitVec 5) : Statement (.vredFmax gd fp16 xd va xb) := by
  intro e _ h; cases h; simp [ofEnc, ofEnc47]
theorem vredFmin (gd : Guard) (fp16 : Bool) (xd : BitVec 5) (va : BitVec 6) (xb : BitVec 5) : Statement (.vredFmin gd fp16 xd va xb) := by
  intro e _ h; cases h; simp [ofEnc, ofEnc47]
theorem vredAdd (gd : Guard) (xd : BitVec 5) (va : BitVec 6) (xb : BitVec 5) : Statement (.vredAdd gd xd va xb) := by
  intro e _ h; cases h; simp [ofEnc, ofEnc47]
theorem vredAnd (gd : Guard) (xd : BitVec 5) (va : BitVec 6) (xb : BitVec 5) : Statement (.vredAnd gd xd va xb) := by
  intro e _ h; cases h; simp [ofEnc, ofEnc47]
theorem vredOr (gd : Guard) (xd : BitVec 5) (va : BitVec 6) (xb : BitVec 5) : Statement (.vredOr gd xd va xb) := by
  intro e _ h; cases h; simp [ofEnc, ofEnc47]
theorem vredXor (gd : Guard) (xd : BitVec 5) (va : BitVec 6) (xb : BitVec 5) : Statement (.vredXor gd xd va xb) := by
  intro e _ h; cases h; simp [ofEnc, ofEnc47]
theorem vredMax (gd : Guard) (xd : BitVec 5) (va : BitVec 6) (xb : BitVec 5) : Statement (.vredMax gd xd va xb) := by
  intro e _ h; cases h; simp [ofEnc, ofEnc47]
theorem vredMin (gd : Guard) (xd : BitVec 5) (va : BitVec 6) (xb : BitVec 5) : Statement (.vredMin gd xd va xb) := by
  intro e _ h; cases h; simp [ofEnc, ofEnc47]
theorem vredMaxu (gd : Guard) (xd : BitVec 5) (va : BitVec 6) (xb : BitVec 5) : Statement (.vredMaxu gd xd va xb) := by
  intro e _ h; cases h; simp [ofEnc, ofEnc47]
theorem vredMinu (gd : Guard) (xd : BitVec 5) (va : BitVec 6) (xb : BitVec 5) : Statement (.vredMinu gd xd va xb) := by
  intro e _ h; cases h; simp [ofEnc, ofEnc47]
theorem vcvtF64F32 (gd : Guard) (ex : Exc) (rm : BitVec 4) (vd : BitVec 6) (va : BitVec 6) : Statement (.vcvtF64F32 gd ex rm vd va) := by
  intro e _ h; cases h; rfl
theorem vcvtF32F64 (gd : Guard) (ex : Exc) (rm : BitVec 4) (vd : BitVec 6) (va : BitVec 6) : Statement (.vcvtF32F64 gd ex rm vd va) := by
  intro e _ h; cases h; rfl
theorem vcvtF32I64 (gd : Guard) (ex : Exc) (rm : BitVec 4) (vd : BitVec 6) (va : BitVec 6) : Statement (.vcvtF32I64 gd ex rm vd va) := by
  intro e _ h; cases h; rfl
theorem vcvtI64F32 (gd : Guard) (ex : Exc) (rm : BitVec 4) (vd : BitVec 6) (va : BitVec 6) : Statement (.vcvtI64F32 gd ex rm vd va) := by
  intro e _ h; cases h; rfl
theorem vcvtF64I64 (gd : Guard) (ex : Exc) (rm : BitVec 4) (vd : BitVec 6) (va : BitVec 6) : Statement (.vcvtF64I64 gd ex rm vd va) := by
  intro e _ h; cases h; rfl
theorem vcvtI64F64 (gd : Guard) (ex : Exc) (rm : BitVec 4) (vd : BitVec 6) (va : BitVec 6) : Statement (.vcvtI64F64 gd ex rm vd va) := by
  intro e _ h; cases h; rfl
theorem vcvtBf16F32 (gd : Guard) (ex : Exc) (rm : BitVec 4) (vd : BitVec 6) (va : BitVec 6) : Statement (.vcvtBf16F32 gd ex rm vd va) := by
  intro e _ h; cases h; rfl
theorem vcvtF32Bf16 (gd : Guard) (ex : Exc) (rm : BitVec 4) (vd : BitVec 6) (va : BitVec 6) : Statement (.vcvtF32Bf16 gd ex rm vd va) := by
  intro e _ h; cases h; rfl
theorem vcvtFp16F32 (gd : Guard) (ex : Exc) (rm : BitVec 4) (vd : BitVec 6) (va : BitVec 6) : Statement (.vcvtFp16F32 gd ex rm vd va) := by
  intro e _ h; cases h; rfl
theorem vcvtF32Fp16 (gd : Guard) (ex : Exc) (rm : BitVec 4) (vd : BitVec 6) (va : BitVec 6) : Statement (.vcvtF32Fp16 gd ex rm vd va) := by
  intro e _ h; cases h; rfl
theorem vcvtE4m3F32 (gd : Guard) (ex : Exc) (rm : BitVec 4) (vd : BitVec 6) (va : BitVec 6) : Statement (.vcvtE4m3F32 gd ex rm vd va) := by
  intro e _ h; cases h; rfl
theorem vcvtF32E4m3 (gd : Guard) (ex : Exc) (rm : BitVec 4) (vd : BitVec 6) (va : BitVec 6) : Statement (.vcvtF32E4m3 gd ex rm vd va) := by
  intro e _ h; cases h; rfl
theorem vcvtE5m2F32 (gd : Guard) (ex : Exc) (rm : BitVec 4) (vd : BitVec 6) (va : BitVec 6) : Statement (.vcvtE5m2F32 gd ex rm vd va) := by
  intro e _ h; cases h; rfl
theorem vcvtF32E5m2 (gd : Guard) (ex : Exc) (rm : BitVec 4) (vd : BitVec 6) (va : BitVec 6) : Statement (.vcvtF32E5m2 gd ex rm vd va) := by
  intro e _ h; cases h; rfl
theorem vcvtLgF32 (gd : Guard) (ex : Exc) (rm : BitVec 4) (vd : BitVec 6) (va : BitVec 6) : Statement (.vcvtLgF32 gd ex rm vd va) := by
  intro e _ h; cases h; rfl
theorem vcvtF32Lg (gd : Guard) (ex : Exc) (rm : BitVec 4) (vd : BitVec 6) (va : BitVec 6) : Statement (.vcvtF32Lg gd ex rm vd va) := by
  intro e _ h; cases h; rfl
theorem vld (vd : BitVec 6) (xa : BitVec 5) (imm : BitVec 22) : Statement (.vld vd xa imm) := by
  intro e _ h; cases h; simp [ofEnc, ofEnc49]
theorem vldff (vd : BitVec 6) (xa : BitVec 5) (imm : BitVec 22) : Statement (.vldff vd xa imm) := by
  intro e _ h; cases h; simp [ofEnc, ofEnc49]
theorem vldv (vd : BitVec 6) (xa : BitVec 5) (imm : BitVec 22) : Statement (.vldv vd xa imm) := by
  intro e _ h; cases h; simp [ofEnc, ofEnc49]
theorem vldsp (vd : BitVec 6) (xa : BitVec 5) (imm : BitVec 22) : Statement (.vldsp vd xa imm) := by
  intro e _ h; cases h; simp [ofEnc, ofEnc49]
theorem vlds (gd : Guard) (vd : BitVec 6) (xa : BitVec 5) (xb : BitVec 5) : Statement (.vlds gd vd xa xb) := by
  intro e _ h; cases h; simp [ofEnc, ofEnc4A]
theorem vldx (gd : Guard) (vd : BitVec 6) (xa : BitVec 5) (vb : BitVec 6) : Statement (.vldx gd vd xa vb) := by
  intro e _ h; cases h; simp [ofEnc, ofEnc4A]
theorem vldl (gd : Guard) (vd : BitVec 6) (xa : BitVec 5) (vb : BitVec 6) : Statement (.vldl gd vd xa vb) := by
  intro e _ h; cases h; simp [ofEnc, ofEnc4A]
theorem vldxv (gd : Guard) (vd : BitVec 6) (xa : BitVec 5) (vb : BitVec 6) : Statement (.vldxv gd vd xa vb) := by
  intro e _ h; cases h; simp [ofEnc, ofEnc4A]
theorem vst (gd : Guard) (vd : BitVec 6) (xa : BitVec 5) : Statement (.vst gd vd xa) := by
  intro e _ h; cases h; simp [ofEnc, ofEnc4B]
theorem vsts (gd : Guard) (vd : BitVec 6) (xa : BitVec 5) (xb : BitVec 5) : Statement (.vsts gd vd xa xb) := by
  intro e _ h; cases h; simp [ofEnc, ofEnc4B]
theorem vstx (gd : Guard) (vd : BitVec 6) (xa : BitVec 5) (vb : BitVec 6) : Statement (.vstx gd vd xa vb) := by
  intro e _ h; cases h; simp [ofEnc, ofEnc4B]
theorem vstl (gd : Guard) (vd : BitVec 6) (xa : BitVec 5) (vb : BitVec 6) : Statement (.vstl gd vd xa vb) := by
  intro e _ h; cases h; simp [ofEnc, ofEnc4B]
theorem vstmc (gd : Guard) (vd : BitVec 6) (xa : BitVec 5) : Statement (.vstmc gd vd xa) := by
  intro e _ h; cases h; simp [ofEnc, ofEnc4B]
theorem vstrc (gd : Guard) (vd : BitVec 6) (xa : BitVec 5) (xb : BitVec 5) : Statement (.vstrc gd vd xa xb) := by
  intro e _ h; cases h; simp [ofEnc, ofEnc4B]
theorem vstsp (gd : Guard) (vd : BitVec 6) (xa : BitVec 5) : Statement (.vstsp gd vd xa) := by
  intro e _ h; cases h; simp [ofEnc, ofEnc4B]
theorem vamoAdd (gd : Guard) (old : Bool) (vd : BitVec 6) (xa : BitVec 5) (vb : BitVec 6) (vc : BitVec 6) : Statement (.vamoAdd gd old vd xa vb vc) := by
  intro e _ h; cases h; simp [ofEnc, ofEnc4C]
theorem vamoAnd (gd : Guard) (old : Bool) (vd : BitVec 6) (xa : BitVec 5) (vb : BitVec 6) (vc : BitVec 6) : Statement (.vamoAnd gd old vd xa vb vc) := by
  intro e _ h; cases h; simp [ofEnc, ofEnc4C]
theorem vamoOr (gd : Guard) (old : Bool) (vd : BitVec 6) (xa : BitVec 5) (vb : BitVec 6) (vc : BitVec 6) : Statement (.vamoOr gd old vd xa vb vc) := by
  intro e _ h; cases h; simp [ofEnc, ofEnc4C]
theorem vamoXor (gd : Guard) (old : Bool) (vd : BitVec 6) (xa : BitVec 5) (vb : BitVec 6) (vc : BitVec 6) : Statement (.vamoXor gd old vd xa vb vc) := by
  intro e _ h; cases h; simp [ofEnc, ofEnc4C]
theorem vamoMax (gd : Guard) (old : Bool) (vd : BitVec 6) (xa : BitVec 5) (vb : BitVec 6) (vc : BitVec 6) : Statement (.vamoMax gd old vd xa vb vc) := by
  intro e _ h; cases h; simp [ofEnc, ofEnc4C]
theorem vamoMin (gd : Guard) (old : Bool) (vd : BitVec 6) (xa : BitVec 5) (vb : BitVec 6) (vc : BitVec 6) : Statement (.vamoMin gd old vd xa vb vc) := by
  intro e _ h; cases h; simp [ofEnc, ofEnc4C]
theorem vamoSwap (gd : Guard) (old : Bool) (vd : BitVec 6) (xa : BitVec 5) (vb : BitVec 6) (vc : BitVec 6) : Statement (.vamoSwap gd old vd xa vb vc) := by
  intro e _ h; cases h; simp [ofEnc, ofEnc4C]
theorem vamoFadd (gd : Guard) (old : Bool) (vd : BitVec 6) (xa : BitVec 5) (vb : BitVec 6) (vc : BitVec 6) : Statement (.vamoFadd gd old vd xa vb vc) := by
  intro e _ h; cases h; simp [ofEnc, ofEnc4C]
theorem mma (zd : BitVec 4) (va : BitVec 6) (xb : BitVec 5) (ta : BitVec 3) (tb : BitVec 3) (keep : Bool) (brace : Bool) (clear : Bool) : Statement (.mma zd va xb ta tb keep brace clear) := by
  intro e w h; cases h; simp [ofEnc, ofEnc50]; clear w; decide +revert
theorem mmaff (zd : BitVec 4) (va : BitVec 6) (xb : BitVec 5) (xc : BitVec 5) (ta : BitVec 3) (tb : BitVec 3) (keep : Bool) (clear : Bool) : Statement (.mmaff zd va xb xc ta tb keep clear) := by
  intro e w h; cases h; simp [ofEnc, ofEnc51]; clear w; decide +revert
theorem zclr (zd : BitVec 4) : Statement (.zclr zd) := by intro e _ h; cases h; simp [ofEnc, ofEnc52]
theorem zld (zd : BitVec 4) (xa : BitVec 5) : Statement (.zld zd xa) := by intro e _ h; cases h; simp [ofEnc, ofEnc52]
theorem zst (zd : BitVec 4) (xa : BitVec 5) : Statement (.zst zd xa) := by intro e _ h; cases h; simp [ofEnc, ofEnc52]
theorem zrd (vd : BitVec 6) (za : BitVec 4) (q : BitVec 4) : Statement (.zrd vd za q) := by
  intro e _ h; cases h; simp [ofEnc, ofEnc52]
theorem zwr (zd : BitVec 4) (va : BitVec 6) (q : BitVec 4) : Statement (.zwr zd va q) := by
  intro e _ h; cases h; simp [ofEnc, ofEnc52]
theorem zcvt (zd : BitVec 4) (xa : BitVec 5) (src : BitVec 5) (tgt : BitVec 4) : Statement (.zcvt zd xa src tgt) := by
  intro e _ h; cases h; simp [ofEnc, ofEnc52]
theorem tlwait (gd : Guard) (xa : BitVec 5) (xb : BitVec 5) (sc : BitVec 4) : Statement (.tlwait gd xa xb sc) := by
  intro e _ h; cases h; simp [ofEnc, ofEnc55]
theorem tlwaitReturn (p : Nat) (r : Nat) : Statement (.tlwaitReturn p r) := by intro e _ h; cases h
theorem tlpost (gd : Guard) (xa : BitVec 5) (xb : BitVec 5) (sc : BitVec 4) : Statement (.tlpost gd xa xb sc) := by
  intro e _ h; cases h; simp [ofEnc, ofEnc55]
theorem tlpostApply (p : Nat) (r : Nat) : Statement (.tlpostApply p r) := by intro e _ h; cases h
theorem ringdef (n : BitVec 3) (xa : BitVec 5) (xb : BitVec 5) (xc : BitVec 5) (stages : BitVec 5) : Statement (.ringdef n xa xb xc stages) := by
  intro e _ h; cases h; simp [ofEnc, ofEnc56]
theorem ringarr (n : BitVec 3) : Statement (.ringarr n) := by intro e _ h; cases h; simp [ofEnc, ofEnc56]
theorem ringgen (xd : BitVec 5) (n : BitVec 3) : Statement (.ringgen xd n) := by intro e _ h; cases h; simp [ofEnc, ofEnc56]
theorem ringfree (n : BitVec 3) : Statement (.ringfree n) := by intro e _ h; cases h; simp [ofEnc, ofEnc56]
theorem ringArrivalCount (p : Nat) (r : Nat) : Statement (.ringArrivalCount p r) := by intro e _ h; cases h
theorem ringStallEnd (p : Nat) (r : Nat) : Statement (.ringStallEnd p r) := by intro e _ h; cases h
theorem amoAdd (gd : Guard) (xd : BitVec 5) (xa : BitVec 5) (xb : BitVec 5) (ord : BitVec 2) (sc : BitVec 3) (w32 : Bool) : Statement (.amoAdd gd xd xa xb ord sc w32) := by
  intro e _ h; cases h; simp [ofEnc, ofEnc60]
theorem amoAnd (gd : Guard) (xd : BitVec 5) (xa : BitVec 5) (xb : BitVec 5) (ord : BitVec 2) (sc : BitVec 3) (w32 : Bool) : Statement (.amoAnd gd xd xa xb ord sc w32) := by
  intro e _ h; cases h; simp [ofEnc, ofEnc60]
theorem amoOr (gd : Guard) (xd : BitVec 5) (xa : BitVec 5) (xb : BitVec 5) (ord : BitVec 2) (sc : BitVec 3) (w32 : Bool) : Statement (.amoOr gd xd xa xb ord sc w32) := by
  intro e _ h; cases h; simp [ofEnc, ofEnc60]
theorem amoXor (gd : Guard) (xd : BitVec 5) (xa : BitVec 5) (xb : BitVec 5) (ord : BitVec 2) (sc : BitVec 3) (w32 : Bool) : Statement (.amoXor gd xd xa xb ord sc w32) := by
  intro e _ h; cases h; simp [ofEnc, ofEnc60]
theorem amoMax (gd : Guard) (xd : BitVec 5) (xa : BitVec 5) (xb : BitVec 5) (ord : BitVec 2) (sc : BitVec 3) (w32 : Bool) : Statement (.amoMax gd xd xa xb ord sc w32) := by
  intro e _ h; cases h; simp [ofEnc, ofEnc60]
theorem amoMin (gd : Guard) (xd : BitVec 5) (xa : BitVec 5) (xb : BitVec 5) (ord : BitVec 2) (sc : BitVec 3) (w32 : Bool) : Statement (.amoMin gd xd xa xb ord sc w32) := by
  intro e _ h; cases h; simp [ofEnc, ofEnc60]
theorem amoMaxu (gd : Guard) (xd : BitVec 5) (xa : BitVec 5) (xb : BitVec 5) (ord : BitVec 2) (sc : BitVec 3) (w32 : Bool) : Statement (.amoMaxu gd xd xa xb ord sc w32) := by
  intro e _ h; cases h; simp [ofEnc, ofEnc60]
theorem amoMinu (gd : Guard) (xd : BitVec 5) (xa : BitVec 5) (xb : BitVec 5) (ord : BitVec 2) (sc : BitVec 3) (w32 : Bool) : Statement (.amoMinu gd xd xa xb ord sc w32) := by
  intro e _ h; cases h; simp [ofEnc, ofEnc60]
theorem amoSwap (gd : Guard) (xd : BitVec 5) (xa : BitVec 5) (xb : BitVec 5) (ord : BitVec 2) (sc : BitVec 3) (w32 : Bool) : Statement (.amoSwap gd xd xa xb ord sc w32) := by
  intro e _ h; cases h; simp [ofEnc, ofEnc60]
theorem amoCas (gd : Guard) (xd : BitVec 5) (xa : BitVec 5) (xb : BitVec 5) (xc : BitVec 5) (ord : BitVec 2) (sc : BitVec 3) (w32 : Bool) : Statement (.amoCas gd xd xa xb xc ord sc w32) := by
  intro e _ h; cases h; simp [ofEnc, ofEnc60]
theorem amoFadd (gd : Guard) (xd : BitVec 5) (xa : BitVec 5) (xb : BitVec 5) (ord : BitVec 2) (sc : BitVec 3) (w32 : Bool) : Statement (.amoFadd gd xd xa xb ord sc w32) := by
  intro e _ h; cases h; simp [ofEnc, ofEnc60]
theorem lda (gd : Guard) (xd : BitVec 5) (xa : BitVec 5) (sc : BitVec 4) : Statement (.lda gd xd xa sc) := by
  intro e _ h; cases h; simp [ofEnc, ofEnc61]
theorem lda32 (gd : Guard) (xd : BitVec 5) (xa : BitVec 5) (sc : BitVec 4) : Statement (.lda32 gd xd xa sc) := by
  intro e _ h; cases h; simp [ofEnc, ofEnc61]
theorem strl (gd : Guard) (xd : BitVec 5) (xa : BitVec 5) (sc : BitVec 4) : Statement (.strl gd xd xa sc) := by
  intro e _ h; cases h; simp [ofEnc, ofEnc61]
theorem strl32 (gd : Guard) (xd : BitVec 5) (xa : BitVec 5) (sc : BitVec 4) : Statement (.strl32 gd xd xa sc) := by
  intro e _ h; cases h; simp [ofEnc, ofEnc61]
theorem fence (sc : BitVec 6) : Statement (.fence sc) := by intro e _ h; cases h; rfl
theorem fenceAcq (sc : BitVec 6) : Statement (.fenceAcq sc) := by intro e _ h; cases h; rfl
theorem fenceRel (sc : BitVec 6) : Statement (.fenceRel sc) := by intro e _ h; cases h; rfl
theorem barArrive (n : BitVec 6) : Statement (.barArrive n) := by intro e _ h; cases h; rfl
theorem barWait (n : BitVec 6) : Statement (.barWait n) := by intro e _ h; cases h; rfl
theorem barSync (n : BitVec 6) : Statement (.barSync n) := by intro e _ h; cases h; rfl
theorem barArrivalCount (p : Nat) (r : Nat) : Statement (.barArrivalCount p r) := by intro e _ h; cases h
theorem barWaitReturn (p : Nat) (r : Nat) : Statement (.barWaitReturn p r) := by intro e _ h; cases h
theorem txbegin (xd : BitVec 5) : Statement (.txbegin xd) := by intro e _ h; cases h; simp [ofEnc, ofEnc68]
theorem txcommit (xd : BitVec 5) : Statement (.txcommit xd) := by intro e _ h; cases h; simp [ofEnc, ofEnc68]
theorem snopen (xd : BitVec 5) : Statement (.snopen xd) := by intro e _ h; cases h; simp [ofEnc, ofEnc68]
theorem snclose (xd : BitVec 5) (xa : BitVec 5) : Statement (.snclose xd xa) := by intro e _ h; cases h; simp [ofEnc, ofEnc68]
theorem snset (xa : BitVec 5) : Statement (.snset xa) := by intro e _ h; cases h; simp [ofEnc, ofEnc68]
theorem xdred (gd : Guard) (vd : BitVec 6) (xa : BitVec 5) (op : BitVec 4) : Statement (.xdred gd vd xa op) := by
  intro e _ h; cases h; simp [ofEnc, ofEnc70]
theorem xdredComplete (p : Nat) (r : Nat) (peers : List PeerStrip) : Statement (.xdredComplete p r peers) := by
  intro e _ h; cases h
theorem xdredTimeout (p : Nat) (r : Nat) : Statement (.xdredTimeout p r) := by intro e _ h; cases h
theorem runLimit (t : Agent) : Statement (.runLimit t) := by intro e _ h; cases h
theorem release (p : Nat) (r : Nat) (leash : BitVec 48) : Statement (.release p r leash) := by intro e _ h; cases h
theorem strandFaultTrap (p : Nat) (r : Nat) : Statement (.strandFaultTrap p r) := by intro e _ h; cases h
theorem machineCheck (p : Nat) (r : Nat) : Statement (.machineCheck p r) := by intro e _ h; cases h
theorem vqueueExecute (p : Nat) (r : Nat) : Statement (.vqueueExecute p r) := by intro e _ h; cases h
theorem rfetchTakeEffect (p : Nat) (r : Nat) : Statement (.rfetchTakeEffect p r) := by intro e _ h; cases h
theorem rwaitComplete (p : Nat) (r : Nat) : Statement (.rwaitComplete p r) := by intro e _ h; cases h
theorem copyStart (j : Nat) : Statement (.copyStart j) := by intro e _ h; cases h
theorem copyComplete (j : Nat) : Statement (.copyComplete j) := by intro e _ h; cases h
theorem preemptWithdraw (p : Nat) : Statement (.preemptWithdraw p) := by intro e _ h; cases h
theorem setvlSave (p : Nat) : Statement (.setvlSave p) := by intro e _ h; cases h
theorem forcedSave (p : Nat) (discard : Bool) : Statement (.forcedSave p discard) := by intro e _ h; cases h
theorem packResume : Statement .packResume := by intro e _ h; cases h
theorem coreQuiesce (core : Nat) : Statement (.coreQuiesce core) := by intro e _ h; cases h
theorem secdedError (core : Nat) (err : SramError) : Statement (.secdedError core err) := by intro e _ h; cases h
theorem laneGroupGate (core : Nat) (grp : Nat) : Statement (.laneGroupGate core grp) := by intro e _ h; cases h
theorem laneGroupWake (core : Nat) (grp : Nat) : Statement (.laneGroupWake core grp) := by intro e _ h; cases h
theorem stripAheadHint (p : Nat) (r : Nat) : Statement (.stripAheadHint p r) := by intro e _ h; cases h
theorem l2Error (cluster : Nat) (bank : Nat) (way : Nat) (kind : L2ErrorKind) (line : Nat) : Statement (.l2Error cluster bank way kind line) := by
  intro e _ h; cases h
theorem benesParityError (core : Nat) (again : Bool) : Statement (.benesParityError core again) := by intro e _ h; cases h
theorem pageWalk (core : Nat) (ctx : Nat) (va : BitVec 64) (kind : AccessKind) (user : Bool) : Statement (.pageWalk core ctx va kind user) := by
  intro e _ h; cases h
theorem tlbParityError (cluster : Nat) (idx : Nat) : Statement (.tlbParityError cluster idx) := by intro e _ h; cases h
theorem hbmError (line : Nat) (kind : HbmErrorKind) : Statement (.hbmError line kind) := by intro e _ h; cases h
theorem channelFail (stack : Nat) (chan : Nat) : Statement (.channelFail stack chan) := by intro e _ h; cases h
theorem slotTableEdit (die : Nat) (edit : SlotEdit) : Statement (.slotTableEdit die edit) := by intro e _ h; cases h
theorem routerParityError (die : Nat) (router : Nat) (port : Nat) (slot : Nat) : Statement (.routerParityError die router port slot) := by
  intro e _ h; cases h
theorem launchRecordTake (ctx : Nat) (q : Nat) : Statement (.launchRecordTake ctx q) := by intro e _ h; cases h
theorem launchSelect : Statement .launchSelect := by intro e _ h; cases h
theorem packPlace : Statement .packPlace := by intro e _ h; cases h
theorem swapExpiry (die : Nat) : Statement (.swapExpiry die) := by intro e _ h; cases h
theorem launchComplete (l : Nat) : Statement (.launchComplete l) := by intro e _ h; cases h
theorem crumbReclaim (line : Nat) : Statement (.crumbReclaim line) := by intro e _ h; cases h
theorem ospecCommit (p : Nat) : Statement (.ospecCommit p) := by intro e _ h; cases h
theorem adtanTranslate (ctx : Nat) (tr : Translation) : Statement (.adtanTranslate ctx tr) := by intro e _ h; cases h
theorem sampleRecord (core : Nat) (entries : List (BitVec 64)) : Statement (.sampleRecord core entries) := by
  intro e _ h; cases h
theorem traceSummary (p : Nat) (r : Nat) : Statement (.traceSummary p r) := by intro e _ h; cases h
theorem doorbell (part : Nat) (off : Nat) (value : BitVec 64) : Statement (.doorbell part off value) := by
  intro e _ h; cases h
theorem hostMemAccess (stream : Nat) (pa : Nat) (acc : HostAccess) : Statement (.hostMemAccess stream pa acc) := by
  intro e _ h; cases h
theorem partCreate (cmd : Cmd) (slotShare : Nat) (snapShare : Nat) (ownerKey : Option (BitVec 256)) (mailbox : Nat) : Statement (.partCreate cmd slotShare snapShare ownerKey mailbox) := by
  intro e _ h; cases h
theorem partDestroy (cmd : Cmd) : Statement (.partDestroy cmd) := by intro e _ h; cases h
theorem granuleAssign (cmd : Cmd) (base : Nat) (count : Nat) : Statement (.granuleAssign cmd base count) := by
  intro e _ h; cases h
theorem granuleRemove (cmd : Cmd) (base : Nat) (count : Nat) : Statement (.granuleRemove cmd base count) := by
  intro e _ h; cases h
theorem execLoad (cmd : Cmd) (image : List (BitVec 8)) (signedBy : Signer) : Statement (.execLoad cmd image signedBy) := by
  intro e _ h; cases h
theorem ctxCreate (cmd : Cmd) (block : Nat) : Statement (.ctxCreate cmd block) := by intro e _ h; cases h
theorem ctxDestroy (cmd : Cmd) (ctx : Nat) : Statement (.ctxDestroy cmd ctx) := by intro e _ h; cases h
theorem debugGrant (cmd : Cmd) (ctx : Nat) : Statement (.debugGrant cmd ctx) := by intro e _ h; cases h
theorem debugRevoke (cmd : Cmd) (ctx : Nat) : Statement (.debugRevoke cmd ctx) := by intro e _ h; cases h
theorem debugSetComparator (cmd : Cmd) (ctx : Nat) (core : Nat) (idx : Nat) (cmp : Option Comparator) : Statement (.debugSetComparator cmd ctx core idx cmp) := by
  intro e _ h; cases h
theorem debugHalt (cmd : Cmd) (p : Nat) (r : Nat) : Statement (.debugHalt cmd p r) := by intro e _ h; cases h
theorem debugRelease (cmd : Cmd) (p : Nat) (r : Nat) : Statement (.debugRelease cmd p r) := by intro e _ h; cases h
theorem debugStateAccess (cmd : Cmd) (p : Nat) (r : Nat) (acc : DebugAccess) : Statement (.debugStateAccess cmd p r acc) := by
  intro e _ h; cases h
theorem debugHistoryRead (cmd : Cmd) (p : Nat) (r : Nat) : Statement (.debugHistoryRead cmd p r) := by intro e _ h; cases h
theorem debugTraceSet (cmd : Cmd) (ctx : Nat) (core : Nat) (set : Option TraceSet) : Statement (.debugTraceSet cmd ctx core set) := by
  intro e _ h; cases h
theorem debugSampleSet (cmd : Cmd) (ctx : Nat) (core : Nat) (set : Option SampleSet) : Statement (.debugSampleSet cmd ctx core set) := by
  intro e _ h; cases h
theorem health (cmd : Cmd) : Statement (.health cmd) := by intro e _ h; cases h
theorem failUnit (cmd : Cmd) (unit : FailUnit) : Statement (.failUnit cmd unit) := by intro e _ h; cases h
theorem poisonClear (cmd : Cmd) (line : Nat) : Statement (.poisonClear cmd line) := by intro e _ h; cases h
theorem reset (cmd : Cmd) : Statement (.reset cmd) := by intro e _ h; cases h
theorem patchLoad (cmd : Cmd) (image : List (BitVec 8)) (signedBy : Signer) : Statement (.patchLoad cmd image signedBy) := by
  intro e _ h; cases h
theorem setParam (cmd : Cmd) (par : Param) : Statement (.setParam cmd par) := by intro e _ h; cases h
theorem linkSession (cmd : Cmd) (tdev : Nat) (route : List Nat) (digestOk : Bool) : Statement (.linkSession cmd tdev route digestOk) := by
  intro e _ h; cases h
theorem launchEnd (cmd : Cmd) (ctx : Nat) (lid : BitVec 32) : Statement (.launchEnd cmd ctx lid) := by intro e _ h; cases h
theorem getMeasurements (part : Nat) : Statement (.getMeasurements part) := by intro e _ h; cases h
theorem stopInterface (part : Nat) : Statement (.stopInterface part) := by intro e _ h; cases h
theorem keyUpdate (tdev : Nat) : Statement (.keyUpdate tdev) := by intro e _ h; cases h
theorem linkFlitReceive (link : Nat) (flit : List (BitVec 8)) (tagOk : Bool) : Statement (.linkFlitReceive link flit tagOk) := by
  intro e _ h; cases h
theorem linkDown (link : Nat) : Statement (.linkDown link) := by intro e _ h; cases h
theorem thermalLimit (die : Nat) : Statement (.thermalLimit die) := by intro e _ h; cases h
theorem packageReset : Statement .packageReset := by intro e _ h; cases h
theorem illegalInstruction (raw : BitVec 64) : Statement (.illegalInstruction raw) := by intro e _ h; cases h
theorem patchSubstitute (entry : Nat) : Statement (.patchSubstitute entry) := by intro e _ h; cases h
theorem writeBecomesVisible (core : Nat) (idx : Nat) : Statement (.writeBecomesVisible core idx) := by intro e _ h; cases h
theorem countedLineEviction (line : Nat) : Statement (.countedLineEviction line) := by intro e _ h; cases h
theorem lockInterface (part : Nat) : Statement (.lockInterface part) := by intro e _ h; cases h
theorem startInterface (part : Nat) : Statement (.startInterface part) := by intro e _ h; cases h
theorem spdmRequest (req : SpdmRequest) : Statement (.spdmRequest req) := by intro e _ h; cases h
theorem remoteAccess (tdev : Nat) (pa : Nat) (acc : RemoteOp) : Statement (.remoteAccess tdev pa acc) := by
  intro e _ h; cases h

end Sys2Proof.Laws.Encoding
end

