-- ==== Sys2Proof/Laws/Results.lean ====
section
/-! SUPPORT. Instructions that write registers and go on: what a register result leaves, visible at once or owed until the run
ends (R61). -/
namespace Sys2Proof.Machine

set_option Elab.async false

theorem packs_forgetBase (s : State) (a : Agent) (n : RegName) : (s.forgetBase a n).packs = s.packs := by
  cases n <;> rfl

theorem has_forgetBase (s : State) (a b : Agent) (n : RegName) : (s.forgetBase a n).has b ↔ s.has b :=
  has_of_packs (packs_forgetBase s a n) b

theorem has_putReg (s : State) (a b : Agent) (n : RegName) (v : BitVec 64) : (s.putReg a n v).has b ↔ s.has b := by
  rw [State.putReg, ← has_forgetBase s a b n]
  cases a <;> cases n <;> simp only [State.regPut, State.modStrand] <;> split <;> try rfl
  all_goals rw [has_modRow]; intro w; simp

theorem thread_putReg (s : State) (a b : Agent) (n : RegName) (v : BitVec 64) :
    (s.putReg a n v).thread b = s.thread b := by
  rw [State.putReg, ← thread_of_packs (packs_forgetBase s a n) b]
  cases a <;> cases n <;> simp only [State.regPut] <;> split <;> try rfl
  all_goals first | rw [thread_modStrand] | rw [thread_modRow]
  all_goals intros; rfl

@[simp] theorem putReg_fetch (s : State) (a : Agent) (n : RegName) (v : BitVec 64) : (s.putReg a n v).fetch = s.fetch := by
  cases a <;> cases n <;> simp only [State.putReg, State.regPut] <;> split <;> rfl

/-- A register named in an agent's file. -/
def regIn (a : Agent) : RegName → Prop
  | .int n => inFile a [n]
  | .pred _ => True

/-- Whether a name is a register that reads a constant (R54). -/
def RegName.zero : RegName → Bool
  | .int n => n = 0
  | .pred n => n = 0

/-- What a register reads that a write would not change (R54). -/
def RegName.const : RegName → BitVec 64
  | .int _ => 0
  | .pred _ => BitVec.allOnes 64

theorem regNow_regPut {s : State} {a : Agent} {n : RegName} (h : s.has a) (hn : regIn a n) (v : BitVec 64) :
    (s.regPut a n v).regNow a n = if n.zero then n.const else v := by
  cases n with
  | int i =>
    by_cases hi : i = 0
    · subst hi; rfl
    · have hz : (RegName.int i).zero = false := decide_eq_false hi
      rw [hz, if_neg Bool.false_ne_true]
      cases a with
      | control p r =>
        have h32 : i.toNat < 32 := hn i (by simp)
        simp only [State.regNow, State.intReg, State.regPut, if_neg hi, State.row_modRow_same s p r _ h.1 h.2, setReg]
        simp [List.getD_eq_getElem?_getD, h32]
      | strand p r k =>
        simp only [State.regNow, State.intReg, State.regPut, if_neg hi, setReg,
          State.strand_modStrand_same s p r k _ h.1 h.2.1 h.2.2]
        simp
  | pred i =>
    by_cases hi : i = 0
    · subst hi; rfl
    · have hz : (RegName.pred i).zero = false := decide_eq_false hi
      rw [hz, if_neg Bool.false_ne_true]
      cases a with
      | control p r =>
        simp only [State.regNow, State.predReg, State.regPut, if_neg hi, State.row_modRow_same s p r _ h.1 h.2, setReg]
        simp
      | strand p r k =>
        simp only [State.regNow, State.predReg, State.regPut, if_neg hi, setReg,
          State.strand_modStrand_same s p r k _ h.1 h.2.1 h.2.2]
        simp

theorem regNow_putReg {s : State} {a : Agent} {n : RegName} (h : s.has a) (hn : regIn a n) (v : BitVec 64) :
    (s.putReg a n v).regNow a n = if n.zero then n.const else v :=
  regNow_regPut ((has_forgetBase s a a n).2 h) hn v

/-- A register no earlier value of which is owed reads its current value (R61). -/
theorem readReg_settled {s : State} {a : Agent} {n : RegName} (h : ∀ x ∈ (s.thread a).run.owed, x.1 ≠ n) :
    s.readReg a n = s.regNow a n := by
  have : s.olds a n = [] := by
    unfold State.olds
    split
    · rfl
    · simp only [List.filterMap_eq_nil_iff]
      intro x hx
      simp [h x hx]
  simp [State.readReg, this]

theorem frame_writeNow (s : State) (a : Agent) (n : RegName) (v : BitVec 64) : Frame s (s.writeNow a n v) a [n] :=
  (frame_putReg _ _ _ _).andThen (frame_thread _ _ _)

theorem frame_writeLate (s : State) (a : Agent) (n : RegName) (v : BitVec 64) : Frame s (s.writeLate a n v) a [n] := by
  unfold State.writeLate
  split
  · exact frame_putReg _ _ _ _
  · exact (frame_putReg _ _ _ _).andThen (frame_thread _ _ _)

theorem has_writeNow {s : State} {a : Agent} (h : s.has a) (n : RegName) (v : BitVec 64) : (s.writeNow a n v).has a :=
  (has_modThread _ _ _ _).2 ((has_putReg _ _ _ _ _).2 h)

theorem has_writeLate {s : State} {a : Agent} (h : s.has a) (n : RegName) (v : BitVec 64) : (s.writeLate a n v).has a := by
  unfold State.writeLate
  split
  · exact (has_putReg _ _ _ _ _).2 h
  · exact (has_modThread _ _ _ _).2 ((has_putReg _ _ _ _ _).2 h)

theorem regNow_modThread (s : State) (a : Agent) (f : Thread → Thread) (n : RegName) :
    (s.modThread a f).regNow a n = s.regNow a n := (frame_thread s a f).regs a n rfl (by simp)

/-- From a completed state, a frame and a place relative to the state before the write. -/
theorem Went.goes {s s' t : State} {a : Agent} {npc : BitVec 48} (w : Went s' t a npc) (hf : s'.fetch = s.fetch)
    (hp : (s'.thread a).pc = (s.thread a).pc) : Goes s t a npc :=
  ⟨by rw [w.pc, hf, hp], w.idle⟩

/-- An instruction that writes one register at once. -/
theorem completes_now {i : Form} {g : Guard} {f : State → Agent → Res} {s : State} {a : Agent} {n : RegName} {v : BitVec 64}
    {npc : BitVec 48} (hr : Ready s a) (hc : issueCheck i s a = none) (hg : s.guardOn a g = true) (hn : regIn a n)
    (hf : f s a = .done (s.writeNow a n v) (.go npc)) :
    ∃ t, issue i g f s = .next t ∧ t.readReg a n = (if n.zero then n.const else v) ∧ Frame s t a [n] ∧ Goes s t a npc := by
  obtain ⟨t, h, w⟩ := issue_go hr hc hg hf (has_writeNow hr.has n v)
  have ht : (s.writeNow a n v).thread a = { s.thread a with run := { (s.thread a).run with
      owed := (s.thread a).run.owed.filter fun x => x.1 ≠ n } } := by
    unfold State.writeNow
    rw [thread_modThread ((has_putReg _ _ _ _ _).2 hr.has), thread_putReg]
  refine ⟨t, h, ?_, (frame_writeNow s a n v).andThen w.frame, w.goes (by simp [State.writeNow]) (by rw [ht])⟩
  rw [readReg_settled, w.frame.regs a n rfl (by simp), State.writeNow, regNow_modThread, regNow_putReg hr.has hn]
  intro x hx
  rcases w.owed with e | e
  · rw [e, ht] at hx; simpa using (List.mem_filter.1 hx).2
  · rw [e] at hx; cases hx

/-- An instruction that writes one register whose value the run may not see yet: what later runs read. -/
theorem completes_late {i : Form} {g : Guard} {f : State → Agent → Res} {s : State} {a : Agent} {n : RegName} {v : BitVec 64}
    {npc : BitVec 48} (hr : Ready s a) (hc : issueCheck i s a = none) (hg : s.guardOn a g = true) (hn : regIn a n)
    (hf : f s a = .done (s.writeLate a n v) (.go npc)) :
    ∃ t, issue i g f s = .next t ∧ t.regNow a n = (if n.zero then n.const else v) ∧ Frame s t a [n] ∧ Goes s t a npc := by
  obtain ⟨t, h, w⟩ := issue_go hr hc hg hf (has_writeLate hr.has n v)
  have hp : ((s.writeLate a n v).thread a).pc = (s.thread a).pc := by
    unfold State.writeLate
    split
    · rw [thread_putReg]
    · rw [thread_modThread ((has_putReg _ _ _ _ _).2 hr.has), thread_putReg]
  have hfe : (s.writeLate a n v).fetch = s.fetch := by unfold State.writeLate; split <;> simp
  refine ⟨t, h, ?_, (frame_writeLate s a n v).andThen w.frame, w.goes hfe hp⟩
  rw [w.frame.regs a n rfl (by simp)]
  unfold State.writeLate
  split
  · exact regNow_putReg hr.has hn v
  · rw [regNow_modThread, regNow_putReg hr.has hn v]

/-- What a later run reads of a register (R61). -/
theorem int_endRun {s : State} {a : Agent} (h : s.has a) (w : Bool) (d : BitVec 6) :
    (s.endRun a w).int a d = s.regNow a (.int d) := by
  rw [State.int, readReg_settled, (frame_endRun s a w).regs a _ rfl (by simp)]
  rw [thread_endRun h]
  intro x hx; cases hx

end Sys2Proof.Machine
end

