-- ==== Sys2Proof/Tests/Slice0.lean ====
section
/-! SUPPORT. Tests by hand: words written out from the encodings of R51, R52 and R69 and what they decode to, results the spec
gives, and for every statement a state and operands that meet its hypotheses. -/
namespace Sys2Proof.Machine

set_option Elab.async false

/-! ## Words of the opcode map, by major (R69) -/

/-- Each list of native words, the head first, decodes to the instruction beside it. -/
noncomputable def decodes (l : List (List (BitVec 16) × Instr)) : Bool :=
  l.all fun x =>
    match decode { head := x.1.getD 0 0, w1 := x.1.getD 1 0, w2 := x.1.getD 2 0, w3 := x.1.getD 3 0 } with
    | .ok i => decide (i = x.2)
    | .error _ => false

/-- The words of the spec's own examples (R52 Example 1, R96 Example 1, R154 Example 5). -/
theorem test_decode_spec_examples : decodes [
    ([0x4043, 0x0420], .add 3 1 2), ([0x8104, 0x0C3F, 0xFFF8], .addi 4 3 (-8)), ([0xA406, 0x10C0, 0x0010], .ld64 6 4 16),
    ([0xC143, 0, 0, 0], .li 3 0), ([0x8281, 0x0840, 0], .cnei 1 2 0), ([0xA600, 0x0400, 0x0002], .br false 1 2),
    ([0x4A05, 0x00A0], .getsr 5 0 10), ([0x4A05, 0x00A1], .setsr 5 0 10),
    ([0x8807, 0x2092, 0x0002], .fmulS ⟨0, false⟩ ⟨false, 0⟩ 2 7 8 9),
    ([0xE881, 0x0830, 0x1A61, 0x1000], .ffmaS ⟨3, false⟩ ⟨true, 6⟩ 1 1 2 3 4),
    ([0x46C9, 0x0001], .qsendQ1 9), ([0x8282, 0x103F, 0xFFFF], .ceqi 2 4 (-1)),
    ([0xC641, 0x0040, 0x0061, 0x0000], .call 1 0x61)] = true := by decide +kernel

/-- R75 Example 3: two Adtan encodings. -/
theorem test_decode_adtan_examples :
    decodeAdtan 0x02182100 0 = .ok (.add 3 1 2) ∧ decodeAdtan 0x08206004 0xFFFFFFF8 = .ok (.addi 4 3 (-8)) :=
  ⟨rfl, rfl⟩

/-- Each reason to refuse an encoding: a reserved major (R70), a T that is not the format's (R52), an undefined D and F (R69), an
unused field and a register field out of range (R54, R53), reserved operands (R55, R72). -/
theorem test_decode_refuses :
    decode { head := 0x0300 } = .error .reservedMajor ∧ decode { head := 0x8043 } = .error .formatMismatch ∧
    decode { head := 11 } = .error .undefinedFunction ∧
    decode { head := 0x4083, w1 := 0x0428 } = .error .undefinedFunction ∧
    decode { head := 0x40C3, w1 := 0x0410 } = .error .illegalField ∧
    decode { head := 0x4260, w1 := 0 } = .error .illegalField ∧
    decode { head := 0x81C3, w1 := 0x0420, w2 := 0x0400 } = .error .reservedOperand :=
  ⟨rfl, rfl, rfl, rfl, rfl, rfl, rfl⟩

/-- Ill-formed terms, one for each kind of check of R55, R58, R72, R53, R8, R218, R252 and R71. -/
theorem test_ill_formed :
    [Instr.sel ⟨0, true⟩ 1 2 3, .faddS ⟨0, false⟩ ⟨false, 1⟩ 0 1 2 3, .faddS ⟨0, false⟩ ⟨false, 0⟩ 6 1 2 3, .getsr 1 0 41,
      .vceq ⟨0, false⟩ true 1 2 32, .vamoAdd ⟨0, false⟩ false 1 2 3 4, .mma 0 0 0 6 0 false false false,
      .mma 0 0 0 0 7 false false false, .tlwait ⟨0, false⟩ 1 2 6, .ringdef 0 0 0 0 1, .ringdef 0 0 0 0 17,
      .amoAdd ⟨0, false⟩ 1 2 3 0 6 false, .fence 6].all (fun i => !i.wf) = true := by decide +kernel

/-- What the checks refuse, the decoder refuses: the encodings of those terms stand for nothing. -/
theorem test_ill_formed_refused :
    [Instr.sel ⟨0, true⟩ 1 2 3, .faddS ⟨0, false⟩ ⟨false, 0⟩ 6 1 2 3, .mma 0 0 0 6 0 false false false, .ringdef 0 0 0 0 1,
      .amoAdd ⟨0, false⟩ 1 2 3 0 6 false, .fence 6].all (fun i =>
        match encode false i with
        | some w => (match decode w with | .ok _ => false | .error r => decide (r = .reservedOperand))
        | none => false) = true := by decide +kernel

/-- The bytes of R46 Example 1's line: slot 1 takes the tail at the end of the line, and the line is legal control code. -/
def exampleLine : List (BitVec 8) :=
  [0x00, 0x18, 0x43, 0x40, 0x04, 0x81, 0x06, 0xA4] ++ List.replicate 46 0 ++
    [0xC0, 0x10, 0x10, 0x00, 0x3F, 0x0C, 0xF8, 0xFF, 0x20, 0x04]

theorem test_line_example :
    lineReason exampleLine false = none ∧ lineReason exampleLine true = some 5 ∧ lineCount exampleLine = 3 ∧
    slotWords exampleLine 1 = 0x04204043 ∧ slotWords exampleLine 2 = 0xFFF80C3F8104 ∧
    slotWords exampleLine 3 = 0x001010C0A406 := by decide +kernel

theorem test_decode_major_00 : decodes [
    ([0x0000], .nop), ([0x0001], .stop), ([0x0002], .halt), ([0x0003], .heel), ([0x0004], .rwait), ([0x0005], .brk),
    ([0x0006], .tret), ([0x0007], .vdrainLd), ([0x0008], .vdrainSt), ([0x0009], .vdrain), ([0x000A], .txabort)] = true := by decide +kernel

theorem test_decode_major_01 : decodes [
    ([0x4066, 0xD690], .add 38 53 41), ([0x4066, 0xD691], .sub 38 53 41), ([0x4066, 0xD692], .and 38 53 41),
    ([0x4066, 0xD693], .or 38 53 41), ([0x4066, 0xD694], .xor 38 53 41), ([0x4066, 0xD695], .andn 38 53 41),
    ([0x4066, 0xD696], .sll 38 53 41), ([0x4066, 0xD697], .srl 38 53 41), ([0x4066, 0xD698], .sra 38 53 41),
    ([0x4066, 0xD699], .rol 38 53 41), ([0x4066, 0xD69A], .min 38 53 41), ([0x4066, 0xD69B], .max 38 53 41),
    ([0x4066, 0xD69C], .minu 38 53 41), ([0x4066, 0xD69D], .maxu 38 53 41), ([0x4066, 0xD69E], .addw 38 53 41),
    ([0x4066, 0xD69F], .subw 38 53 41)] = true := by decide +kernel

theorem test_decode_major_02 : decodes [
    ([0x40A6, 0xD690], .mul 38 53 41), ([0x40A6, 0xD691], .mulh 38 53 41), ([0x40A6, 0xD692], .mulhu 38 53 41),
    ([0x40A6, 0xD693], .div 38 53 41), ([0x40A6, 0xD694], .divu 38 53 41), ([0x40A6, 0xD695], .rem 38 53 41),
    ([0x40A6, 0xD696], .remu 38 53 41), ([0x40A6, 0xD697], .mulw 38 53 41)] = true := by decide +kernel

theorem test_decode_major_03 : decodes [
    ([0x40E6, 0xD400], .clz 38 53), ([0x40E6, 0xD401], .ctz 38 53), ([0x40E6, 0xD402], .popc 38 53),
    ([0x40E6, 0xD403], .bswap 38 53), ([0x40E6, 0xD404], .brev 38 53), ([0x40E6, 0xD405], .sxb 38 53),
    ([0x40E6, 0xD406], .sxh 38 53), ([0x40E6, 0xD407], .sxw 38 53), ([0x40E6, 0xD408], .zxw 38 53)] = true := by decide +kernel

theorem test_decode_major_04 : decodes [
    ([0x8126, 0xD42A, 0xBCDE], .addi 38 53 0x2ABCDE), ([0x8126, 0xD46A, 0xBCDE], .andi 38 53 0x2ABCDE),
    ([0x8126, 0xD4AA, 0xBCDE], .ori 38 53 0x2ABCDE), ([0x8126, 0xD4EA, 0xBCDE], .xori 38 53 0x2ABCDE),
    ([0x8126, 0xD500, 0x002C], .slli 38 53 0x2C), ([0x8126, 0xD540, 0x002C], .srli 38 53 0x2C),
    ([0x8126, 0xD580, 0x002C], .srai 38 53 0x2C), ([0x8126, 0xD5C0, 0x002C], .roli 38 53 0x2C)] = true := by decide +kernel

theorem test_decode_major_05 : decodes [
    ([0xC166, 0x002A, 0x1234, 0xBCDE], .li 38 0x2ABCDE1234)] = true := by decide +kernel

theorem test_decode_major_06 : decodes [
    ([0x81A6, 0x002A, 0xBCDE], .lhi 38 0x2ABCDE)] = true := by decide +kernel

theorem test_decode_major_07 : decodes [
    ([0x81E6, 0xD690, 0x4C00], .sel ⟨9, true⟩ 38 53 41)] = true := by decide +kernel

theorem test_decode_major_08 : decodes [
    ([0x8226, 0xD690, 0x4C02], .adda ⟨9, true⟩ 38 53 41 2)] = true := by decide +kernel

theorem test_decode_major_09 : decodes [
    ([0x4256, 0xD690], .ceq 22 53 41), ([0x4256, 0xD691], .cne 22 53 41), ([0x4256, 0xD692], .clt 22 53 41),
    ([0x4256, 0xD693], .cge 22 53 41), ([0x4256, 0xD694], .cltu 22 53 41), ([0x4256, 0xD695], .cgeu 22 53 41)] = true := by decide +kernel

theorem test_decode_major_0A : decodes [
    ([0x8296, 0xD42A, 0xBCDE], .ceqi 22 53 0x2ABCDE), ([0x8296, 0xD46A, 0xBCDE], .cnei 22 53 0x2ABCDE),
    ([0x8296, 0xD4AA, 0xBCDE], .clti 22 53 0x2ABCDE), ([0x8296, 0xD4EA, 0xBCDE], .cgei 22 53 0x2ABCDE),
    ([0x8296, 0xD52A, 0xBCDE], .cltui 22 53 0x2ABCDE), ([0x8296, 0xD56A, 0xBCDE], .cgeui 22 53 0x2ABCDE)] = true := by decide +kernel

theorem test_decode_major_0B : decodes [
    ([0x42D6, 0x5490], .pand 22 21 9), ([0x42D6, 0x5491], .por 22 21 9), ([0x42D6, 0x5492], .pxor 22 21 9),
    ([0x42D6, 0x5493], .pandn 22 21 9), ([0x42D6, 0x5404], .pnot 22 21), ([0x42D6, 0x5405], .pmov 22 21)] = true := by decide +kernel

theorem test_decode_major_10 : decodes [
    ([0x8426, 0xD42A, 0xBCDE], .ld8 38 53 0x2ABCDE), ([0x8426, 0xD46A, 0xBCDE], .ld16 38 53 0x2ABCDE),
    ([0x8426, 0xD4AA, 0xBCDE], .ld32 38 53 0x2ABCDE), ([0x8426, 0xD4EA, 0xBCDE], .ld64 38 53 0x2ABCDE),
    ([0x8426, 0xD52A, 0xBCDE], .ld8s 38 53 0x2ABCDE), ([0x8426, 0xD56A, 0xBCDE], .ld16s 38 53 0x2ABCDE),
    ([0x8426, 0xD5AA, 0xBCDE], .ld32s 38 53 0x2ABCDE)] = true := by decide +kernel

theorem test_decode_major_11 : decodes [
    ([0x8466, 0xD42A, 0xBCDE], .st8 38 53 0x2ABCDE), ([0x8466, 0xD46A, 0xBCDE], .st16 38 53 0x2ABCDE),
    ([0x8466, 0xD4AA, 0xBCDE], .st32 38 53 0x2ABCDE), ([0x8466, 0xD4EA, 0xBCDE], .st64 38 53 0x2ABCDE)] = true := by decide +kernel

theorem test_decode_major_12 : decodes [
    ([0x84A6, 0xD42A, 0xBCDE], .ldl8 38 53 0x2ABCDE), ([0x84A6, 0xD46A, 0xBCDE], .ldl16 38 53 0x2ABCDE),
    ([0x84A6, 0xD4AA, 0xBCDE], .ldl32 38 53 0x2ABCDE), ([0x84A6, 0xD4EA, 0xBCDE], .ldl64 38 53 0x2ABCDE)] = true := by decide +kernel

theorem test_decode_major_13 : decodes [
    ([0x84E6, 0xD42A, 0xBCDE], .stl8 38 53 0x2ABCDE), ([0x84E6, 0xD46A, 0xBCDE], .stl16 38 53 0x2ABCDE),
    ([0x84E6, 0xD4AA, 0xBCDE], .stl32 38 53 0x2ABCDE), ([0x84E6, 0xD4EA, 0xBCDE], .stl64 38 53 0x2ABCDE)] = true := by decide +kernel

theorem test_decode_major_14 : decodes [
    ([0x8526, 0xD42A, 0xBCDE], .ldv8 38 53 0x2ABCDE), ([0x8526, 0xD46A, 0xBCDE], .ldv16 38 53 0x2ABCDE),
    ([0x8526, 0xD4AA, 0xBCDE], .ldv32 38 53 0x2ABCDE), ([0x8526, 0xD4EA, 0xBCDE], .ldv64 38 53 0x2ABCDE)] = true := by decide +kernel

theorem test_decode_major_18 : decodes [
    ([0x8600, 0xD42A, 0xBCDE], .br true 21 0x2ABCDE)] = true := by decide +kernel

theorem test_decode_major_19 : decodes [
    ([0xC640, 0x002A, 0x1234, 0xBCDE], .jmp 0x2ABCDE1234), ([0xC666, 0x006A, 0x1234, 0xBCDE], .call 38 0x2ABCDE1234),
    ([0xC640, 0xD480, 0x0000, 0x0000], .jmpr 53), ([0xC666, 0xD4C0, 0x0000, 0x0000], .callr 38 53),
    ([0xC640, 0xD500, 0x0000, 0x0000], .ret 53)] = true := by decide +kernel

theorem test_decode_major_1A : decodes [
    ([0xC680, 0x002A, 0x1234, 0xBCDE], .fetch 0x2ABCDE1234), ([0xC680, 0xD440, 0x0000, 0x0000], .fetchr 53),
    ([0xC680, 0x00AA, 0x1234, 0xBCDE], .leash 0x2ABCDE1234), ([0xC680, 0xD4C0, 0x0000, 0x0000], .leashr 53)] = true := by decide +kernel

theorem test_decode_major_1B : decodes [
    ([0x46E6, 0x0000], .qsendQ0 38), ([0x46E6, 0x0001], .qsendQ1 38), ([0x46E6, 0x0002], .qrecvQ0 38),
    ([0x46E6, 0x0003], .qrecvQ1 38), ([0x46D6, 0x0004], .xqpushQ0 22), ([0x46D6, 0x0005], .xqpushQ1 22),
    ([0x46D6, 0x0006], .xqpopQ0 22), ([0x46D6, 0x0007], .xqpopQ1 22)] = true := by decide +kernel

theorem test_decode_major_20 : decodes [
    ([0x8826, 0xD690, 0x4ED4], .faddS ⟨9, true⟩ ⟨true, 13⟩ 4 38 53 41),
    ([0x8826, 0xD691, 0x4ED4], .fsubS ⟨9, true⟩ ⟨true, 13⟩ 4 38 53 41),
    ([0x8826, 0xD692, 0x4ED4], .fmulS ⟨9, true⟩ ⟨true, 13⟩ 4 38 53 41),
    ([0x8826, 0xD693, 0x4ED4], .fdivS ⟨9, true⟩ ⟨true, 13⟩ 4 38 53 41),
    ([0x8826, 0xD694, 0x4ED0], .fminS ⟨9, true⟩ ⟨true, 13⟩ 38 53 41),
    ([0x8826, 0xD695, 0x4ED0], .fmaxS ⟨9, true⟩ ⟨true, 13⟩ 38 53 41),
    ([0x8826, 0xD406, 0x4ED4], .fsqrtS ⟨9, true⟩ ⟨true, 13⟩ 4 38 53),
    ([0x8826, 0xD407, 0x4ED0], .fabsS ⟨9, true⟩ ⟨true, 13⟩ 38 53),
    ([0x8826, 0xD408, 0x4ED0], .fnegS ⟨9, true⟩ ⟨true, 13⟩ 38 53)] = true := by decide +kernel

theorem test_decode_major_21 : decodes [
    ([0x8866, 0xD690, 0x4ED4], .faddD ⟨9, true⟩ ⟨true, 13⟩ 4 38 53 41),
    ([0x8866, 0xD691, 0x4ED4], .fsubD ⟨9, true⟩ ⟨true, 13⟩ 4 38 53 41),
    ([0x8866, 0xD692, 0x4ED4], .fmulD ⟨9, true⟩ ⟨true, 13⟩ 4 38 53 41),
    ([0x8866, 0xD693, 0x4ED4], .fdivD ⟨9, true⟩ ⟨true, 13⟩ 4 38 53 41),
    ([0x8866, 0xD694, 0x4ED0], .fminD ⟨9, true⟩ ⟨true, 13⟩ 38 53 41),
    ([0x8866, 0xD695, 0x4ED0], .fmaxD ⟨9, true⟩ ⟨true, 13⟩ 38 53 41),
    ([0x8866, 0xD406, 0x4ED4], .fsqrtD ⟨9, true⟩ ⟨true, 13⟩ 4 38 53),
    ([0x8866, 0xD407, 0x4ED0], .fabsD ⟨9, true⟩ ⟨true, 13⟩ 38 53),
    ([0x8866, 0xD408, 0x4ED0], .fnegD ⟨9, true⟩ ⟨true, 13⟩ 38 53)] = true := by decide +kernel

theorem test_decode_major_22 : decodes [
    ([0xC8A6, 0xD690, 0x4ED4, 0xE800], .ffmaS ⟨9, true⟩ ⟨true, 13⟩ 4 38 53 41 58),
    ([0xC8A6, 0xD691, 0x4ED4, 0xE800], .ffmsS ⟨9, true⟩ ⟨true, 13⟩ 4 38 53 41 58),
    ([0xC8A6, 0xD692, 0x4ED4, 0xE800], .ffnmaS ⟨9, true⟩ ⟨true, 13⟩ 4 38 53 41 58),
    ([0xC8A6, 0xD694, 0x4ED4, 0xE800], .ffmaD ⟨9, true⟩ ⟨true, 13⟩ 4 38 53 41 58),
    ([0xC8A6, 0xD695, 0x4ED4, 0xE800], .ffmsD ⟨9, true⟩ ⟨true, 13⟩ 4 38 53 41 58),
    ([0xC8A6, 0xD696, 0x4ED4, 0xE800], .ffnmaD ⟨9, true⟩ ⟨true, 13⟩ 4 38 53 41 58)] = true := by decide +kernel

theorem test_decode_major_23 : decodes [
    ([0x48D6, 0xD690], .feqS 22 53 41), ([0x48D6, 0xD691], .fltS 22 53 41), ([0x48D6, 0xD692], .fleS 22 53 41),
    ([0x48D6, 0xD693], .funordS 22 53 41), ([0x48D6, 0xD694], .feqD 22 53 41), ([0x48D6, 0xD695], .fltD 22 53 41),
    ([0x48D6, 0xD696], .fleD 22 53 41), ([0x48D6, 0xD697], .funordD 22 53 41)] = true := by decide +kernel

theorem test_decode_major_24 : decodes [
    ([0x8926, 0xD400, 0x4ED4], .cvtF64F32 ⟨9, true⟩ ⟨true, 13⟩ 4 38 53),
    ([0x8926, 0xD401, 0x4ED4], .cvtF32F64 ⟨9, true⟩ ⟨true, 13⟩ 4 38 53),
    ([0x8926, 0xD402, 0x4ED4], .cvtF32I64 ⟨9, true⟩ ⟨true, 13⟩ 4 38 53),
    ([0x8926, 0xD403, 0x4ED4], .cvtI64F32 ⟨9, true⟩ ⟨true, 13⟩ 4 38 53),
    ([0x8926, 0xD404, 0x4ED4], .cvtF64I64 ⟨9, true⟩ ⟨true, 13⟩ 4 38 53),
    ([0x8926, 0xD405, 0x4ED4], .cvtI64F64 ⟨9, true⟩ ⟨true, 13⟩ 4 38 53),
    ([0x8926, 0xD406, 0x4ED4], .cvtBf16F32 ⟨9, true⟩ ⟨true, 13⟩ 4 38 53),
    ([0x8926, 0xD407, 0x4ED4], .cvtF32Bf16 ⟨9, true⟩ ⟨true, 13⟩ 4 38 53),
    ([0x8926, 0xD408, 0x4ED4], .cvtFp16F32 ⟨9, true⟩ ⟨true, 13⟩ 4 38 53),
    ([0x8926, 0xD409, 0x4ED4], .cvtF32Fp16 ⟨9, true⟩ ⟨true, 13⟩ 4 38 53),
    ([0x8926, 0xD40A, 0x4ED4], .cvtE4m3F32 ⟨9, true⟩ ⟨true, 13⟩ 4 38 53),
    ([0x8926, 0xD40B, 0x4ED4], .cvtF32E4m3 ⟨9, true⟩ ⟨true, 13⟩ 4 38 53),
    ([0x8926, 0xD40C, 0x4ED4], .cvtE5m2F32 ⟨9, true⟩ ⟨true, 13⟩ 4 38 53),
    ([0x8926, 0xD40D, 0x4ED4], .cvtF32E5m2 ⟨9, true⟩ ⟨true, 13⟩ 4 38 53),
    ([0x8926, 0xD40E, 0x4ED4], .cvtLgF32 ⟨9, true⟩ ⟨true, 13⟩ 4 38 53),
    ([0x8926, 0xD40F, 0x4ED4], .cvtF32Lg ⟨9, true⟩ ⟨true, 13⟩ 4 38 53)] = true := by decide +kernel

theorem test_decode_major_28 : decodes [
    ([0x4A26, 0xD690], .getsr 38 53 41), ([0x4A26, 0xD691], .setsr 38 53 41), ([0x4A00, 0xD692], .trap 53 41),
    ([0x4A26, 0x0003], .rdcyc 38), ([0x4A03, 0x0290], .cpgo 3)] = true := by decide +kernel

theorem test_decode_major_30 : decodes [
    ([0xCC00, 0x002A, 0x1234, 0xBCDE], .rfetch 0x2ABCDE1234),
    ([0xCC00, 0x006A, 0x1234, 0xBCDE], .rfetchIdem 0x2ABCDE1234), ([0xCC00, 0x5480, 0x0000, 0x0000], .rfetchr 21),
    ([0xCC00, 0x54C0, 0x0000, 0x0000], .rfetchrIdem 21)] = true := by decide +kernel

theorem test_decode_major_31 : decodes [
    ([0x8C56, 0x5400, 0x0013], .setvl 22 21 19)] = true := by decide +kernel

theorem test_decode_major_32 : decodes [
    ([0x4C96, 0x5400], .launch 22 21)] = true := by decide +kernel

theorem test_decode_major_40 : decodes [
    ([0xD026, 0xD690, 0x4C00, 0x0000], .vadd ⟨9, true⟩ 38 53 41),
    ([0xD026, 0xD691, 0x4C00, 0x0000], .vsub ⟨9, true⟩ 38 53 41),
    ([0xD026, 0xD692, 0x4C00, 0x0000], .vmul ⟨9, true⟩ 38 53 41),
    ([0xD026, 0xD693, 0x4C00, 0x0000], .vmulh ⟨9, true⟩ 38 53 41),
    ([0xD026, 0xD694, 0x4C00, 0x0000], .vand ⟨9, true⟩ 38 53 41),
    ([0xD026, 0xD695, 0x4C00, 0x0000], .vor ⟨9, true⟩ 38 53 41),
    ([0xD026, 0xD696, 0x4C00, 0x0000], .vxor ⟨9, true⟩ 38 53 41),
    ([0xD026, 0xD697, 0x4C00, 0x0000], .vsll ⟨9, true⟩ 38 53 41),
    ([0xD026, 0xD698, 0x4C00, 0x0000], .vsrl ⟨9, true⟩ 38 53 41),
    ([0xD026, 0xD699, 0x4C00, 0x0000], .vsra ⟨9, true⟩ 38 53 41),
    ([0xD026, 0xD69A, 0x4C00, 0x0000], .vmin ⟨9, true⟩ 38 53 41),
    ([0xD026, 0xD69B, 0x4C00, 0x0000], .vmax ⟨9, true⟩ 38 53 41),
    ([0xD026, 0xD69C, 0x4C00, 0x0000], .vminu ⟨9, true⟩ 38 53 41),
    ([0xD026, 0xD69D, 0x4C00, 0x0000], .vmaxu ⟨9, true⟩ 38 53 41),
    ([0xD026, 0xD69E, 0x4CD0, 0x6800], .vadc ⟨9, true⟩ 38 53 41 26 13),
    ([0xD026, 0xD69F, 0x4CD0, 0x6800], .vsbc ⟨9, true⟩ 38 53 41 26 13)] = true := by decide +kernel

theorem test_decode_major_41 : decodes [
    ([0xD066, 0xD490, 0x4C00, 0x0000], .vaddVx ⟨9, true⟩ 38 53 9),
    ([0xD066, 0xD491, 0x4C00, 0x0000], .vsubVx ⟨9, true⟩ 38 53 9),
    ([0xD066, 0xD492, 0x4C00, 0x0000], .vmulVx ⟨9, true⟩ 38 53 9),
    ([0xD066, 0xD493, 0x4C00, 0x0000], .vmulhVx ⟨9, true⟩ 38 53 9),
    ([0xD066, 0xD494, 0x4C00, 0x0000], .vandVx ⟨9, true⟩ 38 53 9),
    ([0xD066, 0xD495, 0x4C00, 0x0000], .vorVx ⟨9, true⟩ 38 53 9),
    ([0xD066, 0xD496, 0x4C00, 0x0000], .vxorVx ⟨9, true⟩ 38 53 9),
    ([0xD066, 0xD497, 0x4C00, 0x0000], .vsllVx ⟨9, true⟩ 38 53 9),
    ([0xD066, 0xD498, 0x4C00, 0x0000], .vsrlVx ⟨9, true⟩ 38 53 9),
    ([0xD066, 0xD499, 0x4C00, 0x0000], .vsraVx ⟨9, true⟩ 38 53 9),
    ([0xD066, 0xD49A, 0x4C00, 0x0000], .vminVx ⟨9, true⟩ 38 53 9),
    ([0xD066, 0xD49B, 0x4C00, 0x0000], .vmaxVx ⟨9, true⟩ 38 53 9),
    ([0xD066, 0xD49C, 0x4C00, 0x0000], .vminuVx ⟨9, true⟩ 38 53 9),
    ([0xD066, 0xD49D, 0x4C00, 0x0000], .vmaxuVx ⟨9, true⟩ 38 53 9),
    ([0xD066, 0xD49E, 0x4CD0, 0x6800], .vadcVx ⟨9, true⟩ 38 53 9 26 13),
    ([0xD066, 0xD49F, 0x4CD0, 0x6800], .vsbcVx ⟨9, true⟩ 38 53 9 26 13)] = true := by decide +kernel

theorem test_decode_major_42 : decodes [
    ([0xD0A6, 0xD690, 0x4ED4, 0x0001], .vfadd ⟨9, true⟩ ⟨true, 13⟩ 4 true 38 53 41),
    ([0xD0A6, 0xD691, 0x4ED4, 0x0001], .vfsub ⟨9, true⟩ ⟨true, 13⟩ 4 true 38 53 41),
    ([0xD0A6, 0xD692, 0x4ED4, 0x0001], .vfmul ⟨9, true⟩ ⟨true, 13⟩ 4 true 38 53 41),
    ([0xD0A6, 0xD693, 0x4ED4, 0x0001], .vfdiv ⟨9, true⟩ ⟨true, 13⟩ 4 true 38 53 41),
    ([0xD0A6, 0xD694, 0x4ED0, 0x0001], .vfmin ⟨9, true⟩ ⟨true, 13⟩ true 38 53 41),
    ([0xD0A6, 0xD695, 0x4ED0, 0x0001], .vfmax ⟨9, true⟩ ⟨true, 13⟩ true 38 53 41),
    ([0xD0A6, 0xD406, 0x4ED4, 0x0001], .vfsqrt ⟨9, true⟩ ⟨true, 13⟩ 4 true 38 53),
    ([0xD0A6, 0xD697, 0x4ED4, 0xE801], .vfma ⟨9, true⟩ ⟨true, 13⟩ 4 true 38 53 41 58),
    ([0xD0A6, 0xD698, 0x4ED4, 0xE801], .vfms ⟨9, true⟩ ⟨true, 13⟩ 4 true 38 53 41 58),
    ([0xD0A6, 0xD699, 0x4ED4, 0xE801], .vfnma ⟨9, true⟩ ⟨true, 13⟩ 4 true 38 53 41 58),
    ([0xD0A6, 0xD40A, 0x4ED0, 0x0001], .vfabs ⟨9, true⟩ ⟨true, 13⟩ true 38 53),
    ([0xD0A6, 0xD40B, 0x4ED0, 0x0001], .vfneg ⟨9, true⟩ ⟨true, 13⟩ true 38 53)] = true := by decide +kernel

theorem test_decode_major_43 : decodes [
    ([0xD0D6, 0xD490, 0x4C00, 0x0002], .vceq ⟨9, true⟩ true 22 53 9),
    ([0xD0D6, 0xD491, 0x4C00, 0x0002], .vcne ⟨9, true⟩ true 22 53 9),
    ([0xD0D6, 0xD492, 0x4C00, 0x0002], .vclt ⟨9, true⟩ true 22 53 9),
    ([0xD0D6, 0xD493, 0x4C00, 0x0002], .vcge ⟨9, true⟩ true 22 53 9),
    ([0xD0D6, 0xD494, 0x4C00, 0x0002], .vcltu ⟨9, true⟩ true 22 53 9),
    ([0xD0D6, 0xD495, 0x4C00, 0x0002], .vcgeu ⟨9, true⟩ true 22 53 9),
    ([0xD0D6, 0xD498, 0x4ED0, 0x0002], .vfeq ⟨9, true⟩ ⟨true, 13⟩ true 22 53 9),
    ([0xD0D6, 0xD499, 0x4ED0, 0x0002], .vflt ⟨9, true⟩ ⟨true, 13⟩ true 22 53 9),
    ([0xD0D6, 0xD49A, 0x4ED0, 0x0002], .vfle ⟨9, true⟩ ⟨true, 13⟩ true 22 53 9),
    ([0xD0D6, 0xD49B, 0x4ED0, 0x0002], .vfunord ⟨9, true⟩ ⟨true, 13⟩ true 22 53 9)] = true := by decide +kernel

theorem test_decode_major_44 : decodes [
    ([0x9116, 0x5490, 0x4C00], .mand ⟨9, true⟩ 22 21 9), ([0x9116, 0x5491, 0x4C00], .mor ⟨9, true⟩ 22 21 9),
    ([0x9116, 0x5492, 0x4C00], .mxor ⟨9, true⟩ 22 21 9), ([0x9116, 0x5493, 0x4C00], .mandn ⟨9, true⟩ 22 21 9),
    ([0x9116, 0x5404, 0x4C00], .mnot ⟨9, true⟩ 22 21), ([0x9116, 0x5405, 0x4C00], .mmov ⟨9, true⟩ 22 21),
    ([0x9116, 0x5406, 0x4C00], .mshl ⟨9, true⟩ 22 21), ([0x9116, 0x5407, 0x4C00], .mshr ⟨9, true⟩ 22 21),
    ([0x9116, 0x0008, 0x4C00], .mset ⟨9, true⟩ 22), ([0x9116, 0x0009, 0x4C00], .mclr ⟨9, true⟩ 22),
    ([0x9116, 0x000A, 0x4C00], .mrdd ⟨9, true⟩ 22), ([0x9100, 0x540B, 0x4C00], .mwrd ⟨9, true⟩ 21)] = true := by decide +kernel

theorem test_decode_major_45 : decodes [
    ([0x5156, 0x5400], .mpop 22 21), ([0x5156, 0x5401], .mffs 22 21), ([0x5156, 0x5402], .mfls 22 21)] = true := by decide +kernel

theorem test_decode_major_46 : decodes [
    ([0xD1A6, 0xD490, 0x4C00, 0x0000], .vslideup ⟨9, true⟩ 38 53 9),
    ([0xD1A6, 0xD491, 0x4C00, 0x0000], .vslidedn ⟨9, true⟩ 38 53 9),
    ([0xD1A6, 0xD692, 0x4C00, 0x0000], .vperm ⟨9, true⟩ 38 53 41),
    ([0xD1A6, 0x5403, 0x4C00, 0x0000], .vbcast ⟨9, true⟩ 38 21), ([0xD1A6, 0xD494, 0x0000, 0x0000], .vcompress 38 53 9),
    ([0xD1A6, 0xD495, 0x0000, 0x0000], .vexpand 38 53 9), ([0xD196, 0xD496, 0x0000, 0x0000], .vext 22 53 9),
    ([0xD1A6, 0x5497, 0x0000, 0x0000], .vins 38 21 9)] = true := by decide +kernel

theorem test_decode_major_47 : decodes [
    ([0xD1D6, 0xD490, 0x4C00, 0x0001], .vredoFadd ⟨9, true⟩ true 22 53 9),
    ([0xD1D6, 0xD491, 0x4C00, 0x0001], .vredtFadd ⟨9, true⟩ true 22 53 9),
    ([0xD1D6, 0xD492, 0x4C00, 0x0001], .vredFmax ⟨9, true⟩ true 22 53 9),
    ([0xD1D6, 0xD493, 0x4C00, 0x0001], .vredFmin ⟨9, true⟩ true 22 53 9),
    ([0xD1D6, 0xD494, 0x4C00, 0x0000], .vredAdd ⟨9, true⟩ 22 53 9),
    ([0xD1D6, 0xD495, 0x4C00, 0x0000], .vredAnd ⟨9, true⟩ 22 53 9),
    ([0xD1D6, 0xD496, 0x4C00, 0x0000], .vredOr ⟨9, true⟩ 22 53 9),
    ([0xD1D6, 0xD497, 0x4C00, 0x0000], .vredXor ⟨9, true⟩ 22 53 9),
    ([0xD1D6, 0xD498, 0x4C00, 0x0000], .vredMax ⟨9, true⟩ 22 53 9),
    ([0xD1D6, 0xD499, 0x4C00, 0x0000], .vredMin ⟨9, true⟩ 22 53 9),
    ([0xD1D6, 0xD49A, 0x4C00, 0x0000], .vredMaxu ⟨9, true⟩ 22 53 9),
    ([0xD1D6, 0xD49B, 0x4C00, 0x0000], .vredMinu ⟨9, true⟩ 22 53 9)] = true := by decide +kernel

theorem test_decode_major_48 : decodes [
    ([0xD226, 0xD400, 0x4ED4, 0x0000], .vcvtF64F32 ⟨9, true⟩ ⟨true, 13⟩ 4 38 53),
    ([0xD226, 0xD401, 0x4ED4, 0x0000], .vcvtF32F64 ⟨9, true⟩ ⟨true, 13⟩ 4 38 53),
    ([0xD226, 0xD402, 0x4ED4, 0x0000], .vcvtF32I64 ⟨9, true⟩ ⟨true, 13⟩ 4 38 53),
    ([0xD226, 0xD403, 0x4ED4, 0x0000], .vcvtI64F32 ⟨9, true⟩ ⟨true, 13⟩ 4 38 53),
    ([0xD226, 0xD404, 0x4ED4, 0x0000], .vcvtF64I64 ⟨9, true⟩ ⟨true, 13⟩ 4 38 53),
    ([0xD226, 0xD405, 0x4ED4, 0x0000], .vcvtI64F64 ⟨9, true⟩ ⟨true, 13⟩ 4 38 53),
    ([0xD226, 0xD406, 0x4ED4, 0x0000], .vcvtBf16F32 ⟨9, true⟩ ⟨true, 13⟩ 4 38 53),
    ([0xD226, 0xD407, 0x4ED4, 0x0000], .vcvtF32Bf16 ⟨9, true⟩ ⟨true, 13⟩ 4 38 53),
    ([0xD226, 0xD408, 0x4ED4, 0x0000], .vcvtFp16F32 ⟨9, true⟩ ⟨true, 13⟩ 4 38 53),
    ([0xD226, 0xD409, 0x4ED4, 0x0000], .vcvtF32Fp16 ⟨9, true⟩ ⟨true, 13⟩ 4 38 53),
    ([0xD226, 0xD40A, 0x4ED4, 0x0000], .vcvtE4m3F32 ⟨9, true⟩ ⟨true, 13⟩ 4 38 53),
    ([0xD226, 0xD40B, 0x4ED4, 0x0000], .vcvtF32E4m3 ⟨9, true⟩ ⟨true, 13⟩ 4 38 53),
    ([0xD226, 0xD40C, 0x4ED4, 0x0000], .vcvtE5m2F32 ⟨9, true⟩ ⟨true, 13⟩ 4 38 53),
    ([0xD226, 0xD40D, 0x4ED4, 0x0000], .vcvtF32E5m2 ⟨9, true⟩ ⟨true, 13⟩ 4 38 53),
    ([0xD226, 0xD40E, 0x4ED4, 0x0000], .vcvtLgF32 ⟨9, true⟩ ⟨true, 13⟩ 4 38 53),
    ([0xD226, 0xD40F, 0x4ED4, 0x0000], .vcvtF32Lg ⟨9, true⟩ ⟨true, 13⟩ 4 38 53)] = true := by decide +kernel

theorem test_decode_major_49 : decodes [
    ([0x9266, 0x542A, 0xBCDE], .vld 38 21 0x2ABCDE), ([0x9266, 0x546A, 0xBCDE], .vldff 38 21 0x2ABCDE),
    ([0x9266, 0x54AA, 0xBCDE], .vldv 38 21 0x2ABCDE), ([0x9266, 0x54EA, 0xBCDE], .vldsp 38 21 0x2ABCDE)] = true := by decide +kernel

theorem test_decode_major_4A : decodes [
    ([0x92A6, 0x5490, 0x4C00], .vlds ⟨9, true⟩ 38 21 9), ([0x92A6, 0x5691, 0x4C00], .vldx ⟨9, true⟩ 38 21 41),
    ([0x92A6, 0x5692, 0x4C00], .vldl ⟨9, true⟩ 38 21 41), ([0x92A6, 0x5693, 0x4C00], .vldxv ⟨9, true⟩ 38 21 41)] = true := by decide +kernel

theorem test_decode_major_4B : decodes [
    ([0x92E6, 0x5400, 0x4C00], .vst ⟨9, true⟩ 38 21), ([0x92E6, 0x5491, 0x4C00], .vsts ⟨9, true⟩ 38 21 9),
    ([0x92E6, 0x5692, 0x4C00], .vstx ⟨9, true⟩ 38 21 41), ([0x92E6, 0x5693, 0x4C00], .vstl ⟨9, true⟩ 38 21 41),
    ([0x92E6, 0x5404, 0x4C00], .vstmc ⟨9, true⟩ 38 21), ([0x92E6, 0x5495, 0x4C00], .vstrc ⟨9, true⟩ 38 21 9),
    ([0x92E6, 0x5406, 0x4C00], .vstsp ⟨9, true⟩ 38 21)] = true := by decide +kernel

theorem test_decode_major_4C : decodes [
    ([0xD326, 0x5690, 0x4C00, 0xE801], .vamoAdd ⟨9, true⟩ true 38 21 41 58),
    ([0xD326, 0x5691, 0x4C00, 0xE801], .vamoAnd ⟨9, true⟩ true 38 21 41 58),
    ([0xD326, 0x5692, 0x4C00, 0xE801], .vamoOr ⟨9, true⟩ true 38 21 41 58),
    ([0xD326, 0x5693, 0x4C00, 0xE801], .vamoXor ⟨9, true⟩ true 38 21 41 58),
    ([0xD326, 0x5694, 0x4C00, 0xE801], .vamoMax ⟨9, true⟩ true 38 21 41 58),
    ([0xD326, 0x5695, 0x4C00, 0xE801], .vamoMin ⟨9, true⟩ true 38 21 41 58),
    ([0xD326, 0x5696, 0x4C00, 0xE801], .vamoSwap ⟨9, true⟩ true 38 21 41 58),
    ([0xD326, 0x5697, 0x4C00, 0xE801], .vamoFadd ⟨9, true⟩ true 38 21 41 58)] = true := by decide +kernel

theorem test_decode_major_50 : decodes [
    ([0xD406, 0xD490, 0x0000, 0x01EB], .mma 6 53 9 3 5 true true true)] = true := by decide +kernel

theorem test_decode_major_51 : decodes [
    ([0xD446, 0xD490, 0x0000, 0x696B], .mmaff 6 53 9 26 3 5 true true)] = true := by decide +kernel

theorem test_decode_major_52 : decodes [
    ([0x9486, 0x0000, 0x0000], .zclr 6), ([0x9486, 0x5401, 0x0000], .zld 6 21), ([0x9486, 0x5402, 0x0000], .zst 6 21),
    ([0x94A6, 0x1403, 0x0002], .zrd 38 5 2), ([0x9486, 0xD404, 0x0002], .zwr 6 53 2),
    ([0x9486, 0x5405, 0x0013], .zcvt 6 21 1 3)] = true := by decide +kernel

theorem test_decode_major_55 : decodes [
    ([0x9540, 0x5490, 0x4C04], .tlwait ⟨9, true⟩ 21 9 4), ([0x9540, 0x5491, 0x4C04], .tlpost ⟨9, true⟩ 21 9 4)] = true := by decide +kernel

theorem test_decode_major_56 : decodes [
    ([0xD586, 0x5490, 0x0000, 0x680B], .ringdef 6 21 9 26 11), ([0xD586, 0x0001, 0x0000, 0x0000], .ringarr 6),
    ([0xD596, 0x1802, 0x0000, 0x0000], .ringgen 22 6), ([0xD586, 0x0003, 0x0000, 0x0000], .ringfree 6)] = true := by decide +kernel

theorem test_decode_major_60 : decodes [
    ([0xD816, 0x5490, 0x4C02, 0x000B], .amoAdd ⟨9, true⟩ 22 21 9 2 3 true),
    ([0xD816, 0x5491, 0x4C02, 0x000B], .amoAnd ⟨9, true⟩ 22 21 9 2 3 true),
    ([0xD816, 0x5492, 0x4C02, 0x000B], .amoOr ⟨9, true⟩ 22 21 9 2 3 true),
    ([0xD816, 0x5493, 0x4C02, 0x000B], .amoXor ⟨9, true⟩ 22 21 9 2 3 true),
    ([0xD816, 0x5494, 0x4C02, 0x000B], .amoMax ⟨9, true⟩ 22 21 9 2 3 true),
    ([0xD816, 0x5495, 0x4C02, 0x000B], .amoMin ⟨9, true⟩ 22 21 9 2 3 true),
    ([0xD816, 0x5496, 0x4C02, 0x000B], .amoMaxu ⟨9, true⟩ 22 21 9 2 3 true),
    ([0xD816, 0x5497, 0x4C02, 0x000B], .amoMinu ⟨9, true⟩ 22 21 9 2 3 true),
    ([0xD816, 0x5498, 0x4C02, 0x000B], .amoSwap ⟨9, true⟩ 22 21 9 2 3 true),
    ([0xD816, 0x5499, 0x4C02, 0x680B], .amoCas ⟨9, true⟩ 22 21 9 26 2 3 true),
    ([0xD816, 0x549A, 0x4C02, 0x000B], .amoFadd ⟨9, true⟩ 22 21 9 2 3 true)] = true := by decide +kernel

theorem test_decode_major_61 : decodes [
    ([0x9856, 0x5400, 0x4C04], .lda ⟨9, true⟩ 22 21 4), ([0x9856, 0x5401, 0x4C04], .lda32 ⟨9, true⟩ 22 21 4),
    ([0x9856, 0x5402, 0x4C04], .strl ⟨9, true⟩ 22 21 4), ([0x9856, 0x5403, 0x4C04], .strl32 ⟨9, true⟩ 22 21 4)] = true := by decide +kernel

theorem test_decode_major_62 : decodes [
    ([0x5884, 0x0000], .fence 4), ([0x5884, 0x0001], .fenceAcq 4), ([0x5884, 0x0002], .fenceRel 4)] = true := by decide +kernel

theorem test_decode_major_63 : decodes [
    ([0x58C5, 0x0000], .barArrive 5), ([0x58C5, 0x0001], .barWait 5), ([0x58C5, 0x0002], .barSync 5)] = true := by decide +kernel

theorem test_decode_major_68 : decodes [
    ([0x5A16, 0x0000], .txbegin 22), ([0x5A16, 0x0001], .txcommit 22), ([0x5A16, 0x0002], .snopen 22),
    ([0x5A16, 0x5403], .snclose 22 21), ([0x5A00, 0x5404], .snset 21)] = true := by decide +kernel

theorem test_decode_major_70 : decodes [
    ([0xDC26, 0x5400, 0x4C01, 0x0000], .xdred ⟨9, true⟩ 38 21 1)] = true := by decide +kernel

/-! ## States for the witnesses -/

/-- A thread that stands at its instruction, from what can be computed of the state. -/
theorem ready_control {s : State} {p r : Nat}
    (h : (decide (s.issuer = .control p r) && decide (p < s.packs.length) && decide (r < (s.pack p).rows.length) &&
      (s.breakpoint (.control p r)).isNone) = true) : Ready s (.control p r) := by
  simp only [Bool.and_eq_true, decide_eq_true_eq, Option.isNone_iff_eq_none] at h
  exact ⟨h.1.1.1, ⟨h.1.1.2, h.1.2⟩, trivial, h.2⟩

theorem ready_strand {s : State} {p r k : Nat}
    (h : (decide (s.issuer = .strand p r k) && decide (p < s.packs.length) && decide (r < (s.pack p).rows.length) &&
      decide (k < (s.row p r).strands.length) && (s.breakpoint (.strand p r k)).isNone &&
      decide (s.groupOf p r k = [k]) &&
      decide ((s.strand p r k).state = .lockstep ∨ (s.strand p r k).state = .loose) &&
      (s.strand p r k).thread.waiting.isNone) = true) : Ready s (.strand p r k) := by
  simp only [Bool.and_eq_true, decide_eq_true_eq, Option.isNone_iff_eq_none] at h
  obtain ⟨⟨⟨⟨⟨⟨⟨h1, h2⟩, h3⟩, h4⟩, h5⟩, h6⟩, h7⟩, h8⟩ := h
  exact ⟨h1, ⟨h2, h3, h4⟩, ⟨h6, h7, fun f e => by rw [h8] at e; cases e⟩, h5⟩

/-- The control thread of the rig's row, and its strand 3. -/
abbrev ctl : Agent := .control 0 0
abbrev str : Agent := .strand 0 0 3

/-- A row of 16 idle strands at 0x30_0002. -/
def rigRow : Row := Row.placed 0x300002 16 { braced := false, req := 16, grant := 16 } 0x300042 false true 0 0 0

/-- A resident pack of one row with scratchpad, tiles and rings. -/
def rigPack : Pack :=
  { Pack.none with
    life := .resident, launch := 0, part := 1, units := 1, tiles := 16, ringCount := 8, rows := [rigRow], started := true,
    rings := List.replicate 8 none }

/-- One pack on core 0, issuing at slot 1 of a line: granule 1 of partition 1, the first GiB mapped with every right, the second
and third GiB mapped to the same bytes as NC and as VERS pages. -/
noncomputable def rig : State :=
  { State.reset with
    packs := [rigPack], launches := [{ Launch.none with lid := 1, rec_ := List.replicate 16 0 }],
    contexts := [{ Context.none with part := 1, root := 0x200000, haddr := 0x300042 }],
    partitions := [{ id := 1, tdisp := .run, slotShare := 0, snapShare := 4096, ownerKey := none, mailbox := 0x3FF000,
                     swapn := none, execDigest := none, key := (0, 0) }],
    issuer := ctl, fetch := { Fetch.empty with raw := 0x4043, pc := 0x300002, npc := 0x300004 },
    granules := [(1, 1)], failedChannels := [],
    mem := memPut (memPut (memPut (memPut [] 0x200000 (leBytes 8 0x201001)) 0x201000
      (leBytes 8 0xDF ++ leBytes 8 0x8DF ++ leBytes 8 0x2DF)) 0x300000 (lineOf false { head := 0x4043, w1 := 0x0420 })) 0x300040 (lineOf false { head := 0 }) }

/-- The rig with its row changed, and with strand 3 LOOSE and issuing. -/
noncomputable def rigWith (f : Row → Row) : State := rig.modRow 0 0 f
noncomputable def rigStrand (f : Strand → Strand) : State :=
  { rig.modStrand 0 0 3 fun t => f { t with state := .loose, thread := Thread.start 0x300002 } with issuer := str }

theorem rig_ready : Ready rig ctl := ready_control (by decide +kernel)
theorem rigStrand_ready : Ready (rigStrand id) str := ready_strand (by decide +kernel)

/-! ## Witnesses: encoding, steps, checks -/

theorem witness_DecodeOfEncode : isWord (.add 3 4 5) = true ∧ (Instr.add 3 4 5).wf = true := by decide +kernel

theorem witness_EncodingsAreExact :
    decode { head := 0x0000 } = .ok .nop ∧ decode { head := 0xC143 } = .ok (.li 3 0) ∧
    decode { head := 0x4043, w1 := 0x0420 } = .ok (.add 3 1 2) := ⟨rfl, rfl, rfl⟩

/-- A thread about to fetch. -/
noncomputable def fetching : State := State.reset.withFetchWord 64 0x04204043

/-- An answer that satisfies a check. -/
def okAnd {ε α : Type} (e : Except ε α) (f : α → Bool) : Bool := match e with | .ok x => f x | .error _ => false
def causeOf {α : Type} (e : Access α) : Option (BitVec 8) := match e with | .ok _ => none | .error c => some c.1
def faultOf {α : Type} (e : Except (BitVec 8) α) : Option (BitVec 8) := match e with | .ok _ => none | .error c => some c
def someAnd {α : Type} (e : Option α) (f : α → Bool) : Bool := match e with | some x => f x | none => false

theorem witness_StepRunsDecodedInstruction :
    let s0 := fetching.readyRow ctl
    fetching.turn = .thread ctl ∧ fetching.canIssue ctl = true ∧ s0.dueEvent ctl = none ∧ (s0.thread ctl).patch = none ∧
    (s0.thread ctl).waiting = none ∧ s0.exitAt ctl = none ∧ (s0.thread ctl).pc.toNat / 2 % 32 = 1 ∧
    (s0.thread ctl).pc.getLsbD 0 = false ∧ okAnd (s0.enterLine ctl) (fun (l, s') =>
      decide (lineReason l.bytes false = none ∧ lineCount l.bytes = 1 ∧ slotWords l.bytes 1 = 0x04204043 ∧
        patchFind s'.patch false 0x4043 0x0420 = none)) = true := by decide +kernel

/-- Adtan code at 0x31_0000: the two instructions of R75 Example 3. -/
noncomputable def fetchingAdtan (pc : BitVec 48) : State :=
  let s := fetching.modThread ctl fun t => { t with pc := pc }
  { s with mem := memPut s.mem 0x310000 (leBytes 4 0x02182100 ++ leBytes 4 0x08206004 ++ leBytes 4 0xFFFFFFF8) }

/-- One word, and a word with its extension. -/
theorem witness_StepRunsDecodedInstruction_adtan :
    let s := fetchingAdtan 0x310001
    let s0 := s.readyRow ctl
    s.turn = .thread ctl ∧ s.canIssue ctl = true ∧ s0.dueEvent ctl = none ∧ (s0.thread ctl).patch = none ∧
    (s0.thread ctl).waiting = none ∧ s0.exitAt ctl = none ∧ s.early = [] ∧
    okAnd (s0.fetchWord ctl 0x310000) (fun (w, u) =>
      decide (w = 0x02182100 ∧ tget u.ranAdtan (u.adtanKey ctl) = none) && !w.getLsbD 2 &&
      okAnd (decodeAdtan w 0) fun i => someAnd (encode false i) fun n =>
        decide (patchFind u.patch false n.head n.w1 = none)) = true := by decide +kernel

theorem witness_StepRunsDecodedInstruction_extension :
    let s := fetchingAdtan 0x310005
    let s := { s with ranAdtan := [(s.adtanKey ctl, 0xFFFFFFF808206004)] }
    let s0 := s.readyRow ctl
    s.turn = .thread ctl ∧ s.canIssue ctl = true ∧ s0.dueEvent ctl = none ∧ (s0.thread ctl).patch = none ∧
    (s0.thread ctl).waiting = none ∧ s0.exitAt ctl = none ∧
    okAnd (s0.fetchWord ctl 0x310004) (fun (w, u) =>
      w.getLsbD 2 && okAnd (u.fetchWord ctl 0x310008) fun (ext, v) =>
        decide (tget v.ranAdtan (v.adtanKey ctl) = some (ext ++ w)) &&
        okAnd (decodeAdtan w ext) fun i => someAnd (encode false i) fun n =>
          decide (patchFind v.patch false n.head n.w1 = none)) = true := by decide +kernel

theorem witness_StepKeepsCanonicalMemory : 
    Canonical State.reset ∧ (match step State.reset with | .next _ => true | _ => false) = true :=
  ⟨⟨rfl, by simp [State.reset]⟩, by decide +kernel⟩

/-- A control thread at T-kind code, a strand at C-kind code; a user-mode thread and a strand at tret. -/
theorem witness_DecodeChecksTrap :
    Ready rig ctl ∧ isWord .stop = true ∧ Instr.stop.wf = true ∧ Instr.stop.kind = .t ∧
    Ready (rigStrand id) str ∧ isWord .rwait = true ∧ Instr.rwait.wf = true ∧ Instr.rwait.kind = .c ∧
    (rig.row 0 0).status.cmode = .user :=
  ⟨rig_ready, by decide +kernel, by decide +kernel, by decide +kernel, rigStrand_ready, by decide +kernel⟩

/-- The first register outside a control thread's file, as destination and as operand. -/
theorem witness_DecodeChecksTrap_registers :
    (∃ v, intResult rig ctl (.add 32 4 5) = some (32, [4, 5], v)) ∧ ¬ inFile ctl [32, 4, 5] ∧
    (∃ v, lateResult rig ctl (.mul 3 32 5) = some (3, [32, 5], v)) ∧ ¬ inFile ctl [3, 32, 5] :=
  ⟨⟨_, rfl⟩, by simp [inFile], ⟨_, rfl⟩, by simp [inFile]⟩

/-- Comparator 7 set at the instruction. -/
def anywhere : Filter := { packId := none, rowId := none, launchId := none, queue := none }
noncomputable def rigStopped : State :=
  (rigWith fun w => { w with dbg := { w.dbg with right := true } }).modCore 0 fun k =>
    { k with comparators := k.comparators.set 7 (some (0, { addr := 0x300002, elem := none, filter := anywhere })) }

theorem witness_DecodeChecksTrap_breakpoint :
    rigStopped.issuer = ctl ∧ rigStopped.has ctl ∧ rigStopped.alone ctl ∧ rigStopped.breakpoint ctl = some 7 ∧
    inFile ctl [31, 4, 5] ∧ ∃ v, intResult rigStopped ctl (.add 31 4 5) = some (31, [4, 5], v) :=
  ⟨rfl, ⟨by decide +kernel, by decide +kernel⟩, trivial, by decide +kernel, by simp [inFile], _, rfl⟩

/-! ## Witnesses: scalar instructions -/

theorem witness_IntegerAndMultiplyResults :
    Ready rig ctl ∧ inFile ctl [31, 0, 31] ∧ (∃ v, intResult rig ctl (.add 31 0 31) = some (31, [0, 31], v)) ∧
    (∃ v, lateResult rig ctl (.div 31 0 31) = some (31, [0, 31], v)) ∧
    Ready (rigStrand id) str ∧ inFile str [63, 63, 0] ∧ (∃ v, intResult (rigStrand id) str (.add 63 63 0) = some (63, [63, 0], v)) ∧
    ∃ v, lateResult (rigStrand id) str (.mul 63 63 0) = some (63, [63, 0], v) :=
  ⟨rig_ready, by simp [inFile], ⟨_, rfl⟩, ⟨_, rfl⟩, rigStrand_ready, trivial, ⟨_, rfl⟩, _, rfl⟩

theorem witness_PredicateResult :
    Ready rig ctl ∧ inFile ctl [31, 0] ∧ (∃ v, predResult rig ctl (.ceq 31 31 0) = some (31, [31, 0], v)) ∧
    ∃ v, predResult rig ctl (.pand 0 31 1) = some (0, [], v) :=
  ⟨rig_ready, by simp [inFile], ⟨_, rfl⟩, _, rfl⟩

/-- Strands 2 and 5 in one group. -/
noncomputable def rigGroup : State :=
  { rigWith (fun w => { w with strands := w.strands.mapIdx fun i t =>
      if i = 2 ∨ i = 5 then { t with state := .lockstep, group := 1, thread := Thread.start 0x300002 } else t }) with
    issuer := .strand 0 0 2 }

theorem witness_GroupAndGuard_group :
    (rigGroup.strand 0 0 2).state = .lockstep ∧ rigGroup.groupOf 0 0 2 = [2, 5] ∧ rigGroup.has (.strand 0 0 2) ∧
    ∀ j ∈ [2, 5], rigGroup.breakpoint (.strand 0 0 j) = none ∧ (rigGroup.strand 0 0 j).thread.waiting = none ∧
      ∃ v, intResult rigGroup (.strand 0 0 j) (.add 1 2 3) = some (1, [2, 3], v) :=
  ⟨by decide +kernel, by decide +kernel, ⟨by decide +kernel, by decide +kernel, by decide +kernel⟩, by
    intro j hj
    simp only [List.mem_cons, List.not_mem_nil, or_false] at hj
    rcases hj with rfl | rfl <;> exact ⟨by decide +kernel, by decide +kernel, _, rfl⟩⟩

theorem witness_GroupAndGuard_suppressed :
    (∃ f, guardForm (.faddS ⟨31, false⟩ ⟨false, 0⟩ 0 1 2 3) = some f ∧ f.legal ∧ inFile ctl f.names ∧
      rig.guardOn ctl f.gd = false) ∧
    ∃ f, guardForm (.amoAdd ⟨1, false⟩ 1 2 3 0 0 false) = some f ∧ f.legal ∧ inFile ctl f.names ∧
      (f.kind = .c → ∃ p r, ctl = .control p r) ∧ rig.guardOn ctl f.gd = false :=
  ⟨⟨_, rfl, by decide +kernel, by simp [inFile], by decide +kernel⟩,
    _, rfl, by decide +kernel, by simp [inFile], fun _ => ⟨0, 0, rfl⟩, by decide +kernel⟩

/-- A jump to slot 1 of the handler's line, the branch not taken, and targets that fail each check: bit 47 alone set, slot 0, slot
2 of a line of one, an Adtan address with bit 1 set, a line outside the partition's granules. -/
theorem witness_TransfersOfControl :
    (∃ f, rig.transfer ctl (.jmp 0x21) = some f ∧ inFile ctl f.names ∧ f.target = 0x300042) ∧
    okAnd (rig.checkTarget ctl 0x300042 true) (fun _ => true) = true ∧
    (rig.pred ctl 1).getLsbD 0 = false ∧
    causeOf (rig.checkTarget ctl 0x800000000000 true) = some 0x03 ∧ causeOf (rig.checkTarget ctl 0x300040 true) = some 0x03 ∧
    causeOf (rig.checkTarget ctl 0x300044 true) = some 0x03 ∧ causeOf (rig.checkTarget ctl 0x300043 true) = some 0x03 ∧
    (canonical 0x300041 && (0x300041#64).getLsbD 0) = true ∧
    (causeOf (rig.fetchBytes ctl true 0x10000000 2)).isSome = true :=
  ⟨⟨_, rfl, by simp [inFile], by decide +kernel⟩, by decide +kernel⟩

/-- The rig with addresses in its registers: x4 cached memory, x5 the same bytes as NC, x6 misaligned, x7 with bit 47 alone, x8
without a translation, x9 a poisoned line, x10 and x11 the last of the pack's scratchpad and the first address past it. -/
noncomputable def rigMem : State :=
  { rigWith (fun w => { w with
      x := Vector.ofFn fun i => [0, 0, 0, 0x1122334455667788, 0x310000, 0x40310000, 0x310001, 0x800000000000, 0xC0000000,
        0x320000, 0x100000007F8, 0x10000000800].getD i 0 }) with poison := [0x320000 / 64] }

theorem rigMem_ready : Ready rigMem ctl := ready_control (by decide +kernel)

theorem witness_NopAndTraps : Ready rig ctl ∧ Ready (rigStrand id) str := ⟨rig_ready, rigStrand_ready⟩

/-- A load from cached memory and one from an NC page, and a snapshot load. -/
theorem witness_LoadResults :
    Ready rigMem ctl ∧ (∃ f, loadForm (.ld64 31 4 0) = some f ∧ inFile ctl [f.d, f.a]) ∧
    okAnd (rigMem.readCheck ctl 0x310000 8 none) (fun x => x.1.tdev == 0 && !x.1.vers && !x.1.nc && x.2.early.isEmpty) = true ∧
    okAnd (rigMem.readCheck ctl 0x40310000 1 none) (fun x => x.1.tdev == 0 && !x.1.vers && x.1.nc) = true ∧
    (∃ f, snapLoadForm (.ldv8 0 4 0x3FFFFF) = some f ∧ inFile ctl [f.d, f.a]) ∧
    okAnd (rigMem.readCheck ctl 0x30FFFF 1 (some (rigMem.snapFor ctl))) (fun _ => true) = true :=
  ⟨rigMem_ready, ⟨_, rfl, by simp [inFile]⟩, by decide +kernel, by decide +kernel, ⟨_, rfl, by simp [inFile]⟩,
    by decide +kernel⟩

/-- A store to each kind of page, which finds room, and the canonical memory and free line that the NC page's clause asks for. -/
theorem witness_StoreResults :
    Ready rigMem ctl ∧ (∃ f, storeForm (.st64 3 4 0) = some f ∧ inFile ctl [f.d, f.a]) ∧
    okAnd (rigMem.writeCheck ctl 0x310000 8) (fun (xl, s') =>
      xl.tdev == 0 && !xl.vers && !xl.nc && decide (s'.coreOf ctl < s'.cores.length) &&
        someAnd (s'.store ctl xl (leBytes 8 0x1122334455667788) false) fun _ => true) = true ∧
    okAnd (rigMem.writeCheck ctl 0x40310000 8) (fun (xl, s') =>
      let d := s'.drainFor ctl xl.pa 8
      xl.tdev == 0 && !xl.vers && xl.nc && d.mem.wf && !d.linePoisoned (xl.pa / 64) && !d.mailboxBusy xl.pa 8 &&
        someAnd (s'.store ctl xl (leBytes 8 0x1122334455667788) false) fun _ => true) = true :=
  ⟨rigMem_ready, ⟨_, rfl, by simp [inFile]⟩, by decide +kernel, by decide +kernel⟩

/-- The line 0x31_0000 with two versions, its VERS page at x12, a snapshot at the older version's time kept open, and a row in a
transaction or in none. -/
noncomputable def rigVers (tx : Option Tx) : State :=
  { (rigMem.modRow 0 0 fun w => { w with snap := 1, tx := tx, txstart := 2, x := w.x.set 12 0x80310000 }) with
    poison := [], partitions := [], cc := 2, lines := [(0x310000 / 64, ⟨2, [⟨1, List.replicate 64 7, false⟩]⟩)],
    snapshots := [⟨1, 1, 1⟩] }
def aTx : Tx := { lines := [{ line := 0x310000 / 64, mask := 1, bytes := List.replicate 64 7, bad := false }], doomed := none }

theorem rigVers_ready (tx : Option Tx) : Ready (rigVers tx) ctl := ready_control rfl

/-- Accesses of a versioned page: by the line's head, in a transaction, at a snapshot; the store outside a transaction finds room in a
version store of two records (its size is the model's free value). -/
theorem witness_VersionedAccesses :
    (∃ f, loadForm (.ld64 31 12 0) = some f ∧ inFile ctl [f.d, f.a]) ∧ (∃ f, storeForm (.st64 3 12 0) = some f ∧ inFile ctl [f.d, f.a]) ∧
    (∃ f, snapLoadForm (.ldv64 31 12 0) = some f ∧ inFile ctl [f.d, f.a]) ∧
    (∀ tx, Ready (rigVers tx) ctl) ∧ (rigVers none).snapFor ctl = 1 ∧ (∀ pa n, (rigVers none).mailboxBusy pa n = false) ∧
    okAnd ((rigVers none).readCheck ctl 0x80310000 8 none) (fun (xl, s') =>
      xl.tdev == 0 && xl.vers && (s'.txOf ctl).isNone && s'.early.isEmpty && (s'.core (s'.coreOf ctl)).l1Bad.isEmpty) = true ∧
    okAnd ((rigVers none).readCheck ctl 0x80310000 8 (some 1)) (fun (xl, s') =>
      xl.tdev == 0 && xl.vers && s'.snapshots.any (fun e => decide (e.time = 1 ∧ e.part = (s'.pack 0).part)) &&
        (s'.currentBytes (xl.pa / 64) 1).isSome) = true ∧
    okAnd ((rigVers (some aTx)).readCheck ctl 0x80310000 8 none) (fun (xl, s') =>
      xl.tdev == 0 && xl.vers && someAnd (s'.txOf ctl) fun (start, t) => decide (t = aTx) &&
        someAnd (s'.currentBytes (xl.pa / 64) start) fun b => decide (b.length = 64)) = true ∧
    okAnd ((rigVers none).writeCheck ctl 0x80310000 8) (fun (xl, s') =>
      let d := s'.drainFor ctl xl.pa 8
      xl.tdev == 0 && xl.vers && (s'.txOf ctl).isNone && d.mem.wf && !d.linePoisoned (xl.pa / 64) &&
        decide (d.partitions = []) && (d.reclaim (xl.pa / 64)).hasRoom (xl.pa / 64) &&
        decide ((d.reclaim (xl.pa / 64)).storeUsed + 1 = 2)) = true ∧
    okAnd ((rigVers (some aTx)).writeCheck ctl 0x80310000 8) (fun (xl, s') =>
      xl.tdev == 0 && xl.vers && someAnd (s'.txOf ctl) (fun (_, t) => decide (t = aTx)) &&
        (s'.store ctl xl (leBytes 8 0x1122334455667788) false).isSome) = true :=
  ⟨⟨_, rfl, by simp [inFile]⟩, ⟨_, rfl, by simp [inFile]⟩, ⟨_, rfl, by simp [inFile]⟩, rigVers_ready, by decide +kernel,
    fun _ _ => rfl, by decide +kernel, by decide +kernel, by decide +kernel, by decide +kernel, by decide +kernel⟩

/-- Addresses that each check of a load and of a store stops. -/
theorem witness_AccessesTrap :
    Ready rigMem ctl ∧ causeOf (rigMem.readCheck ctl 0x310001 2 none) = some 0x05 ∧
    causeOf (rigMem.readCheck ctl 0x800000000000 8 none) = some 0x07 ∧
    faultOf (rigMem.translateFor ctl 0xC0000000 .read) = some 0x06 ∧
    faultOf (rigMem.translateFor ctl 0xC0000000 .write) = some 0x06 ∧
    causeOf (rigMem.readCheck ctl 0x320000 8 none) = some 0x0A ∧ causeOf (rigMem.writeCheck ctl 0x320000 8) = some 0x0A ∧
    okAnd (rigMem.translateFor ctl 0x310000 .read) (fun _ => true) = true ∧
    okAnd (rigMem.translateFor ctl 0x310000 .write) (fun _ => true) = true ∧
    (∃ f, loadForm (.ld64 31 9 0) = some f ∧ inFile ctl [f.d, f.a]) ∧
    (∃ f, snapLoadForm (.ldv64 31 8 0) = some f ∧ inFile ctl [f.d, f.a] ∧
      causeOf (rigMem.readCheck ctl 0xC0000000 8 (some (rigMem.snapFor ctl))) = some 0x06) ∧
    ∃ f, storeForm (.st16 31 6 0) = some f ∧ inFile ctl [f.d, f.a] :=
  ⟨rigMem_ready, by decide +kernel, by decide +kernel, (by decide +kernel), by decide +kernel, by decide +kernel,
    (by decide +kernel), by decide +kernel, by decide +kernel, ⟨_, rfl, by simp [inFile]⟩,
    ⟨_, rfl, by simp [inFile], by decide +kernel⟩, _, rfl, by simp [inFile]⟩

/-- The place of a local access. -/
def isPlace (r : SpRes) : Bool := match r with | .at_ .. => true | _ => false
def isFault (r : SpRes) (c : BitVec 8) : Bool := match r with | .fault d => d == c | _ => false

/-- The last bytes of the scratchpad and the first past it, for both views; a ring that is not defined; a poisoned word. -/
theorem witness_LocalAccesses :
    Ready (rigStrand id) str ∧ Ready rigMem ctl ∧
    (∃ f, localLoadForm (.ldl64 63 0 0x7F8) = some f ∧ inFile str [f.d, f.a]) ∧
    (∃ f, localStoreForm (.stl8 0 63 0x7FF) = some f ∧ inFile str [f.d, f.a]) ∧
    isPlace ((rigStrand id).localPlace str 0x7F8 8) = true ∧ isPlace ((rigStrand id).localPlace str 0x7FF 1) = true ∧
    isFault ((rigStrand id).localPlace str 0x800 8) 0x07 = true ∧ isFault (rigMem.localPlace ctl 0x80000000 8) 0x0C = true ∧
    isPlace (rigMem.localPlace ctl 0xFFF8 8) = true ∧ isFault (rigMem.localPlace ctl 0x10000 8) 0x07 = true ∧
    ((rigStrand id).side 0 false).bad 0 8 = false ∧
    ({ Side.empty with spPoison := [1] } : Side).bad 15 1 = true ∧ Side.empty.sp.wf = true ∧ (rigStrand id).early = [] :=
  ⟨rigStrand_ready, rigMem_ready, ⟨_, rfl, trivial⟩, ⟨_, rfl, trivial⟩, by decide +kernel⟩

/-- Float operations with and without an exception mask, a guard that is on, the compares, and operands with a NaN result. -/
theorem witness_ScalarFloatResults :
    Ready rig ctl ∧
    (∃ f, rig.floatForm ctl (.faddS ⟨1, true⟩ ⟨true, 31⟩ 5 31 0 1) = some f ∧ f.legal ∧ inFile ctl (f.d :: f.names) ∧
      rig.guardOn ctl f.gd = true) ∧
    (∃ f, rig.floatForm ctl (.cvtF32Lg ⟨0, false⟩ ⟨true, 0⟩ 0 0 1) = some f ∧ f.legal ∧ inFile ctl (f.d :: f.names) ∧
      rig.guardOn ctl f.gd = true) ∧
    (∃ f, rig.floatCmpForm ctl (.feqD 0 31 1) = some f ∧ inFile ctl f.names) ∧
    (fp32.unpack (fp32.bin .sub .rne 0x7F800000 0x7F800000).1).isNan = true ∧
    (e4m3.unpack (e4m3.un .sqrt .rne 0xB8).1).isNan = true ∧
    (fp64.unpack (fp64.fused .fma .rne 0x7FF0000000000000 0 0).1).isNan = true :=
  ⟨rig_ready, ⟨_, rfl, ⟨by decide +kernel, by decide +kernel, by decide +kernel⟩, by simp [inFile], by decide +kernel⟩,
    ⟨_, rfl, ⟨by decide +kernel, by decide +kernel, by decide +kernel⟩, by simp [inFile], by decide +kernel⟩,
    ⟨_, rfl, by simp [inFile]⟩, by decide +kernel, by decide +kernel, by decide +kernel⟩

/-! ## Witnesses: status registers, traps, strands, queues -/

/-- The rig in supervisor mode, and in a handler with a strand selected. -/
noncomputable def rigSup : State :=
  rigWith fun w => { w with status := { w.status with cmode := .supervisor }, x := w.x.set 1 0x7F000 }
noncomputable def rigHandler (k : BitVec 7) (pc : BitVec 48) : State :=
  rigWith fun w => { w with
    status := { w.status with cmode := .supervisor, intrap := true }, strandsel := k, trap := { w.trap with pc := pc },
    x := w.x.set 1 3 }

theorem rigSup_ready : Ready rigSup ctl := ready_control (by decide +kernel)
theorem rigHandler_ready (k : BitVec 7) (pc : BitVec 48) : Ready (rigHandler k pc) ctl :=
  ready_control (by cases k; cases pc; rfl)

/-- The lowest and highest numbers of the map, FPSTATUS behind an empty queue, and in strand code the highest that is open. -/
theorem witness_StatusRegisterReadWrite :
    Ready rig ctl ∧ inFile ctl [31] ∧ srExists 0 ∧ srExists 0x00A ∧ srExists 0x052 ∧ ¬ srSupOnly 0x052 ∧ ¬ srSupOnly 0x00A ∧
    (rig.row 0 0).status.cmode = .user ∧ (rig.row 0 0).thread.run.owedSr = [] ∧ (rig.row 0 0).vq = [] ∧
    (0b000001#6).toNat * 64 + (0b000010#6).toNat = 0x042 ∧ Ready (rigStrand id) str ∧ srOpen 0x042 ∧
    Ready rigSup ctl ∧ (rigSup.row 0 0).status.cmode = .supervisor ∧ (rigSup.thread ctl).run.count < 23 ∧
    (rigSup.int ctl 1).toNat / 2 ^ 12 % 2 ^ 20 ≠ 0 ∧
    (srWritten (rig.row 0 0) 0x00D (rig.srWord 0 0 0x00D) 5 ^^^ rig.srWord 0 0 0x00D) &&& srSupBits 0x00D = 0 :=
  ⟨rig_ready, by simp [inFile], by simp [srExists], by simp [srExists], by simp [srExists], by simp [srSupOnly],
    by simp [srSupOnly], by decide +kernel, by decide +kernel, by decide +kernel, by decide +kernel, rigStrand_ready,
    by simp [srOpen], rigSup_ready, by decide +kernel⟩

/-- The last strand of the row, and the first number with no strand; a number outside the map, a supervisor register and a
supervisor field in user mode, and what strand code may not touch. -/
theorem witness_StrandRegistersAndForbidden :
    Ready (rigHandler 15 0x300042) ctl ∧ Ready (rigHandler 16 0x300042) ctl ∧ inFile ctl [1] ∧
    ((rigHandler 15 0).row 0 0).status.cmode = .supervisor ∧ ((rigHandler 15 0).row 0 0).status.intrap = true ∧
    ((rigHandler 15 0).row 0 0).thread.run.owedSr = [] ∧ ((rigHandler 15 0).row 0 0).strands.length = 16 ∧
    Ready rig ctl ∧ ¬ srExists 0x018 ∧ (rig.row 0 0).status.cmode = .user ∧ srExists 4 ∧ srSupOnly 4 ∧
    Ready rigMem ctl ∧ (rigMem.row 0 0).status.cmode = .user ∧
    (srWritten (rigMem.row 0 0) 0x050 (rigMem.srWord 0 0 0x050) (rigMem.int ctl 4) ^^^ rigMem.srWord 0 0 0x050) &&&
      srSupBits 0x050 ≠ 0 ∧
    Ready (rigStrand id) str ∧ srExists 0x009 ∧ ¬ srOpen 0x009 :=
  ⟨rigHandler_ready _ _, rigHandler_ready _ _, by simp [inFile], by decide +kernel, by decide +kernel, by decide +kernel,
    by decide +kernel, rig_ready, by simp [srExists], by decide +kernel, by simp [srExists], by simp [srSupOnly],
    rigMem_ready, by decide +kernel, by decide +kernel, rigStrand_ready, by simp [srExists], by simp [srOpen]⟩

/-- A handler that can be entered and one that cannot; a return to a legal target and to slot 0. -/
theorem witness_TrapEntryAndReturn :
    rig.has ctl ∧ (rig.core (rig.coreOf ctl)).l1 = [] ∧
    ((((rig.endRun ctl false).modRow 0 0 Row.unslotted).trapRegs 0 0 0x0B 0x300040 0 0).handlerBad 0 0).1 = false ∧
    (((((rigWith fun w => { w with haddr := 0 }).endRun ctl false).modRow 0 0 Row.unslotted).trapRegs 0 0 0x0B 0x300040 0
      0).handlerBad 0 0).1 = true ∧
    (rig.pack 0).launch < rig.launches.length ∧
    Ready (rigHandler 0 0x300042) ctl ∧ Ready (rigHandler 0 0x300040) ctl ∧
    ((rigHandler 0 0x300042).row 0 0).status.cmode = .supervisor ∧
    ((rigHandler 0 0x300042).row 0 0).thread.run.owedSr = [] ∧
    okAnd ((rigHandler 0 0x300042).checkTarget ctl 0x300042 true) (fun _ => true) = true ∧
    causeOf ((rigHandler 0 0x300040).checkTarget ctl 0x300040 true) = some 0x03 :=
  ⟨⟨by decide +kernel, by decide +kernel⟩, by decide +kernel, by decide +kernel, by decide +kernel, by decide +kernel,
    rigHandler_ready _ _, rigHandler_ready _ _, by decide +kernel⟩

/-- A machine check that waits, and strands 3 and 7 with pending faults. -/
theorem witness_AsynchronousTraps :
    (rigWith fun w => { w with mcheck := some { syndrome := 1, elem := 0 } }).atBoundary 0 0 = true ∧
    let s := rigWith fun w => { w with strands := w.strands.mapIdx fun i t =>
      if i = 3 ∨ i = 7 then { t with state := .faulted, pend := true, cause := 0x0E } else t }
    s.atBoundary 0 0 = true ∧ (s.strand 0 0 3).state = .faulted ∧ (s.strand 0 0 3).pend = true ∧
    ∀ j, j < 3 → ¬ ((s.strand 0 0 j).state = .faulted ∧ (s.strand 0 0 j).pend = true) := by decide +kernel

/-- A strand with a leash at the next instruction, at itself, and at slot 0. -/
theorem witness_StrandTransitions :
    Ready (rigStrand id) str ∧ ((rigStrand id).strand 0 0 3).leash = 0 ∧
    (let s := rigStrand fun t => { t with leash := 0x300042, g := t.g.set 1 0x300042 }
     Ready s str ∧ (s.strand 0 0 3).leash ≠ 0 ∧ s.fetch.sub = false) ∧
    okAnd ((rigStrand fun t => { t with leash := 0x300042 }).checkTarget str 0x300042 true) (fun _ => true) = true ∧
    causeOf ((rigStrand fun t => { t with leash := 0x300040 }).checkTarget str 0x300040 true) = some 0x03 ∧
    (rigStrand id).targetOf (0x21 : BitVec 38).toInt = 0x300042 ∧
    (rigStrand id).targetOf (2 : BitVec 38).toInt = (rigStrand id).next.setWidth 64 ∧
    (rigStrand id).leashAt 0 0x300042 0x300042 ∧ ¬ (rigStrand id).leashAt 0 0x300042 0 ∧
    ¬ (rigStrand id).leashAt 0 0x300042 0x300044 :=
  ⟨rigStrand_ready, by decide +kernel, ⟨ready_strand (by decide +kernel), by decide +kernel, by decide +kernel⟩,
    by decide +kernel, by decide +kernel, by decide +kernel, by decide +kernel, ⟨by decide, .inl rfl⟩, fun h => h.1 rfl,
    fun h => h.2.elim (by decide) fun ⟨x, e⟩ => by
      rw [show (rigStrand id).adtanOf _ _ _ = none from by decide +kernel] at e; cases e⟩

/-- Strands 2 and 5 held at one leash, alone and with strand 9 still on its way there. -/
noncomputable def rigHeld (ninth : StrandState) : State :=
  rigWith fun w => { w with strands := w.strands.mapIdx fun i t =>
    if i = 2 ∨ i = 5 then { t with state := .held, leash := 0x300042, thread := Thread.start 0x300042 }
    else if i = 9 then { t with state := ninth, leash := 0x300042 } else t }

theorem witness_ReleaseFormsGroup :
    (rigHeld .halted).rowRuns 0 0 = true ∧ ((rigHeld .halted).row 0 0).status.intrap = false ∧
    (∀ j, j < 16 → ((rigHeld .halted).strand 0 0 j).leash = 0x300042 → ((rigHeld .halted).strand 0 0 j).state.letsGo = true) ∧
    (rigHeld .loose).rowRuns 0 0 = true ∧ ((rigHeld .loose).strand 0 0 9).leash = 0x300042 ∧
    ((rigHeld .loose).strand 0 0 9).state.letsGo = false := by decide +kernel

/-- Links with room, full and empty, before and after the first and the last strand. -/
noncomputable def rigLinks (l : List (BitVec 64)) : State :=
  { rigStrand id with packs := [{ rigPack with rows := [{ rigRow with
      q0 := List.replicate 17 l, q1 := List.replicate 17 l,
      strands := rigRow.strands.mapIdx fun i t => if i = 3 ∨ i = 15 then { t with state := .loose } else t }] }] }

theorem witness_QueueTransfers :
    Ready (rigLinks []) str ∧ ((rigLinks []).strand 0 0 3).idem = false ∧
    Ready { rigLinks [1, 2, 3] with issuer := .strand 0 0 15 } (.strand 0 0 15) ∧
    (((rigLinks [1, 2, 3]).row 0 0).link true 16).length < 4 ∧ 16 < (((rigLinks [1, 2, 3]).row 0 0).chain true).length ∧
    Ready (rigLinks [1, 2, 3, 4]) str ∧ 4 ≤ (((rigLinks [1, 2, 3, 4]).row 0 0).link false 4).length ∧
    ((rigLinks [1, 2, 3, 4]).row 0 0).link false 3 = [1, 2, 3, 4] ∧ ((rigLinks []).row 0 0).link false 3 = [] ∧
    (let s := rigStrand fun t => { t with idem := true }
     Ready s str ∧ (s.strand 0 0 3).idem = true) ∧
    Ready { rigLinks [7] with issuer := ctl } ctl ∧ ((rigLinks [7]).row 0 0).vq = [] ∧
    ((rigLinks [7]).row 0 0).link true 16 = [7] ∧ 0 < (((rigLinks [7]).row 0 0).chain true).length ∧
    Ready { rigLinks [] with issuer := ctl } ctl ∧ ((rigLinks []).row 0 0).link true 16 = [] :=
  ⟨ready_strand (by decide +kernel), by decide +kernel, ready_strand (by decide +kernel), by decide +kernel,
    by decide +kernel, ready_strand (by decide +kernel), by decide +kernel, by decide +kernel, by decide +kernel,
    ⟨ready_strand (by decide +kernel), by decide +kernel⟩, ready_control (by decide +kernel), by decide +kernel,
    by decide +kernel, by decide +kernel, ready_control (by decide +kernel), by decide +kernel⟩

/-- A strand that waits in qrecv, a control thread that waits in each of its instructions; a run of 23 and one of 24; rows with
and without work at halt. -/
theorem witness_RunsWaitsAndHalt :
    (let s := rigStrand fun t => { t with thread := { t.thread with waiting := some (.qrecv true 5, rig.fetch) } }
     s.rowRuns 0 0 = true ∧ (s.thread str).waiting = some (.qrecv true 5, rig.fetch) ∧
       (s.row 0 0).status.intrap = false ∧ (s.strand 0 0 3).state = .loose) ∧
    (∀ w ∈ [Waiting.xqpop false 3, .rfetch true none 4, .rwait, .tlwait noGuard 1 2 3, .barSync 7],
      ((rig.modThread ctl fun t => { t with waiting := some (w, rig.fetch) }).thread ctl).waiting = some (w, rig.fetch)) ∧
    rig.rowRuns 0 0 = true ∧ rig.has ctl ∧ (rig.thread ctl).run.count < 24 ∧
    24 ≤ ((rig.modThread ctl fun t => { t with run := { t.run with count := 24 } }).thread ctl).run.count ∧
    Ready rig ctl ∧ (rig.row 0 0).strandsActive = false ∧ (rig.row 0 0).vq = [] ∧
    Ready { rigStrand id with issuer := ctl } ctl ∧ ({ rigStrand id with issuer := ctl }.row 0 0).strandsActive = true ∧
    (rig.pack 0).ospec = none :=
  ⟨by decide +kernel, by decide +kernel, by decide +kernel, ⟨by decide +kernel, by decide +kernel⟩, by decide +kernel,
    by decide +kernel, rig_ready, by decide +kernel, by decide +kernel, ready_control (by decide +kernel),
    by decide +kernel, by decide +kernel⟩

/-! ## Witnesses: vector instructions -/

/-- The rig with addresses, of 64-bit (EW code 3), 32-bit (2) or 8-bit (0) elements in groups of 2^g, VL elements, a queue of
`n` entries and 16 strands whose registers hold small offsets. -/
noncomputable def rigVec (g ew : BitVec 2) (vl : BitVec 14) (vq : List VEntry) : State :=
  rigMem.modRow 0 0 fun w =>
    { w with vtype := { bs := false, g := g, ew := ew }, vl := vl, vq := vq,
             strands := List.replicate 16 { Strand.idle with g := Vector.ofFn fun i => if i.val < 4 then 8 else 0 } }

theorem rigVec_ready (g ew : BitVec 2) (vl : BitVec 14) (vq : List VEntry) : Ready (rigVec g ew vl vq) ctl :=
  ready_control (by cases g; cases ew; cases vl; rfl)

/-- An entry that adds, as rigVec captures it. -/
noncomputable def anEntry (op : VOp) (gd : Guard) : VEntry := (rigVec 0 3 16 []).entryOf 0 0 op gd
noncomputable def addEntry : VEntry := anEntry (.int .add 1 2 (.v 3)) noGuard

/-- A queue with room and a full one, a group base that is a multiple of the factor and one that is not, a type the operation
fits and one it does not. -/
theorem witness_VectorQueueIssue :
    (∃ f, (rigVec 1 3 16 (List.replicate 63 addEntry)).queueForm ctl (.vadd ⟨31, true⟩ 62 0 2) = some f ∧ f.legal ∧
      ∀ b ∈ f.groups, b.toNat % 2 = 0) ∧
    ((rigVec 1 3 16 (List.replicate 63 addEntry)).row 0 0).vq.length < 64 ∧
    64 ≤ ((rigVec 1 3 16 (List.replicate 64 addEntry)).row 0 0).vq.length ∧
    (∃ f, (rigVec 1 3 16 []).queueForm ctl (.vadd noGuard 62 0 3) = some f ∧ f.legal ∧ ¬ ∀ b ∈ f.groups, b.toNat % 2 = 0) ∧
    (∃ f, (rigVec 0 0 16 []).queueForm ctl (.vfadd noGuard ⟨false, 0⟩ 0 false 1 2 3) = some f ∧ f.legal ∧
      ¬ f.fits ((rigVec 0 0 16 []).vctx 0 0)) :=
  ⟨⟨_, rfl, by decide +kernel, by decide +kernel⟩, by decide +kernel, by decide +kernel,
    ⟨_, rfl, by decide +kernel, by decide +kernel⟩,
    ⟨_, rfl, ⟨by decide +kernel, by decide +kernel, by decide +kernel⟩, fun h => by revert h; decide +kernel⟩⟩

/-- An instruction that reads the lanes: behind nothing, waiting with its entry, behind an entry with one of its own or none, with no
room for one, behind a strand. -/
theorem witness_WaitsForLanes :
    (∀ vq ∈ [[], [anEntry .slot noGuard]], ¬ ((rigVec 0 3 16 vq).row 0 0).behind) ∧
    (∀ vq ∈ [[addEntry], [addEntry, anEntry .slot noGuard]], ((rigVec 0 3 16 vq).row 0 0).behind) ∧
    (((rigVec 0 3 16 []).modStrand 0 0 15 fun t => { t with state := .held }).row 0 0).behind ∧
    (∀ vq ∈ [[], [addEntry], List.replicate 64 addEntry], ¬ ((rigVec 0 3 16 vq).row 0 0).holdsEntry) ∧
    (∀ vq ∈ [[anEntry .slot noGuard], [addEntry, anEntry .slot noGuard]], ((rigVec 0 3 16 vq).row 0 0).holdsEntry) ∧
    64 ≤ ((rigVec 0 3 16 (List.replicate 64 addEntry)).row 0 0).vq.length := by
  simp only [Row.behind, Row.holdsEntry]; decide +kernel

theorem addEntry_sound : addEntry.ctx.sound ((rigVec 0 3 16 []).row 0 0) :=
  ⟨by decide +kernel, by decide +kernel, (by decide +kernel), by decide +kernel⟩

/-- An entry at the head of the queue, with the lanes free and with a strand that holds them; a compress, unguarded. -/
theorem witness_VectorElementResults :
    (rigVec 0 3 16 [addEntry, addEntry]).lanesRun 0 0 = true ∧
    ((rigVec 0 3 16 [addEntry, addEntry]).row 0 0).vq = [addEntry, addEntry] ∧
    (∀ y ∈ [addEntry], y.op.loadsPending = false) ∧ addEntry.op.dests = some (some 1, none, ⟨false, 0⟩) ∧
    addEntry.ctx.sound ((rigVec 0 3 16 []).row 0 0) ∧ (1 : BitVec 6).toNat % addEntry.ctx.grp = 0 ∧
    ((rigVec 0 3 16 []).row 0 0).lanesFree = true ∧ (∀ k ∈ ((rigVec 0 3 16 []).row 0 0).strands, k.bad = []) ∧
    (((rigVec 0 3 16 []).modStrand 0 0 15 fun t => { t with state := .held }).row 0 0).lanesFree = false ∧
    (anEntry (.compress 1 2 31) noGuard).op.dests = some (some 1, none, ⟨false, 0⟩) ∧
    (anEntry (.mask .set 31 0 0) noGuard).op.dests = some (none, some 31, ⟨false, 0⟩) ∧
    (anEntry (.fbin .add false ⟨true, 0⟩ 0 63 2 3) ⟨31, true⟩).op.dests = some (some 63, none, ⟨true, 0⟩) :=
  ⟨by decide +kernel, by decide +kernel, by decide +kernel, rfl, addEntry_sound, by decide +kernel, by decide +kernel,
    by decide +kernel, by decide +kernel, rfl, rfl, rfl⟩

/-- A reduction with the queue empty and with an entry before it, of a type it fits and of one it does not; a request above VLMAX
behind a row that may save; a brace span on a row without a brace. -/
theorem witness_VectorScalarAndLength :
    (let s := rigVec 0 3 16 []
     ∃ f, s.laneScalarForm ctl (s.vctx 0 0) (s.row 0 0) (.vredoFadd noGuard false 31 2 3) = some f ∧ f.legal ∧ f.fits ∧
       (s.row 0 0).vq = [] ∧ (s.row 0 0).lanesFree = true ∧ ∀ b ∈ f.groups, b.toNat % (s.vctx 0 0).grp = 0) ∧
    (let s := rigVec 0 3 16 [addEntry]
     ∃ f, s.laneScalarForm ctl (s.vctx 0 0) (s.row 0 0) (.mffs 0 31) = some f ∧ f.legal ∧ f.fits ∧ (s.row 0 0).vq ≠ []) ∧
    (let s := rigVec 0 0 16 []
     ∃ f, s.laneScalarForm ctl (s.vctx 0 0) (s.row 0 0) (.vredtFadd noGuard false 31 2 3) = some f ∧ f.legal ∧ ¬ f.fits) ∧
    (let s := rigMem.modRow 0 0 fun w => { w with preempt := { w.preempt with req := true } }
     Ready s ctl ∧ (s.row 0 0).preempt.req = true ∧ (s.row 0 0).status.intrap = false ∧
       (∀ k ∈ (s.row 0 0).strands, k.state = .idle ∨ k.state = .halted) ∧ (∀ l ∈ (s.row 0 0).q0, l = []) ∧
       ∀ l ∈ (s.row 0 0).q1, l = []) ∧
    (rigMem.row 0 0).preempt.req = false ∧ (rigMem.row 0 0).width.braced = false ∧ (0b10011#5).getLsbD 4 = true ∧
    16 * 2 ^ (0b01111#5 : BitVec 5).toNat < (rigMem.xr ctl 4).toNat :=
  ⟨⟨_, rfl, by decide +kernel, ⟨by decide +kernel, by decide +kernel⟩, by decide +kernel, by decide +kernel,
      by decide +kernel⟩,
    ⟨_, rfl, trivial, trivial, by decide +kernel⟩,
    ⟨_, rfl, by decide +kernel, fun h => absurd h.1 (by decide +kernel)⟩,
    ⟨ready_control (by decide +kernel), by decide +kernel⟩, by decide +kernel⟩

/-- Dispatch with the lanes idle, to a line and to slot 0, and behind an entry; a queue with a pending load and one without. -/
theorem witness_DispatchWaitAndDrain :
    Ready rig ctl ∧ (rig.row 0 0).vq = [] ∧ (rig.row 0 0).strandsActive = false ∧ (rig.row 0 0).thread.run.owedSr = [] ∧
    rig.targetOf (0x21 : BitVec 38).toInt = 0x300042 ∧ okAnd (rig.checkTarget ctl 0x300042 true) (fun _ => true) = true ∧
    causeOf (rigMem.checkTarget ctl (rigMem.xr ctl 4) true) = some 0x03 ∧ (rig.row 0 0).rowmask.getLsbD 15 = true ∧
    Ready (rigVec 0 3 16 [addEntry]) ctl ∧ ¬ ((rigVec 0 3 16 [addEntry]).row 0 0).vq = [] ∧
    (anEntry (.load .plain 1 [⟨0, 0, ⟨0, true, true, true, true, false, false, false, 0⟩, none, false⟩]) noGuard).op.loadsPending = true ∧ addEntry.op.storesPending = false :=
  ⟨rig_ready, by decide +kernel, by decide +kernel, (by decide +kernel), by decide +kernel, by decide +kernel,
    (by decide +kernel), by decide +kernel, rigVec_ready _ _ _ _, by decide +kernel, by decide +kernel, by decide +kernel⟩

/-- The ordered sum with elements present, and with none. -/
theorem witness_OrderedSum :
    addEntry.ctx.ew = 64 ∧
    ∀ e, e < 16 → elemActive ((rigVec 0 3 16 []).row 0 0).strands 16 16 ⟨1, false⟩ e = false := by decide +kernel

def passes {α : Type} (c : Checked α) : Bool := match c with | .pass .. => true | _ => false
def fails {α : Type} (c : Checked α) (e : Nat) (cause : BitVec 8) : Bool :=
  match c with | .fail _ _ e' c' _ => e' == e && c' == cause | _ => false

/-- Loads and stores of generic memory, of scratchpad and of lane slices whose elements all pass. -/
theorem witness_VectorMemoryIssue :
    (let s := rigVec 0 3 16 []
     let c := s.vctx 0 0
     Ready s ctl ∧ s.elemStop ctl c.vstart c.vl = none ∧ (s.row 0 0).guardSettled ⟨31, true⟩ = true ∧
     (∃ f, s.vmemForm ctl c (.vst ⟨31, true⟩ 1 4) = some f ∧ f.legal ∧ f.fits ∧ f.vd.toNat % c.grp = 0 ∧
       passes (checkElems ctl f.addr (c.ew / 8) f.kind (inOrderElems (s.row 0 0) c f.gd) s []) = true) ∧
     (∃ f, s.vspForm ctl c (.vldsp 1 0 0) = some f ∧ f.legal ∧ f.vd.toNat % c.grp = 0 ∧
       passes (checkSp 0 0 f.addr (c.ew / 8) s (inOrderElems (s.row 0 0) c f.gd) []) = true) ∧
     (∃ f, s.vindexForm ctl (.vldx noGuard 1 4 2) = some f ∧ f.gd.wf ∧ f.vd.toNat % c.grp = 0 ∧ f.vb.toNat % c.grp = 0 ∧
       (checkIndexed ctl (fun e => wrap64 (f.base.toNat + elemGet (s.row 0 0).strands (c.wv (s.row 0 0).width) c.ew f.vb e))
         (c.ew / 8) f.kind (indexedElems (s.row 0 0) c f.gd) (s.modRow 0 0 fun w => { w with vq := [] })).2.2 = none) ∧
     (∃ f, s.vlaneForm ctl (.vstl noGuard 1 0 2) = some f ∧ f.gd.wf ∧ f.vd.toNat % c.grp = 0 ∧ f.vb.toNat % c.grp = 0 ∧
       ∀ e ∈ indexedElems (s.row 0 0) c f.gd,
         (f.base + BitVec.ofNat 64 (elemGet (s.row 0 0).strands 16 64 f.vb e)).toNat % 8 = 0 ∧
         (f.base + BitVec.ofNat 64 (elemGet (s.row 0 0).strands 16 64 f.vb e)).toNat < 2048 * (s.pack 0).units) ∧
     (s.row 0 0).vq = [] ∧ (s.row 0 0).lanesFree = true) ∧
    Ready (rigVec 0 3 16 [addEntry]) ctl ∧ ¬ ((rigVec 0 3 16 [addEntry]).row 0 0).vq = [] :=
  ⟨⟨rigVec_ready _ _ _ _, by decide +kernel, by decide +kernel,
      ⟨_, rfl, by decide +kernel, trivial, by decide +kernel, by decide +kernel⟩,
      ⟨_, rfl, trivial, by decide +kernel, by decide +kernel⟩,
      ⟨_, rfl, by decide +kernel⟩,
      ⟨_, rfl, by decide +kernel⟩, by decide +kernel,
      by decide +kernel⟩, rigVec_ready _ _ _ _, by decide +kernel⟩

/-- The same forms where an element fails: the first of a load at an unmapped page, the second of vldff past the partition's last granule,
a scratchpad load past the allocation, an indexed load with no translation. -/
theorem witness_VectorMemoryIssue_stops :
    (let s := rigVec 0 3 16 []
     let c := s.vctx 0 0
     (∃ f, s.vmemForm ctl c (.vld 1 8 0) = some f ∧
       fails (checkElems ctl f.addr (c.ew / 8) f.kind (inOrderElems (s.row 0 0) c f.gd) s []) 0 0x06 = true) ∧
     (∃ f, s.vmemForm ctl c (.vldff 1 4 0xEFFF8) = some f ∧ f.trims = true ∧ c.vstart < 1 ∧
       fails (checkElems ctl f.addr (c.ew / 8) f.kind (inOrderElems (s.row 0 0) c f.gd) s []) 1 0x07 = true) ∧
     (∃ f, s.vspForm ctl c (.vldsp 1 0 0xFFF8) = some f ∧
       fails (checkSp 0 0 f.addr (c.ew / 8) s (inOrderElems (s.row 0 0) c f.gd) []) 1 0x07 = true) ∧
     ∃ f, s.vindexForm ctl (.vldx noGuard 1 8 2) = some f ∧
       (checkIndexed ctl (fun e => wrap64 (f.base.toNat + elemGet (s.row 0 0).strands (c.wv (s.row 0 0).width) c.ew f.vb e))
         (c.ew / 8) f.kind (indexedElems (s.row 0 0) c f.gd) (s.modRow 0 0 fun w => { w with vq := [] })).2.2 = some (0, 0x06)) :=
  ⟨⟨_, rfl, by decide +kernel⟩, ⟨_, rfl, rfl, by decide +kernel, by decide +kernel⟩, ⟨_, rfl, by decide +kernel⟩,
    _, rfl, by decide +kernel⟩

/-- A state with nothing delayed, counted or damaged. -/
noncomputable def rigCalm (vq : List VEntry) : State := { rigVec 0 3 16 vq with poison := [], partitions := [] }

theorem rigCalm_calm (vq : List VEntry) : Calm (rigCalm vq) where
  l1 := by show ∀ c ∈ (rigCalm []).cores, c.l1 = []; decide +kernel
  l1Bad := by show ∀ c ∈ (rigCalm []).cores, c.l1Bad = []; decide +kernel
  counted := rfl
  poison := rfl
  channels := rfl
  mailbox _ _ := rfl

/-- The element accesses of two 64-bit elements at 0x31_0000. -/
def twoElems : List ElemAcc :=
  [⟨0, 0x310000, ⟨0x310000, true, true, true, true, false, false, false, 0⟩, none, false⟩,
    ⟨15, 0x310078, ⟨0x310078, true, true, true, true, false, false, false, 0⟩, none, false⟩]
def twoSp : List SpAcc := [⟨0, false, 0, none, false⟩, ⟨15, false, 0xFFF8, none, false⟩]

/-- Loads and stores at the head of the queue: from memory, from scratchpad, and to both. -/
theorem witness_VectorMemoryExecutes :
    (∀ op ∈ [VOp.load .plain 1 twoElems, .loadSp 1 twoSp, .loadX .plain 1 twoElems true],
      let x := anEntry op noGuard
      let s := rigCalm [x]
      s.lanesRun 0 0 = true ∧ (s.row 0 0).lanesFree = true ∧ (s.row 0 0).vq = [x] ∧
      someAnd (op.fetched s 0 8) (fun y => decide ((y.2.1.map fun z => z.1) = [0, 15])) = true) ∧
    (VOp.load .plain 1 twoElems).plainElems (rigCalm []) 0 8 ∧ (VOp.loadSp 1 twoSp).plainElems (rigCalm []) 0 8 ∧
    (VOp.store (.readerCount 255) 1 twoElems).plainElems (rigCalm []) 0 8 ∧
    (∀ op ∈ [VOp.store (.readerCount 255) 1 twoElems, .storeSp 1 twoSp, .storeX 1 twoElems false],
      (op.stored (rigRow.strands) (anEntry op noGuard).ctx 16 0).isSome = true) ∧
    (anEntry (.load .plain 1 twoElems) noGuard).ctx.sound ((rigCalm []).row 0 0) ∧ (rigCalm []).mem.wf = true ∧
    ((rigCalm []).side 0 false).sp.wf = true ∧ ((rigCalm []).side 0 true).sp.wf = true ∧
    (∀ k ∈ ((rigCalm []).row 0 0).strands, k.bad = []) ∧ Calm (rigCalm []) := by
  refine ⟨by decide +kernel, ?_, ?_, ?_, by decide +kernel,
    ⟨by decide +kernel, by decide +kernel, (by decide +kernel), by decide +kernel⟩, by decide +kernel, by decide +kernel,
    by decide +kernel, by decide +kernel, rigCalm_calm _⟩
  · simp [VOp.plainElems, twoElems]
  · simp only [VOp.plainElems, twoSp]; decide +kernel
  · simp [VOp.plainElems, twoElems]

/-! ## Witnesses: atomics, fences, barriers, timelines, rings -/

/-- An atomic with release order at sound memory, at a poisoned line and at an unmapped page. -/
theorem witness_AtomicsAndOrderedAccesses_atomic :
    Ready rigMem ctl ∧
    (∃ f, amoForm (.amoFadd ⟨1, true⟩ 31 4 3 3 5 true) = some f ∧ f.gd.wf ∧ f.sc ≤ 5 ∧ rigMem.guardOn ctl f.gd = true) ∧
    okAnd (rigMem.elemCheck ctl 0x310000 4 .readWrite) (fun (xl, s1) =>
      let d := (s1.drainFor ctl xl.pa 4).releaseWrites ctl 5
      xl.tdev == 0 && !xl.vers && !s1.linePoisoned (xl.pa / 64) && !d.mailboxBusy xl.pa 4 &&
        (tget d.counted (xl.pa / 64)).isNone && d.mem.wf) = true ∧
    okAnd (rigMem.elemCheck ctl 0x320000 8 .readWrite) (fun (xl, s1) => s1.linePoisoned (xl.pa / 64)) = true ∧
    causeOf (rigMem.elemCheck ctl 0xC0000000 8 .readWrite) = some 0x06 :=
  ⟨rigMem_ready, ⟨_, rfl, by decide +kernel, by decide +kernel, by decide +kernel⟩, by decide +kernel, by decide +kernel,
    by decide +kernel⟩

theorem rigCalm_ready (vq : List VEntry) : Ready (rigCalm vq) ctl := ready_control rfl

theorem rigCalm_sound : ((rigCalm []).vctx 0 0).sound ((rigCalm []).row 0 0) :=
  ⟨by decide +kernel, by decide +kernel, (by decide +kernel), by decide +kernel⟩

/-- A vector atomic whose elements pass, one that fails at element 0, one behind an entry, and one at EW 8. -/
theorem witness_AtomicsAndOrderedAccesses_vector :
    Ready (rigCalm []) ctl ∧ ((rigCalm []).vctx 0 0).sound ((rigCalm []).row 0 0) ∧ Calm (rigCalm []) ∧
    (let s := rigCalm []
     let c := s.vctx 0 0
     ∃ f, vamoForm (.vamoSwap noGuard true 5 4 2 63) = some f ∧ f.gd.wf ∧ (f.old = false → f.vd = 0) ∧
       (∀ b ∈ [f.vd, f.vb, f.vc], b.toNat % c.grp = 0) ∧ 32 ≤ c.ew ∧ (s.row 0 0).vq = [] ∧ (s.row 0 0).lanesFree = true ∧
       (let r := checkIndexed ctl (fun e => wrap64 ((s.xr ctl f.xa).toNat + elemGet (s.row 0 0).strands 16 c.ew f.vb e))
         (c.ew / 8) .readWrite (indexedElems (s.row 0 0) c f.gd) (s.modRow 0 0 fun w => { w with vq := [] })
        r.2.2 = none ∧ r.2.1.mem.wf = true ∧ ∀ x ∈ r.1, x.xl.tdev = 0 ∧ x.xl.vers = false) ∧
       (checkIndexed ctl (fun e => wrap64 ((s.xr ctl 8).toNat + elemGet (s.row 0 0).strands 16 c.ew f.vb e))
         (c.ew / 8) .readWrite (indexedElems (s.row 0 0) c f.gd) (s.modRow 0 0 fun w => { w with vq := [] })).2.2 = some (0, 0x06)) ∧
    Ready (rigVec 0 0 16 []) ctl ∧ ((rigVec 0 0 16 []).vctx 0 0).ew < 32 ∧ Ready (rigVec 0 3 16 [addEntry]) ctl ∧
    ¬ ((rigVec 0 3 16 [addEntry]).row 0 0).vq = [] :=
  ⟨rigCalm_ready _, rigCalm_sound, rigCalm_calm _,
    ⟨_, rfl, by decide +kernel⟩, rigVec_ready _ _ _ _, by decide +kernel,
    rigVec_ready _ _ _ _, by decide +kernel⟩

theorem witness_AtomicsAndOrderedAccesses_ordered :
    Ready rigMem ctl ∧ Guard.wf ⟨1, true⟩ ∧ rigMem.guardOn ctl ⟨1, true⟩ = true ∧
    causeOf (rigMem.readCheck ctl 0x310001 4 none) = some 0x05 ∧ causeOf (rigMem.writeCheck ctl 0x320000 8) = some 0x0A ∧
    okAnd (rigMem.readCheck ctl 0x310000 8 none) (fun _ => true) = true ∧
    okAnd (rigMem.writeCheck ctl 0x310000 4) (fun (xl, s') =>
      xl.tdev == 0 && !xl.vers && !xl.nc && s'.mem.wf && decide (rigMem.coreOf ctl < rigMem.cores.length) &&
        someAnd ((if xl.tdev ≠ 0 then s'.releaseWrites ctl 5 else s'.settleFor ctl).store ctl xl (leBytes 4 0x55667788)
          (rigMem.wideScope ctl 5)) fun _ => true) = true :=
  ⟨rigMem_ready, by decide +kernel⟩

/-- Writes of two rows pending in core 0's L1: a release of one row, a write of the same row behind it, a free one. -/
noncomputable def rigL1 : State :=
  rigMem.modCore 0 fun k => { k with l1 :=
    [⟨ctl, 0x310000, [1, 2], true, true, true⟩, ⟨ctl, 0x310010, [3], false, true, true⟩, ⟨.control 0 1, 0x310020, [4], false, true, true⟩] }

theorem witness_FencesAndVisibility :
    Ready rigMem ctl ∧ (5 : BitVec 6) < 6 ∧ (5 : BitVec 6) ≤ 5 ∧ (0 : BitVec 6) ≤ 5 ∧
    rigMem.wide ctl 5 ∧ ¬ rigMem.wide ctl 0 ∧
    (rigL1.core 0).l1[0]? = some ⟨ctl, 0x310000, [1, 2], true, true, true⟩ ∧
    (rigL1.core 0).l1[1]? = some ⟨ctl, 0x310010, [3], false, true, true⟩ ∧
    (rigL1.core 0).l1[2]? = some ⟨.control 0 1, 0x310020, [4], false, true, true⟩ ∧
    overlaps 0x310000 2 0x310020 1 = false ∧ overlaps 0x310010 1 0x310020 1 = false ∧ rigL1.mem.wf = true ∧
    rigL1.linePoisoned (0x310020 / 64) = false ∧ rigL1.mailboxBusy 0x310020 1 = false ∧ 0 < rigL1.cores.length :=
  ⟨rigMem_ready, by decide, by decide, by decide, by simp [State.wide], by simp only [State.wide]; decide +kernel, by decide +kernel⟩

/-- A barrier with nothing outstanding, one with an arrival outstanding, one the pack does not have, a bar.sync on its way. -/
theorem witness_Barriers :
    Ready rig ctl ∧ (7 : BitVec 6).toNat < 8 ∧ ¬ rig.cpOf 0 7 < (rig.row 0 0).ap.getD 7 0 ∧
    ¬ ((16 : BitVec 6).toNat < 8 ∨ ((16 : BitVec 6).toNat < 16 ∧ rig.litterOf 0 ≠ none)) ∧
    rig.litterOf 0 = none ∧ (rig.row 0 0).barSync = none ∧
    (let s := rigWith fun w => { w with ap := w.ap.set 7 1, barArr := [⟨7, 1, 0⟩], barSync := some ⟨7, 0x300002, 1⟩ }
     Ready s ctl ∧ s.cpOf 0 7 < (s.row 0 0).ap.getD 7 0 ∧ s.has ctl ∧ (s.row 0 0).barArr = [⟨7, 1, 0⟩] ∧
       (s.row 0 0).barSync = some ⟨7, s.fetch.pc, 1⟩) ∧
    rig.has ctl ∧ (rig.row 0 0).barArr = [] :=
  ⟨rig_ready, by decide, by decide +kernel, by simp, by decide +kernel, by decide +kernel,
    ⟨ready_control (by decide +kernel), by decide +kernel, ⟨by decide +kernel, by decide +kernel⟩, by decide +kernel,
      by decide +kernel⟩, ⟨by decide +kernel, by decide +kernel⟩, by decide +kernel⟩

/-- A post to the timeline at 0x31_0000. -/
def aPost (seq : Nat) : Post :=
  { va := 0x310000, xl := ⟨0x310000, true, true, true, true, false, false, false, 0⟩, add := 1, scope := 5, seq := seq }

/-- A timeline that has reached 0 and not yet 0x310000, one that cannot be read or posted; a post buffer with room and a full one;
a post behind a queued entry and one at the head. -/
theorem witness_TimelineWaitAndPost :
    Ready rigMem ctl ∧ Guard.wf noGuard ∧ rigMem.guardOn ctl noGuard = true ∧
    causeOf (rigMem.elemCheck ctl 0xC0000000 8 .read) = some 0x06 ∧
    okAnd (rigMem.elemCheck ctl 0x320000 8 .read) (fun (xl, s') => s'.poisoned xl) = true ∧
    causeOf (rigMem.elemCheck ctl 0xC0000000 8 .readWrite) = some 0x06 ∧
    okAnd (rigMem.elemCheck ctl 0x310000 8 .read) (fun (xl, s') => !s'.poisoned xl &&
      decide ((rigMem.xr ctl 0).toNat ≤ (s'.timelineValue ctl xl).1.toNat) &&
        decide ((s'.timelineValue ctl xl).1.toNat < (rigMem.xr ctl 4).toNat)) = true ∧
    okAnd (rigMem.elemCheck ctl 0x310000 8 .readWrite) (fun (xl, s') => !s'.poisoned xl) = true ∧
    okAnd (rigMem.elemCheck ctl 0x320000 8 .readWrite) (fun (xl, s') => s'.poisoned xl) = true ∧
    (rigMem.row 0 0).posts.length < 16 ∧
    Ready (rigMem.modRow 0 0 fun w => { w with posts := List.replicate 16 (aPost 0) }) ctl ∧
    (let s := (rigCalm []).modRow 0 0 fun w => { w with posts := [aPost 1] }
     s.has ctl ∧ (s.pack 0).life = .resident ∧ (s.row 0 0).posts = [aPost 1] ∧ (∀ e ∈ (s.row 0 0).vq, 1 ≤ e.seq) ∧
       s.mem.wf = true ∧ s.owned (s.pack 0).part (aPost 1).xl.pa = true) ∧
    (let s := (rigCalm [addEntry]).modRow 0 0 fun w => { w with posts := [aPost 1] }
     ∃ e ∈ (s.row 0 0).vq, e.seq < 1) :=
  ⟨rigMem_ready, by decide +kernel, by decide +kernel, (by decide +kernel), by decide +kernel, by decide +kernel,
    (by decide +kernel), by decide +kernel, by decide +kernel, (by decide +kernel), ready_control (by decide +kernel),
    ⟨⟨by decide +kernel, by decide +kernel⟩, by decide +kernel⟩,
    by decide +kernel⟩

/-- A pack with ring 7 defined: two stages, one party, CG 5, the row at generation `gen`. -/
noncomputable def rigRing (gen : Nat) : State :=
  { rig with packs := [{ rigPack with
      rings := rigPack.rings.set 7 (some { base := 0, s := 2, size := 64, parties := 1, cg := 5, counts := [0, 0] }),
      rows := [{ rigRow with gens := rigRow.gens.set 7 gen, ringArr := [⟨7, 6, 0⟩],
                             x := Vector.ofFn fun i => if i.val = 2 then 64 else if i.val = 3 then 1 else 0 }] }] }

theorem rigRing_ready (gen : Nat) : Ready (rigRing gen) ctl := ready_control rfl

/-- A ring that is not defined and fits, one that is defined with room and without, a number past the pack's count; an arrival that
completes a generation; a stall that may end. -/
theorem witness_Rings :
    Ready (rigRing 6) ctl ∧ ((rigRing 6).pack 0).ringEdits = [] ∧ (7 : BitVec 3).toNat < ((rigRing 6).pack 0).rings.length ∧
    (7 : BitVec 3).toNat < ((rigRing 6).row 0 0).gens.length ∧ (7 : BitVec 3).toNat < ((rigRing 6).pack 0).ringCount ∧
    ((rigRing 6).pack 0).rings.getD 0 none = none ∧
    ringFits ((rigRing 6).pack 0) ((rigRing 6).xr ctl 0).toNat ((rigRing 6).xr ctl 2).toNat ((rigRing 6).xr ctl 3).toNat 16 ∧
    (∃ g, ((rigRing 6).pack 0).rings.getD 7 none = some g ∧ ((rigRing 6).row 0 0).gens.getD 7 0 + 1 ≤ g.cg + g.s ∧
      g.counts.length = g.s ∧ g.cg + 1 = 6 ∧ g.counts.getD 0 0 + 1 = g.parties ∧ g.counts.getD 1 0 < g.parties) ∧
    (let s := (rigRing 6).modPack 0 fun k => { k with rings := k.rings.map fun x => x.map fun g => { g with counts := [0, 1] } }
     s.has ctl ∧ (s.row 0 0).ringArr = [⟨7, 6, 0⟩] ∧ ∃ g, (s.pack 0).rings.getD 7 none = some g ∧ g.counts.length = g.s ∧ g.cg + 1 = 6 ∧
       g.counts.getD 0 0 + 1 = g.parties ∧ 2 = g.s ∧ g.parties ≤ g.counts.getD 1 0) ∧
    (∃ g, ((rigRing 7).pack 0).rings.getD 7 none = some g ∧ g.cg + g.s < ((rigRing 7).row 0 0).gens.getD 7 0 + 1) ∧
    Ready { rig with packs := [{ rigPack with ringCount := 0, rows := [rigRow] }] } ctl ∧
    (rigRing 6).has ctl ∧ ((rigRing 6).row 0 0).ringArr = [⟨7, 6, 0⟩] ∧ ((rigRing 6).row 0 0).vq = [] ∧
    ((rigRing 6).row 0 0).life = .live ∧ ((rigRing 6).row 0 0).thread.waiting = none ∧
    (let s := (rigRing 6).modThread ctl fun t => { t with waiting := some (.ringStall 7 5 7 none, rig.fetch) }
     s.rowRuns 0 0 = true ∧ (s.row 0 0).thread.waiting = some (.ringStall 7 5 7 none, rig.fetch)) :=
  ⟨rigRing_ready _, by decide +kernel, by decide +kernel, (by decide +kernel), by decide +kernel, by decide +kernel,
    by unfold ringFits; decide +kernel, ⟨_, rfl, by decide +kernel⟩,
    ⟨⟨by decide +kernel, by decide +kernel⟩, by decide +kernel, _, rfl, by decide +kernel⟩,
    ⟨_, rfl, by decide +kernel⟩, ready_control (by decide +kernel), ⟨by decide +kernel, by decide +kernel⟩,
    by decide +kernel, by decide +kernel, by decide +kernel⟩

/-! ## Witnesses: matrix, versions, copies, collectives -/

/-- A row that has requested all lanes, with a latch, a ring of one 16 KiB stage pair and addresses in x: x1 in scratchpad, x2
misaligned there, x3 past it, x5 on a stage not reached, x6 and x7 the requests of row 63 and of none. -/
noncomputable def rigMat (vq : List VEntry) : State :=
  { rigCalm [] with packs := [{ rigPack with
      rings := rigPack.rings.set 7 (some { base := 0, s := 2, size := 16384, parties := 1, cg := 5, counts := [0, 0] }),
      rows := [{ (rigCalm vq).row 0 0 with
        width := { braced := false, req := 64, grant := 16 }, gens := rigRow.gens.set 7 6, vq := vq,
        x := Vector.ofFn fun i => [0, 0x4000, 0x4020, 0x10000, 0x310000, 0xF0000000, 63 * 256 + 1, 64 * 256 + 1, 0xC0000000].getD i 0 }] }] }

theorem rigMat_ready (vq : List VEntry) : Ready (rigMat vq) ctl := ready_control rfl

def isStall (r : SpRes) : Bool := match r with | .stall .. => true | _ => false

/-- An mma of the last tile that passes, one of a type pair this stepping lacks and one on a row of the wrong width, a tile the
pack does not have, each kind of operand address, the forms without an operand, a full queue. -/
theorem witness_MatrixIssue :
    Ready (rigMat []) ctl ∧ ((rigMat []).row 0 0).vq.length < 64 ∧ ((rigMat []).pack 0).tiles = 16 ∧
    (∃ f, (rigMat []).matForm ctl (.mma 15 56 1 5 5 true false true) = some f ∧ f.early = none ∧ f.z.toNat < 16 ∧
      f.addr.toNat % 64 = 0 ∧ isPlace ((rigMat []).spResolve 0 0 f.addr f.bytes) = true ∧ f.both = false) ∧
    (∃ f, (rigMat []).matForm ctl (.mma 0 0 1 0 1 false false false) = some f ∧ f.early = some (0x09, 8)) ∧
    (∃ f, rig.matForm ctl (.mma 0 0 1 0 0 false false false) = some f ∧ f.early = some (0x01, rig.fetch.raw)) ∧
    (∃ f, (rigMat []).matForm ctl (.zld 0 2) = some f ∧ f.early = none ∧ f.addr.toNat % 64 ≠ 0) ∧
    (∃ f, (rigMat []).matForm ctl (.zst 0 3) = some f ∧ isFault ((rigMat []).spResolve 0 0 f.addr f.bytes) 0x07 = true) ∧
    (∃ f, (rigMat []).matForm ctl (.zcvt 0 5 2 6) = some f ∧ f.early = none ∧
      isStall ((rigMat []).spResolve 0 0 f.addr f.bytes) = true) ∧
    tileForm (.zrd 56 15 4) = some (15, false, .zrd 56 15 4) ∧ tileForm (.zwr 0 57 4) = some (0, true, .zwr 0 57 4) ∧
    Ready { rigMat [] with packs := [{ rigPack with tiles := 15, rows := [rigRow] }] } ctl ∧
    64 ≤ ((rigVec 0 3 16 (List.replicate 64 addEntry)).row 0 0).vq.length :=
  ⟨rigMat_ready _, by decide +kernel, by decide +kernel,
    ⟨_, rfl, by decide +kernel, by decide +kernel, by decide +kernel, by decide +kernel, rfl⟩, ⟨_, rfl, by decide +kernel⟩,
    ⟨_, rfl, by decide +kernel⟩, ⟨_, rfl, rfl, by decide +kernel⟩, ⟨_, rfl, by decide +kernel⟩,
    ⟨_, rfl, by decide +kernel, by decide +kernel⟩, by decide +kernel, by decide +kernel, ready_control rfl, by decide +kernel⟩

/-- The partner's place, for both cores at work. -/
theorem witness_MatrixIssue_partner :
    let w : Width := { braced := true, req := 64, grant := 64 }
    let s : State := { rigMat [] with packs := [{ rigPack with braced := true, rows := [{ rigRow with
      width := w, vtype := { bs := true, g := 0, ew := 3 }, x := rigRow.x.set 1 0x300000 }] }] }
    Ready s ctl ∧ ∃ f, s.matForm ctl (.zst 0 1) = some f ∧ f.both = true ∧
      s.spResolve 0 0 f.addr f.bytes = .at_ true 0 none :=
  ⟨ready_control rfl, _, rfl, rfl, by decide +kernel⟩

/-- The entries of a tile's work at the head of the queue. -/
noncomputable def matEntry (op : VOp) : VEntry := (rigMat []).entryOf 0 0 op noGuard
def aTile : SpTile := { place := ⟨false, 0⟩, size := 128, rows := List.replicate 64 none, bad := none }

theorem witness_MatrixResults :
    (∀ op ∈ [VOp.mma 15 56 [aTile] .bf16 .bf16 true false false, .zclr 0, .zst 1 [⟨false, 0xC000⟩], .zrd 56 15 4, .zwr 3 0 3],
      (rigMat [matEntry op]).lanesRun 0 0 = true ∧ ((rigMat [matEntry op]).row 0 0).lanesFree = true ∧
      ((rigMat [matEntry op]).row 0 0).vq = [matEntry op] ∧ (matEntry op).words = [] ∧ (matEntry op).met = none ∧
      (∀ k ∈ ((rigMat [matEntry op]).row 0 0).strands, k.bad = []) ∧
      (op.onTiles (rigMat [matEntry op]) 0 0 (matEntry op).ctx).isSome = true) ∧
    (VOp.mma 15 56 [aTile] .bf16 .bf16 true false false).operandOk (rigMat []) 0 ∧
    (VOp.zst 1 [⟨false, 0xC000⟩]).operandOk (rigMat []) 0 ∧ ((rigMat []).row 0 0).width.grant.toNat ≤ 64 := by
  refine ⟨by decide +kernel, ⟨?_, .inl ⟨_, rfl⟩, by decide +kernel⟩, ⟨?_, .inl ⟨_, rfl⟩⟩, by decide +kernel⟩ <;>
    · intro f; cases f <;> exact ⟨rfl, rfl, rfl⟩

/-- mmaff of one row at row 63, of a request that is none, of a page without translation, behind an entry; check 6 failing. -/
theorem witness_MatrixResults_memory :
    Ready (rigMat []) ctl ∧ ((rigMat []).row 0 0).vq = [] ∧ ((rigMat []).row 0 0).lanesFree = true ∧
    (rigMat []).mmaEarly 0 0 0 0 0 false false false = none ∧
    (rigMat []).mmaEarly 0 0 0 0 1 false false false = some (0x09, 8) ∧
    ((rigMat []).xr ctl 6).toNat = 63 * 256 + 1 ∧ ¬ ((rigMat []).xr ctl 7).toNat / 256 % 256 ≤ 63 ∧
    ((rigMat []).xr ctl 4).toNat % 64 = 0 ∧ ((rigMat []).xr ctl 2).toNat % 64 ≠ 0 ∧
    (let u := (rigMat []).startCommand ctl
     (checkRows ctl 0x310000 128 [63] u).1.length = 1 ∧
     (∀ x ∈ (checkRows ctl 0x310000 128 [63] u).1, ∀ xl ∈ x.2, xl.tdev = 0 ∧ xl.vers = false ∧ xl.pa % 64 = 0) ∧
     (checkRows ctl 0xC0000000 128 [63] u).1 = [] ∧ (checkRows ctl 0xC0000000 128 [63] u).2.2.isSome = true) ∧
    ((rigMat []).side 0 false).accPoison = [] ∧ Ready (rigMat [addEntry]) ctl ∧ ((rigMat [addEntry]).row 0 0).vq ≠ [] :=
  ⟨rigMat_ready _, by decide +kernel, by decide +kernel, (by decide +kernel), by decide +kernel, by decide +kernel,
    (by decide +kernel), by decide +kernel, by decide +kernel,
    ⟨by decide +kernel, by decide +kernel, (by decide +kernel), by decide +kernel⟩, by decide +kernel, rigMat_ready _,
    by decide +kernel⟩

/-- A table with room and one where the partition's share is used up; an entry of the partition at time 0 and none at x4. -/
noncomputable def rigSnaps : State :=
  { rigMem with snapshots := [⟨0, 1, 1⟩, ⟨0, 1, 2⟩], partitions := rig.partitions.map fun q => { q with snapShare := 2 } }

theorem witness_SnapshotInstructions :
    Ready rig ctl ∧ rig.snapshotRoom 1 ∧ Ready rigSnaps ctl ∧ ¬ rigSnaps.snapshotRoom 1 ∧ (rigSnaps.pack 0).part = 1 ∧
    (∃ e ∈ rigSnaps.snapshots, e.time = (rigSnaps.xr ctl 0).toNat ∧ e.part = 1) ∧
    ∀ e ∈ rigSnaps.snapshots, ¬ (e.time = (rigSnaps.xr ctl 4).toNat ∧ e.part = 1) :=
  ⟨rig_ready, ⟨by decide +kernel, by decide +kernel⟩, ready_control rfl, fun h => absurd h.2 (by decide +kernel),
    by decide +kernel, by decide +kernel, by decide +kernel⟩

/-- A tentative line of 0x31_0000 whose first byte was written, and a transaction of it. -/
def aLine : TentLine := { line := 0x310000 / 64, mask := 1, bytes := List.replicate 64 7, bad := false }
noncomputable def rigTx (tx : Option Tx) (o : Option Ospec) (vq : List VEntry) : State :=
  { rigCalm [] with packs := [{ rigPack with ospec := o, rows := [{ (rigCalm vq).row 0 0 with tx := tx }] }] }
def anOspec (serial lowerOpen : Bool) : Ospec :=
  { serial := serial, start := 1, lowerOpen := lowerOpen, waitLower := false, tx := { lines := [aLine], doomed := none },
    committed := false }

theorem rigTx_ready (tx : Option Tx) (o : Option Ospec) (vq : List VEntry) : Ready (rigTx tx o vq) ctl := ready_control rfl
theorem rigTx_calm (tx : Option Tx) (o : Option Ospec) (vq : List VEntry) : Calm (rigTx tx o vq) where
  l1 := by show ∀ c ∈ (rigCalm []).cores, c.l1 = []; decide +kernel
  l1Bad := by show ∀ c ∈ (rigCalm []).cores, c.l1Bad = []; decide +kernel
  counted := rfl
  poison := rfl
  channels := rfl
  mailbox _ _ := rfl

theorem witness_TransactionsAndSpeculation_transactions :
    (∀ tx o vq, Ready (rigTx tx o vq) ctl ∧ Calm (rigTx tx o vq)) ∧
    ((rigTx none none []).row 0 0).tx = none ∧ ((rigTx none none []).pack 0).ospec = none ∧
    ((rigTx (some ⟨[aLine], none⟩) none []).row 0 0).tx = some ⟨[aLine], none⟩ ∧
    ([aLine].map fun y => y.line).Nodup ∧ (rigTx none none []).mem.wf = true ∧
    ((rigTx none (some (anOspec true false)) []).pack 0).ospec = some (anOspec true false) ∧
    ((rigTx none (some (anOspec false false)) []).pack 0).ospec = some (anOspec false false) ∧
    ¬ ((rigTx none none []).row 0 0).hasPending ∧
    ((rigTx none none [anEntry (.load .plain 1 twoElems) noGuard]).row 0 0).hasPending :=
  ⟨fun _ _ _ => ⟨rigTx_ready _ _ _, rigTx_calm _ _ _⟩, rfl, rfl, rfl, by decide, by decide +kernel, rfl, rfl,
    by unfold Row.hasPending; decide +kernel, by unfold Row.hasPending; decide +kernel⟩

/-- A speculative pack whose row has ended, whose commit has each status: 0, 1 as the line's head is newer, 3 as its chain is
full, 2 by its doom; one with a row still live. -/
noncomputable def rigSpec (o : Ospec) (life : RowLife) (lines : Table VLine) : State :=
  { rigCalm [] with lines := lines, snapshots := [⟨0, 1, 1⟩], packs := [{ rigPack with ospec := some o, rows := [{ rigRow with life := life }] }] }

/-- The commits that have each status: 0 with nothing written, 1 with a newer head, 2 doomed, 3 with a full chain. -/
def specCases : List (Ospec × Table VLine × Nat) :=
  [({ anOspec false true with tx := ⟨[], none⟩ }, [], 0), (anOspec false true, [(0x310000 / 64, ⟨2, []⟩)], 1),
    ({ anOspec false false with tx := ⟨[aLine], some 2⟩ }, [], 2),
    (anOspec false true, [(0x310000 / 64, ⟨1, List.replicate 15 ⟨1, List.replicate 64 0, false⟩⟩)], 3)]

theorem witness_TransactionsAndSpeculation_speculation :
    (∀ x ∈ specCases,
      ((rigSpec x.1 .ended x.2.1).pack 0).ospec = some x.1 ∧ ((rigSpec x.1 .ended x.2.1).pack 0).life = .resident ∧
      x.1.serial = false ∧ (∀ w ∈ ((rigSpec x.1 .ended x.2.1).pack 0).rows, w.life = .ended ∧ ¬ w.hasPending) ∧
      (rigSpec x.1 .ended x.2.1).commitStatus x.1.start x.1.tx = x.2.2 ∧ (rigSpec x.1 .ended x.2.1).mem.wf = true) ∧
    (∃ w ∈ ((rigSpec (anOspec false false) .live []).pack 0).rows, w.life ≠ .ended) ∧
    (rig.pack 0).ospec = none ∧
    ∀ q ∈ (rigSpec (anOspec false false) .ended []).packs, q.launch = 0 → q.index < 0 → q.life = .ended := by
  simp only [Row.hasPending]; decide +kernel

theorem settleWalk_empty {s : State} {core : Nat} (h : (s.core core).l1 = []) (va : BitVec 64) (l n : Nat) :
    s.settleWalk core va l n = s := by
  induction l generalizing n with
  | zero => simp only [State.settleWalk, State.settleAt, h]; rfl
  | succ l ih =>
    have e : s.settleAt core (n + va.toNat / 2 ^ (12 + 9 * (l + 1)) % 512 / 16 * 128) 128 = s := by
      simp only [State.settleAt, h]; rfl
    simp only [State.settleWalk, e]
    split
    · exact ih _
    · rfl

/-- A translation through an entry that is marked already changes nothing. -/
theorem translate_marked {s : State} {die ctx : Nat} {va : BitVec 64} {k : AccessKind} {user : Bool} {loc size : Nat}
    {e : BitVec 64} {xl : Xlate}
    (hw : s.walk (s.context ctx).part va 3 (entryPa (s.context ctx).root) = .leaf loc e size) (hm : leafMarked e k = e)
    (hx : s.leafXlate (s.context ctx).part die va k user e size = some xl) :
    s.translate ctx die va k user = .ok (xl, s) := by
  simp only [State.translate, State.translateFrom, hw, hx, hm, if_true]

/-- A translation that the core's L1 TLB holds changes nothing. -/
theorem translateAt_held {s : State} {core ctx : Nat} {va : BitVec 64} {k : AccessKind} {user : Bool} {e : TlbEntry} {xl : Xlate}
    (hl : (s.core core).l1 = []) (hf : s.tlbFind core 61 (s.context ctx) va k (s.core core).tlb = some e)
    (hx : s.leafXlate (s.context ctx).part (dieOf core) va k user e.leaf e.size = some xl) :
    s.translateAt core ctx va k user = .ok (xl, s) := by
  simp only [State.translateAt, settleWalk_empty hl, hf, hx]

/-- The TLB entry of the first GiB, and the tables it was found in. -/
def firstGib : TlbEntry :=
  { part := 1, asid := none, page := 0, size := 2 ^ 30, loc := 0x201000, leaf := 0xDF,
    path := [(0x200000, 0x201001), (0x201000, 0xDF)] }

/-- A copy of 2 by 2 64-bit elements from memory at 0x31_0000 to the pack's scratchpad. -/
def aCopy : CopyRegs :=
  { src := 0x310000, dst := 0x100, rows := 2, cols := 2, sstride := 64, dstride := 16, aring := 7, arr := false, rc := 0,
    mfmt := 0, esize := 3, dir := 0, tl := 0, inc := 1, gate := 0, gval := 1 }
def plainAt (pa : Nat) (vers : Bool) : Xlate := ⟨pa, true, true, true, true, vers, false, false, 0⟩
def aTransfer : Transfer :=
  { pack := 0, row := 0, core := 0, tid := 7, regs := aCopy, genSrc := 0, genDst := 0, genArr := 0, tl := none, gate := none,
    user := true, life := .held, left := [], cause := none, base := 0, stageSrc := none, stageDst := none, sides := none, reads := [] }

/-- The rig with copy registers and transfers, and the pack with ring 7 at its generation. -/
noncomputable def rigCopy (c : CopyRegs) (l : List Transfer) : State :=
  { rigMem.modRow 0 0 fun w => { w with copy := c } with copies := l }
noncomputable def rigCopyRing (c : CopyRegs) (l : List Transfer) : State :=
  { (rigRing 6).modRow 0 0 fun w => { w with copy := c } with copies := l }
noncomputable def calmCopy (life : PackLife) (l : List Transfer) : State :=
  { (rigCalm []).modCore 0 fun k => { k with tlb := [firstGib] } with
    copies := l, packs := [{ rigPack with life := life, rows := [(rigCalm []).row 0 0] }] }

theorem rigCopy_ready (c : CopyRegs) (l : List Transfer) : Ready (rigCopy c l) ctl := ready_control rfl
theorem calmCopy_calm (f : PackLife) (l : List Transfer) : Calm (calmCopy f l) where
  l1 := by show ∀ c ∈ (calmCopy .resident []).cores, c.l1 = []; decide +kernel
  l1Bad := by show ∀ c ∈ (calmCopy .resident []).cores, c.l1Bad = []; decide +kernel
  counted := rfl
  poison := rfl
  channels := rfl
  mailbox _ _ := rfl

def okTwo {ε α β : Type} (e : Except ε (α × State)) (f : State → Except ε (β × State)) (g : α → β → Bool) : Bool :=
  match e with
  | .error _ => false
  | .ok (x, s) => match f s with | .error _ => false | .ok (y, _) => g x y

/-- A description that fails each check in turn, one with a timeline and a gate, one with an arrival ring that is defined and one
with a ring that is not, and 2,048 transfers in flight. -/
theorem witness_CopyEngine_issue :
    Ready (rigStrand id) str ∧ Ready (rigCopy aCopy []) ctl ∧ (rigCopy aCopy []).copySeen 0 0 = aCopy ∧
    (¬ aCopy.illegal 8 (recLitter (rig.record 0)) ∧ { aCopy with cols := 0 }.illegal 8 1 ∧
      { aCopy with dir := 4 }.illegal 8 (recLitter (rig.record 0)) ∧
      ¬ ({ aCopy with arr := true } : CopyRegs).illegal 8 1 ∧ { aCopy with arr := true }.illegal 7 1) ∧
    (let s := rigCopy { aCopy with tl := 0x310004, gate := 0x310001 } []
     (s.copySeen 0 0).tl.toNat % 8 ≠ 0 ∧ (s.copySeen 0 0).gate.toNat % 8 ≠ 0) ∧
    (let s := rigCopy aCopy []
     let u := s.startCommand ctl
     faultOf (u.timelineCheck ctl 0xC0000000) = some 0x06 ∧
     okTwo (u.timelineCheck ctl 0x310000) (fun v => v.timelineCheck ctl 0x310008) (fun x y => x.isSome && y.isSome) = true ∧
     okTwo (u.timelineCheck ctl 0) (fun v => v.timelineCheck ctl 0) (fun x y => x.isNone && y.isNone) = true ∧
     u.ringSeen 0 0 7 = none ∧ s.flying 0 = 0) ∧
    (let s := rigCopyRing { aCopy with arr := true } []
     Ready s ctl ∧ (s.copySeen 0 0).arr = true ∧ ((s.startCommand ctl).ringSeen 0 0 7).isSome = true) ∧
    (rigCopy aCopy (List.replicate 2047 aTransfer)).flying 0 = 2047 ∧
    (rigCopy aCopy (List.replicate 2048 aTransfer)).flying 0 = 2048 ∧ (rig.pack 0).core = 0 :=
  ⟨rigStrand_ready, rigCopy_ready _ _, by decide +kernel, 
    ⟨by simp [CopyRegs.illegal, aCopy], by simp [CopyRegs.illegal], by simp [CopyRegs.illegal, aCopy]; decide +kernel,
      by simp [CopyRegs.illegal, aCopy], by simp [CopyRegs.illegal, aCopy]⟩, by decide +kernel,
    by decide +kernel, ⟨ready_control rfl, by decide +kernel⟩, by decide +kernel, by decide +kernel, by decide +kernel⟩

/-- Transfers held by a gate on either kind of page and past one, held by a ring, one that starts, one on a ring that has completed, one
that fails. -/
theorem witness_CopyEngine_start :
    (∀ vers met : Bool,
      let t : Transfer :=
        { aTransfer with regs := { aCopy with gval := if met then 0 else 1 }, gate := some (plainAt 0x310000 vers) }
      let s := calmCopy .resident [t]
      s.copies[0]? = some t ∧ t.life = .held ∧ (s.pack 0).started = true ∧ t.rings = [] ∧ (s.gateLook t).2.startFails t = none ∧
      someAnd (s.gateLook t).1 (fun v => decide (t.regs.gval.toNat ≤ v.toNat) == met) = true) ∧
    (let t := { aTransfer with gate := some (plainAt 0x310000 true) }
     (rigCopy aCopy [t]).copies[0]? = some t ∧ t.life = .held ∧
       (leWord (memBytes (rigCopy aCopy [t]).mem 0x310000 8)).toNat < t.regs.gval.toNat) ∧
    (let t : Transfer := { aTransfer with regs := { aCopy with arr := true }, genArr := 6 }
     (7, 6) ∈ t.rings ∧ ∃ g, ((rigCopyRing aCopy [t]).pack 0).rings.getD 7 none = some g ∧ g.cg < 6) ∧
    (let t : Transfer := { aTransfer with regs := { aCopy with arr := true }, genArr := 5 }
     (7, 5) ∈ t.rings ∧ (rigCopyRing aCopy [t]).startFails t = none ∧
       ∃ g, ((rigCopyRing aCopy [t]).pack 0).rings.getD 7 none = some g ∧ 5 ≤ g.cg) ∧
    (calmCopy .resident [aTransfer]).startFails aTransfer = none ∧ aTransfer.rings = [] ∧
    (calmCopy .ended [aTransfer]).startFails aTransfer = some 0x07 ∧ (calmCopy .ended [aTransfer]).has ctl :=
  ⟨by decide +kernel, ⟨rfl, rfl, by decide +kernel⟩, ⟨by decide +kernel, _, rfl, by decide⟩, ⟨by decide +kernel, by decide +kernel, _, rfl, by decide⟩,
    by decide +kernel, by decide, by decide +kernel, ⟨by decide +kernel, by decide +kernel⟩⟩

/-- A started transfer with all four elements left. -/
def startedCopy : Transfer := { aTransfer with life := .started, left := [0, 1, 2, 3] }
def copyPage (u : Nat) : Xlate := plainAt (0x310000 + 64 * (u / 2) + 8 * (u % 2)) false

theorem witness_CopyEngine_plain :
    let s := calmCopy .resident [startedCopy]
    s.copies[0]? = some startedCopy ∧ startedCopy.life = .started ∧ PlainCopy s startedCopy copyPage ∧ Calm s ∧
    startedCopy.regs.arr = false ∧ startedCopy.tl = none :=
  have xlate : ∀ u ∈ [0, 1, 2, 3], (calmCopy .resident [startedCopy]).copyXlate startedCopy (startedCopy.from_ u) .read =
      .ok (copyPage u, calmCopy .resident [startedCopy]) := by
    intro u hu
    have hc : canonical (startedCopy.from_ u) = true := by revert u; decide +kernel
    have hf : (calmCopy .resident [startedCopy]).tlbFind startedCopy.core 61
        ((calmCopy .resident [startedCopy]).context ((calmCopy .resident [startedCopy]).pack startedCopy.pack).ctx)
        (startedCopy.from_ u) .read ((calmCopy .resident [startedCopy]).core startedCopy.core).tlb = some firstGib := by
      clear hc; revert u; decide +kernel
    have hx : (calmCopy .resident [startedCopy]).leafXlate
        ((calmCopy .resident [startedCopy]).context ((calmCopy .resident [startedCopy]).pack startedCopy.pack).ctx).part
        (dieOf startedCopy.core) (startedCopy.from_ u) .read startedCopy.user firstGib.leaf firstGib.size =
        some (copyPage u) := by clear hc hf; revert u; decide +kernel
    unfold State.copyXlate
    rw [if_neg (by simp [hc])]
    exact translateAt_held (by decide +kernel) hf hx
  ⟨rfl, rfl,
    { form := by decide +kernel, once := by decide +kernel, place := by decide +kernel, sound := by decide +kernel
      source := fun u hu => ⟨by revert u; decide +kernel, by revert u; decide +kernel,
        xlate u hu, rfl, rfl⟩
      dest := by decide +kernel, apart := by decide +kernel }, calmCopy_calm _ _, rfl, rfl⟩

/-- Transfers at step 3: with no timeline, behind an earlier one of the same timeline that is not done, behind one that is. -/
theorem witness_CopyEngine_adding :
    let t := { aTransfer with life := .adding, tl := some (plainAt 0x310000 false) }
    (rigCopy aCopy [{ t with tl := none }]).copies[0]? = some { t with tl := none } ∧
    (rigCopy aCopy [startedCopy, t]).copies[0]? = some startedCopy ∧
    (rigCopy aCopy [startedCopy, t]).copies[1]? = some t ∧ startedCopy.regs.tl = t.regs.tl ∧
    (∀ u, (calmCopy .resident [{ t with life := .done }, t]).copies[0]? = some u → u.life = .done) ∧
    Calm (calmCopy .resident [{ t with life := .done }, t]) ∧ (calmCopy .resident [{ t with life := .done }, t]).mem.wf = true ∧
    (calmCopy .resident [{ t with life := .done }, t]).owned ((calmCopy .resident [{ t with life := .done }, t]).pack 0).part 0x310000 =
      true :=
  ⟨rfl, rfl, rfl, rfl, fun u hu => by cases hu; rfl, calmCopy_calm _ _, by decide +kernel, by decide +kernel⟩

/-! ## Witnesses: collective reduction, launches and placement -/

/-- A collective descriptor of two participants at 0x31_0000, this one position 0, the other over tile device 1. -/
noncomputable def rigStrip (vq : List VEntry) (up : Bool) : State :=
  { rigCalm vq with mem := memPut (memPut (rigCalm vq).mem 0x310000 (leBytes 8 2)) 0x310040 [0, 1],
                    sessions := if up then [{ tdev := 1, part := 1, route := [], epoch := 0 }] else [],
                    conns := [{ id := 0, owner := .collective 0 0 0, src := ⟨0, 0, .cluster⟩, dsts := [], slots := [5] }] }
def stripXl : Xlate := plainAt 0x310000 false
noncomputable def stripEntry : VEntry := anEntry (.xdred 1 0x310000 stripXl 1) noGuard
noncomputable def aPeer (vl : Nat) : PeerStrip :=
  { pos := 1, vl := vl, vtype := stripEntry.ctx.vtypeCode, op := 1, elems := List.replicate 16 (some 5) }

theorem rigStrip_calm (vq : List VEntry) (up : Bool) : Calm (rigStrip vq up) where
  l1 := by show ∀ c ∈ (rigCalm []).cores, c.l1 = []; exact (rigCalm_calm []).l1
  l1Bad := by show ∀ c ∈ (rigCalm []).cores, c.l1Bad = []; exact (rigCalm_calm []).l1Bad
  counted := rfl
  poison := rfl
  channels := rfl
  mailbox _ _ := rfl

/-- An issue that each check stops and one that passes; a strip with its routes up and down, whose peer is there, is not, agrees and
does not. -/
theorem witness_CollectiveReduction :
    Guard.wf noGuard ∧ Ready (rigVec 1 0 16 []) ctl ∧ (1 : BitVec 6).toNat % ((rigVec 1 0 16 []).vctx 0 0).grp ≠ 0 ∧
    ((rigVec 1 0 16 []).vctx 0 0).ew < 32 ∧ 64 ≤ ((rigVec 0 3 16 (List.replicate 64 addEntry)).row 0 0).vq.length ∧
    (let s := rigVec 0 3 16 []
     Ready s ctl ∧ (s.vctx 0 0).grp = 1 ∧ (s.row 0 0).vq.length < 64 ∧ (s.xr ctl 6).toNat % 64 ≠ 0 ∧
       ((s.xr ctl 7).toNat % 64 = 0 ∧ canonical (s.xr ctl 7) = false) ∧ faultOf (s.translateFor ctl (s.xr ctl 8) .read) = some 0x06 ∧
       okAnd (s.translateFor ctl (s.xr ctl 9) .read) (fun x => x.2.poisoned x.1) = true ∧
       okAnd (s.translateFor ctl (s.xr ctl 4) .read) (fun x => !x.2.poisoned x.1) = true) ∧
    (∀ up, Calm (rigStrip [stripEntry] up)) ∧ stripEntry.ctx.sound ((rigStrip [stripEntry] true).row 0 0) ∧
    (∀ up ∈ [true, false],
      let s := rigStrip [stripEntry] up
      s.lanesRun 0 0 = true ∧ (s.row 0 0).lanesFree = true ∧ (s.row 0 0).vq = [stripEntry] ∧ s.mem.wf = true ∧
      s.stripWord stripXl 0x10 = 0 ∧ s.stripSize stripXl = 2 ∧ s.stripOwn stripXl = 0 ∧
      s.routesUp 0 (s.xdredRoutes 0 0x310000 2 0).1 = up ∧ (s.xdredRoutes 0 0x310000 2 0).2.partitions = [] ∧
      ∃ c ∈ s.conns, c.owner = .collective 0 0 stripEntry.seq ∧ c.slots ≠ []) ∧
    (∀ n ∈ [1050000, 1049999],
      ({ rigStrip [stripEntry] true with cycle := n } : State).stripLate stripXl stripEntry.cycle ↔ n = 1050000) ∧
    (let s := rigStrip [stripEntry] true
     ¬ s.stripThere stripXl [] ∧ s.stripThere stripXl [aPeer 16] ∧ s.stripAgrees stripXl stripEntry.ctx 1 [aPeer 16] ∧
       ¬ s.stripAgrees stripXl stripEntry.ctx 1 [aPeer 15]) :=
  ⟨by decide +kernel, rigVec_ready _ _ _ _, by decide +kernel, by decide +kernel, by decide +kernel,
    ⟨rigVec_ready _ _ _ _, by decide +kernel⟩, rigStrip_calm _,
    ⟨by decide +kernel, by decide +kernel, (by decide +kernel), by decide +kernel⟩, by decide +kernel, by unfold State.stripLate; decide +kernel,
    by simp only [State.stripThere, State.stripAgrees]; decide +kernel⟩

/-- A record with these words 3 and 4, entry 0x30_0042, and no gate. -/
def aRecord (w3 w4 : BitVec 64) : Record := [0x300042, 0, 0, w3, w4] ++ List.replicate 11 0

/-- The rig with queue 1 of its context as given, the descriptor at 0x33_0820, its WRIDX, a record for queue 1 at 0x31_0000, and
the record in the queue's first slot, at 0x34_0000. -/
noncomputable def rigQueue (d : QueueDesc) (w : Nat) (r : Record) : State :=
  { rigCalm [] with
    contexts := [{ Context.none with part := 1, root := 0x200000, haddr := 0x300042, block := 0x330000, queues := [d, d] }],
    partitions := rig.partitions,
    mem := memPut (memPut (memPut (rigCalm []).mem 0x330830 (leBytes 8 w)) 0x310020 (leBytes 8 (2 ^ 48)))
      0x340000 (r.flatMap fun w => leBytes 8 w.toNat) }
def aQueue (owner : Bool) (base : Nat) : QueueDesc := { base := base, owner := owner, enable := true, log2 := 4 }

theorem rigQueue_calm (d : QueueDesc) (w : Nat) (r : Record) (h : leNat (memBytes (rigQueue d w r).mem 0x3FF000 8) = 0) :
    Calm (rigQueue d w r) where
  l1 := by show ∀ c ∈ (rigCalm []).cores, c.l1 = []; exact (rigCalm_calm []).l1
  l1Bad := by show ∀ c ∈ (rigCalm []).cores, c.l1Bad = []; exact (rigCalm_calm []).l1Bad
  counted := rfl
  poison := rfl
  channels := rfl
  mailbox pa n := by
    unfold State.mailboxBusy
    show (_ && decide (leNat (memBytes (rigQueue d w r).mem 0x3FF000 8) ≠ 0) || false) = false
    rw [h]; simp

/-- A queue that is read, from what can be computed of it. -/
theorem read_live (d : QueueDesc) : d.live = true ↔ d.read := by simp [QueueDesc.live, QueueDesc.read]

/-- A launch of a record that is misaligned, not mapped, damaged, in a speculative pack; into a queue the device does not own, a
full one, one that is disabled, one whose slot is at no legal address, and one with room. -/
theorem witness_LaunchesAreMade_launch :
    Ready rigMem ctl ∧ (rigMem.xr ctl 6).toNat % 128 ≠ 0 ∧ ((rigMem.xr ctl 7).toNat % 128 = 0 ∧ canonical (rigMem.xr ctl 7) = false) ∧
    faultOf (rigMem.translateFor ctl (rigMem.xr ctl 8) .read) = some 0x06 ∧
    okAnd (rigMem.translateFor ctl (rigMem.xr ctl 9) .read) (fun x => x.2.recordPoisoned ctl x.1) = true ∧
    (let s := rigTx none (some (anOspec true false)) []
     Ready s ctl ∧ (s.pack 0).ospec ≠ none ∧
       okAnd (s.translateFor ctl (s.xr ctl 4) .read) (fun x => !x.2.recordPoisoned ctl x.1) = true) ∧
    (∀ d w, Ready (rigQueue d w []) ctl) ∧ Calm (rigQueue (aQueue true 0x340000) 15 []) ∧
    (let go := fun (d : QueueDesc) (w : Nat) (f : State → QueueDesc → Nat → Bool) =>
       let s := rigQueue d w []
       (s.pack 0).ospec.isNone && okAnd (s.translateFor ctl (s.xr ctl 4) .read) fun x =>
         decide (bitsOf (recWord (x.2.recordAt x.1.pa) 4) 53 48 = 1) && x.1.tdev == 0 && !x.1.vers &&
         f x.2 ((s.context (s.pack 0).ctx).queue 1) (x.2.writeIndex (s.context (s.pack 0).ctx) 1)
     go (aQueue false 0x340000) 0 (fun _ d _ => !d.owner) = true ∧
     go (aQueue true 0x340000) 16 (fun _ d w => d.owner && d.live && decide (2 ^ d.log2 ≤ w)) = true ∧
     go { aQueue true 0x340000 with log2 := 17 } 0 (fun _ d _ => d.owner && !d.live) = true ∧
     go (aQueue true 0x800000000000) 15 (fun u d w => d.owner && d.live && decide (w < 2 ^ d.log2) &&
       decide (causeOf (u.writeCheck ctl (d.slot w) 8) = some 0x07)) = true ∧
     go (aQueue true 0x340000) 15 (fun u d w => d.owner && d.live && decide (w < 2 ^ d.log2) &&
       okAnd (u.writeCheck ctl (d.slot w) 8) fun y => y.1.tdev == 0 && !y.1.vers && y.2.mem.wf && decide (y.1.pa = 0x340780)) =
       true) :=
  ⟨rigMem_ready, by decide +kernel, by decide +kernel, by decide +kernel, by decide +kernel,
    ⟨rigTx_ready _ _ _, by decide +kernel, by decide +kernel⟩, fun _ _ => ready_control rfl,
    rigQueue_calm _ _ _ (by decide +kernel), by decide +kernel⟩

/-- A record with VALID that is legal, one that is refused, one without VALID, in the first slot of queue 1. -/
theorem witness_LaunchesAreMade_take :
    let s := fun (r : Record) => rigQueue (aQueue true 0x340000) 1 r
    let good := (aRecord 0x0000000100000001 0x10001).set 15 0x8000000000000007
    let bad := (aRecord 0x0000000900000001 0).set 15 0x8000000000000000
    (∀ r ∈ [good, bad, aRecord 0 0],
      (s r).ctxRuns 0 = true ∧ ((s r).context 0).queue 1 = aQueue true 0x340000 ∧ (aQueue true 0x340000).live = true ∧
      (s r).heads = [] ∧ (s r).mem.wf = true ∧ (s r).readIndex ((s r).context 0) 1 = 0 ∧ (s r).pendingEnd = [] ∧
      (s r).recordAt 0x340000 = r ∧ Calm (s r)) ∧
    (∀ r ∈ [good, bad, aRecord 0 0], (s r).translate 0 frontDie ((aQueue true 0x340000).slot 0) .readWrite false =
      .ok (plainAt 0x340000 false, s r)) ∧
    (recWord good 15).getLsbD 63 = true ∧ (recWord (aRecord 0 0) 15).getLsbD 63 = false ∧ recordLegal good ∧ ¬ recordLegal bad ∧
    ({ aQueue true 0 with enable := false } : QueueDesc).live = false ∧ rig.ctxRuns 1 = false := by
  refine ⟨fun r h => ⟨?_, ?_, ?_, rfl, ?_, ?_, rfl, ?_, rigQueue_calm _ _ _ ?_⟩, fun r h => translate_marked (loc := 0x201000)
    (e := 0xDF) (size := 2 ^ 30) ?_ (by decide) ?_, by decide, by decide, ?_, fun h => absurd h.2.2.2.1 (by decide), rfl,
    by decide +kernel⟩
  case refine_10 =>
    unfold recordLegal
    and_intros
    all_goals first
      | decide
      | (intro i h h'
         rcases (by omega : i = 10 ∨ i = 11 ∨ i = 12 ∨ i = 13 ∨ i = 14) with rfl | rfl | rfl | rfl | rfl <;> rfl)
  all_goals (revert r; decide +kernel)

/-- Heads whose gate is met, is not yet met and cannot be read. -/
def aHead (gate value : BitVec 64) : Head :=
  { ctx := 0, q := 1, rec_ := ((aRecord 0x0000000100000001 0).set 5 gate).set 6 value, lid := 7 }

theorem witness_LaunchesAreMade_select :
    rig.gateOf (aHead 0 1) = some true ∧ rig.gateOf (aHead 0x310000 0) = some true ∧ rig.gateOf (aHead 0x310000 1) = some false ∧
    rig.gateOf (aHead 0x800000000000 0) = none ∧ ∀ k ∈ rig.packs, k.life = .resident → k.started = true := by decide +kernel

/-- A device whose core 0 alone is in service, with these packs, launches and this much kennel area for context 0. -/
noncomputable def rigDie (packs : List Pack) (launches : List Launch) (size : Nat) : State :=
  { rig with
    cores := { Core.reset 0 with healthy := 0xFFFFFFFF, disabled := false } ::
      List.replicate 255 { Core.reset 0 with healthy := 0, disabled := true },
    packs := packs, launches := launches,
    contexts := [{ Context.none with part := 1, root := 0x200000, haddr := 0x300042, kennelBase := 0x10000000, kennelSize := size }] }
def aLaunch (w4 : BitVec 64) : Launch :=
  { Launch.none with lid := 7, rec_ := aRecord 0x0000000100000001 w4, refused := false, completed := false }
/-- A pack of one unit and one row on core 0. -/
def onCore (prio : BitVec 3) : Pack := { rigPack with prio := prio }

/-- Nobody waiting; a pack that has no kennel, one that fits, and one of 48 units that can pre-empt and cannot. -/
theorem witness_PacksArePlaced :
    rig.waiting = [] ∧
    (let s := rigDie [] [aLaunch 0x10000] 0
     s.firstWaiting = some (.fresh 0) ∧ s.unplaceable (s.candNeed (.fresh 0)) = true ∧ (s.launch 0).fails = []) ∧
    (let s := rigDie [onCore 0] [aLaunch 0x10000] 0x1000000
     let n := s.candNeed (.fresh 0)
     s.firstWaiting = some (.fresh 0) ∧ s.unplaceable n = false ∧ (s.chooseFit n).isSome = true ∧
       s.fitAt false [] n 0 = some ([1], 1) ∧ (s.kennelRoom 0 (largestImage n) (s.reservations 0 [])).isSome = true ∧ recLitter (s.launch 0).rec_ < 2) ∧
    (∀ prio ∈ [0, 7],
      let s := rigDie [onCore prio] [aLaunch 0x300000] 0x1000000
      let n := s.candNeed (.fresh 0)
      s.firstWaiting = some (.fresh 0) ∧ s.unplaceable n = false ∧ s.chooseFit n = none ∧ s.askedStill 0 0 = false ∧
      s.preemptFor (.fresh 0) (s.candKey (.fresh 0)).1 = if prio = 0 then none else some [0]) := by decide +kernel

/-- A saved pack whose image has a good header and row, or nothing at all, at an address of its context. -/
noncomputable def rigSaved (good : Bool) (place : BitVec 48) : State :=
  let v : Saved := { forced := false, width := { braced := false, req := 16, grant := 16 }, base := 0, held := 0,
                     parts := [RowPart.none], size := 8192, tag := 0 }
  let s := rigDie [{ rigPack with life := .saved, saved := some v, launch := 0, kaddr := place, ksize := 0x10000 }]
    [{ aLaunch 0x10000 with nextPack := 1 }] 0x1000000
  if good then { s with mem := memPut s.mem 0x330000 ((s.headerWords 0 { v with size := imgStrands 1 0 1 16 1 }).flatMap fun w => leBytes 8 w) } else s

theorem witness_PacksArePlaced_resume :
    ∀ found good : Bool, (good = true → found = true) →
      let s := rigSaved good (if found then 0x330000 else 0x7000000000)
      let n := s.candNeed (.old 0)
      s.firstWaiting = some (.old 0) ∧ (s.pack 0).life = .saved ∧ (s.chooseFit n).isSome = true ∧ s.unplaceable n = false ∧
      s.litterOf 0 = none ∧
      someAnd (s.pack 0).saved (fun v =>
        let y := s.imgReads 0 0 (va64 (s.pack 0).kaddr) v.size
        match y.1 with
        | none => !found
        | some b => found && y.2.imageBad 0 v b == !good) = true ∧
      ∀ w ∈ (s.pack 0).rows, w.debugWrites = [] := by decide +kernel

/-- A pack of one row with these PREEMPT bits, stopped or not, whose kennel is not mapped; a transfer that is held. -/
noncomputable def rigLeave (park req stopped : Bool) : State :=
  { rigWith (fun w => { w with stopped := stopped, preempt := { tforce := 100, park := park, forced := false, req := req } }) with
    copies := [aTransfer], contexts := [{ Context.none with part := 1, root := 0x7000000000 }] }

/-- Nothing is written to a kennel that is not mapped, and nothing need wait for room. -/
theorem imgPut_unmapped {s : State} {ctx : Nat} (h : localEnd ≤ entryPa (s.context ctx).root) (core : Nat) (va : BitVec 64)
    (b : List (BitVec 8)) : s.imgPut ctx core va b = some s := by
  have ht : ∀ x, s.translate ctx (dieOf core) x .write false = .error 0x06 := fun x => by
    simp only [State.translate, State.translateFrom, State.walk, if_pos h]
  unfold State.imgPut
  generalize pageCuts va b (b.length / 64 + 2) = l
  induction l with
  | nil => rfl
  | cons x l ih => simp only [List.foldl_cons, ht, ih]

theorem witness_SavesAndSwap :
    (∀ x ∈ [(true, false, false), (false, true, false), (false, true, true)],
      let s := rigLeave x.1 x.2.1 x.2.2
      0 < s.packs.length ∧ (s.pack 0).life = .resident ∧ (s.pack 0).started = true ∧ (s.pack 0).ospec = none ∧
      s.coreLeaving (s.pack 0).core = false ∧ ∀ x ∈ s.copies, x.pack = 0 → x.life ≠ .started) ∧
    (∀ w ∈ ((rigLeave true false false).pack 0).rows, w.settled ∧ w.preempt.park = true) ∧
    (rigLeave true false false).kennelTakes 0 false false ∧
    (∃ w ∈ ((rigLeave false true false).pack 0).rows, w.preempt.req = true ∧
      ¬ (w.stopped = true ∨ w.preempt.park = true ∨ w.life = .ended)) ∧
    (∀ w ∈ ((rigLeave false true true).pack 0).rows, w.halfway ∧ w.stopped = true ∧ w.preempt.req = true) ∧
    (∀ discard, ((rigLeave false true true).cutLoads 0).kennelTakes 0 true discard) ∧
    (rig.firstWaiting = none ∧ (rig.pack 1).life ≠ .resident) ∧
    (let s := rig.modCore 0 fun k => { k with retire := 1 }
     (s.pack 0).life = .resident ∧ s.coreLeaving (s.pack 0).core = true) ∧
    (∀ cycle ∈ [0, 2 ^ 20],
      let s : State := { rigDie [onCore 3] [aLaunch 0x10000] 0 with cycle := cycle }
      s.firstWaiting = some (.fresh 0) ∧ dieOf (s.pack 0).core = 0 ∧ dieOf (s.pack 0).core ≠ 1 ∧
      (∀ w ∈ (s.pack 0).rows, w.preempt.req = false) ∧ 0 ∈ s.litterPacks 0 ∧
      (s.swapLimit 0 (.fresh 0) ≤ s.cycle - (s.dies.getD 0 Die.reset).lastIssue ↔ cycle = 2 ^ 20)) := by
  refine ⟨by decide +kernel, ?_, ?_, by decide +kernel, ?_, fun d => ?_, by decide +kernel⟩
  · simp only [Row.settled]; decide +kernel
  · unfold State.kennelTakes State.putImage; rw [imgPut_unmapped (by decide +kernel)]; rfl
  · simp only [Row.halfway]; decide +kernel
  · unfold State.kennelTakes State.putImage; rw [imgPut_unmapped (by decide +kernel)]; rfl

/-- A launch all of whose packs have ended, with STATP 0x31_0000 and DONETL 0x31_0040; one with a pack still to end. -/
noncomputable def rigOver (ended : Nat) : State :=
  { rigCalm [] with
    launches := [{ aLaunch 0 with ended := ended, nextPack := 1,
                                  rec_ := ((aRecord 0x0000000100000001 0).set 9 0x310000).set 7 0x310040 }] }
noncomputable def rigBlocked : State :=
  { rigOver 1 with
    snapshots := (rigOver 1).snapshots.filter fun e =>
      decide (e.lid ≠ ((rigOver 1).launch 0).lid ∨ e.part ≠ ((rigOver 1).context ((rigOver 1).launch 0).ctx).part),
    mem := memPut (rigOver 1).mem 0x310000 (((rigOver 1).launch 0).block.flatMap fun v => leBytes 8 v) }

theorem witness_LaunchCompletes :
    (rigOver 1).launches.length = 1 ∧ ((rigOver 1).launch 0).completed = false ∧ ((rigOver 1).launch 0).ended = 1 ∧
    ((rigOver 0).launch 0).refused = false ∧ ((rigOver 0).launch 0).ended + ((rigOver 0).launch 0).cut ≠
      bitsOf (recWord ((rigOver 0).launch 0).rec_ 3) 31 0 ∧
    (rigOver 1).copies = [] ∧ (rigOver 1).mem.wf = true ∧ (rigOver 1).partitions = [] ∧ Calm (rigOver 1) ∧
    (rigOver 1).owned ((rigOver 1).context ((rigOver 1).launch 0).ctx).part 0x310040 = true ∧
    (rigOver 1).translate 0 frontDie 0x310000 .write false = .ok (plainAt 0x310000 false, rigOver 1) ∧
    rigBlocked.translate 0 frontDie 0x310040 .readWrite false = .ok (plainAt 0x310040 false, rigBlocked) :=
  ⟨rfl, rfl, rfl, rfl, by decide +kernel, rfl, by decide +kernel, rfl,
    ⟨by show ∀ c ∈ (rigCalm []).cores, c.l1 = []; exact (rigCalm_calm []).l1,
      by show ∀ c ∈ (rigCalm []).cores, c.l1Bad = []; exact (rigCalm_calm []).l1Bad, rfl, rfl, rfl, fun _ _ => rfl⟩,
    by decide +kernel,
    translate_marked (loc := 0x201000) (e := 0xDF) (size := 2 ^ 30) (by decide +kernel) (by decide) (by decide +kernel),
    translate_marked (loc := 0x201000) (e := 0xDF) (size := 2 ^ 30) (by decide +kernel) (by decide) (by decide +kernel)⟩

/-! ## Witnesses: errors, walks and commands -/

/-- The rig with full lanes in core 0, and a machine check waiting or not. -/
noncomputable def rigLanes (mc : Option MCheck) (recent : List Nat) : State :=
  { rigWith (fun w => { w with mcheck := mc }) with
    cores := { Core.reset 0 with healthy := 0xFFFFFFFF, laneErrors := [(5, recent)] } :: List.replicate 3 (Core.reset 1),
    clusters := [{ Cluster.reset with recent := [(16 * 2 + 3, recent)] }], cycle := 100 }

theorem witness_CoreSramErrors :
    (rigLanes none []).laneRetire = 16 ∧ errorsNow ((rigLanes none (List.replicate 15 0)).core 0).laneErrors 5 100 = 16 ∧
    errorsNow ((rigLanes none (List.replicate 14 0)).core 0).laneErrors 5 100 = 15 ∧ (rigLanes none []).cores.length = 4 ∧
    ((rigLanes none []).pack 0).on 0 = true ∧ ((rigLanes none []).row 0 0).mcheck = none ∧
    ((rigLanes (some ⟨0, 0⟩) []).row 0 0).mcheck ≠ none ∧ 0 < ((rigLanes none []).pack 0).rows.length ∧
    (rigLanes none []).ownerOf 0 0xFFFF = some (0, false, 0xFFFF) ∧ (rigLanes none []).groupUsed 0 1 = true ∧
    (rigLanes none []).groupUsed 0 2 = false ∧ ((rigLanes none []).pack 0).ospec = none ∧ ((rigLanes none []).pack 0).started = true ∧
    15 < ((rigLanes none []).row 0 0).strands.length := by decide +kernel

/-- A control thread and a LOOSE strand that have gone past an instruction which read their poisoned x4. -/
theorem witness_CoreSramErrors_consumption :
    (let s := rigWith fun w => { w with bad := [.int 4] }
     let u := s.modThread ctl fun t => { t with pc := 0x300004 }
     (s.thread ctl).waiting = none ∧ s.thread ctl ≠ u.thread ctl ∧
       (s.reading ctl (.add 3 1 4)).find? (fun m => decide (m ∈ s.badRegs ctl)) = some (.int 4) ∧ 0 < (s.pack 0).rows.length ∧
       0 < (u.pack 0).rows.length ∧ (u.row 0 0).mcheck = none) ∧
    (let s := rigStrand fun t => { t with bad := [.int 63] }
     let u := s.modThread str fun t => { t with pc := 0x300004 }
     (s.thread str).waiting = none ∧ s.thread str ≠ u.thread str ∧
       (s.reading str (.add 3 63 4)).find? (fun m => decide (m ∈ s.badRegs str)) = some (.int 63) ∧ s.groupOf 0 0 3 = [3] ∧
       (u.row 0 0).discardable = false ∧ (u.row 0 0).mcheck = none) := by decide +kernel

/-- Die 0 with these failed routers and errors noted of router 3, cluster 3 out of use; two packs of a litter that wait at ENTRY. -/
noncomputable def rigDies (failed : List Nat) (errors : List Nat) : State :=
  { rig with
    cycle := 100, dies := rig.dies.set 0 { Die.reset with routersFailed := failed, routerErrors := [(4096 * 3 + 7, errors)] },
    cores := List.replicate 12 (Core.reset 1) ++ List.replicate 4 { Core.reset 1 with disabled := true } }
noncomputable def rigLitter (started : Bool) : State :=
  { rig with
    launches := [{ aLaunch 0 with rec_ := aRecord 0x0200000100000002 0 }],
    packs := [{ rigPack with started := started }, { rigPack with started := started, core := 1, index := 1 }] }

/-- Errors of a way in service, of none and of another bank, cores with and without a pack, routes of a new set due and not, a router
with an error behind it and without, a litter that waits and one that runs. -/
theorem witness_SliceErrorsAndUpkeep :
    errorsNow ((rigLanes none (List.replicate 15 0)).clusters.getD 0 Cluster.reset).recent (16 * 2 + 3) 100 = 16 ∧
    errorsNow ((rigLanes none (List.replicate 14 0)).clusters.getD 0 Cluster.reset).recent (16 * 2 + 3) 100 < 16 ∧
    (rigLanes none []).wayIn 0 2 3 = true ∧ (rigLanes none []).wayIn 0 32 3 = false ∧ bankOf 2 = 2 ∧ bankOf 3 ≠ 2 ∧
    (rig.pack 0).on 0 = true ∧ (∀ p, p < rig.packs.length → (rig.pack p).on 1 = false) ∧
    (∀ failed ∈ [[], [3]],
      let s := rigDies failed []
      (∀ p, p < s.packs.length → (s.pack p).on 12 = false) ∧ 12 < s.cores.length ∧ s.dies.length = 12 ∧ dieOf 12 = 0 ∧
      (s.dieAt 0).routersFailed = failed ∧ (s.dieAt 0).rerouted = [] ∧ ∀ i, i < 4 → (s.core (4 * 3 + i)).disabled = true) ∧
    (∀ errors ∈ [[], [1]],
      let past := (tget ((rigDies [] errors).dieAt 0).routerErrors (4096 * 3 + 7)).getD []
      (∃ c ∈ past, (rigDies [] errors).cycle < c + 2 ^ 30) ↔ errors = [1]) ∧
    rig.dies.length = 12 ∧ (rig.dieAt 0).routes = [] ∧ (∀ d, d < 12 → (rig.dieAt d).routersFailed = []) ∧
    (rigLitter false).dies.length = 12 ∧ (rigLitter false).litterMissing 0 0 = [] ∧ (rigLitter false).litterHeld 0 0 = [0, 1] ∧ (rigLitter false).litterDie 0 0 = 0 ∧
    (rigLitter true).litterHeld 0 0 = [] ∧ (∀ k ∈ (rigLitter false).packs, k.core < 256) ∧ (rigLitter false).conns = [] := by
  decide +kernel

/-- The first of an L2 TLB, the last core's first, a walk, and indices that name no entry; a route entry of an IO die's router with an
error behind it and without, and one past the last. -/
theorem witness_SliceErrorsAndUpkeep_entries :
    (let s := { rig with clusters := [{ Cluster.reset with tlb := [firstGib], walks := [⟨1, 0, 3, 0, 0x201000, []⟩] }] }.modCore 3 fun k => { k with tlb := [firstGib] }
     let k := s.clusters.getD 0 Cluster.reset
     k.tlb[0]? = some firstGib ∧ k.tlb[1]? = none ∧ 0 < k.walks.length ∧ ¬ 1 < k.walks.length ∧
       (s.core (4 * 0 + (8704 + 3 * 512 - 8704) / 512)).tlb[(8704 + 3 * 512 - 8704) % 512]? = some firstGib ∧ 0 < s.clusters.length ∧
       4 ≤ s.cores.length) ∧
    (∀ errors ∈ [[], [1]],
      let s : State := { rig with cycle := 100, dies := rig.dies.set 8 { Die.reset with routerErrors := [(2 ^ 16 + 95, errors)] } }
      s.dies.length = 12 ∧ 0 < routerCount 8 ∧
        ((∃ c ∈ (tget (s.dieAt 8).routerErrors (2 ^ 16 + 128 * 0 + 95)).getD [], s.cycle < c + 2 ^ 30) ↔ errors = [1])) := by
  decide +kernel

/-- A flit from router 2, at (2, 0), to router 5, at (1, 1), goes along x first, to router 1 (R368); the ring to its far side and past it. -/
theorem test_route : (rig.dieAt 0).path 2 5 = [1, 5] ∧ rig.clockwise 0 6 = true ∧ rig.clockwise 0 7 = false := by decide +kernel

/-- Channel errors of line 0 with and without a second failed channel of its group; a line with two old versions. -/
theorem witness_MemoryErrorsAndWalks_errors :
    lineChannel 0 = (0, 0) ∧ (∃ d ∈ [(7, 0)], d.2 = (lineChannel 0).2 ∧ d.1 ≠ (lineChannel 0).1) ∧
    (¬ ∃ d ∈ rig.failedChannels, d.2 = (lineChannel 0).2 ∧ d.1 ≠ (lineChannel 0).1) ∧
    (let s := rigSpec (anOspec false true) .live [(0, ⟨2, [⟨1, [], false⟩, ⟨0, [], false⟩]⟩)]
     ∃ v, tget s.lines 0 = some v ∧ v.chain.length = 2) ∧
    ((tget rig.channelErrors 0).getD []).length < 16 ∧
    tget ({ rig with counted := [(5, ⟨1, []⟩)] } : State).counted 5 ≠ none ∧
    16 ≤ ((tget [(0, List.replicate 16 5)] 0).getD []).length := by decide +kernel

/-- Four nodes from 0x20_0000 to a last one whose entry 1 is a page with every permission, 2 one that only reads, 3 one of another
partition. -/
noncomputable def rigWalk : State :=
  { rig with mem := memPut (memPut (memPut (memPut [] 0x200000 (leBytes 8 0x201001)) 0x201000 (leBytes 8 0x202001)) 0x202000
      (leBytes 8 0x203001)) 0x203000 (leBytes 8 0 ++ leBytes 8 0x30001F ++ leBytes 8 0x300003 ++ leBytes 8 0x40001F) }

theorem witness_MemoryErrorsAndWalks_walks :
    canonical 0x800000000000 = false ∧ rigWalk.mem.wf = true ∧ (rigWalk.clusters.getD 0 Cluster.reset).walks = [] ∧
    (∀ va ∈ [0x0, 0x1FFF, 0x2000, 0x3000], canonical va = true ∧ Leads rigWalk 1 0x200000 va 0x203000) ∧
    (rigWalk.context 0).part = 1 ∧ bitsOf (rigWalk.context 0).root 51 12 * 4096 = 0x200000 ∧
    (let e := fun va => entryAt rigWalk.mem 0x203000 va 0
     (e 0).getLsbD 0 = false ∧ plainLeaf (e 0x1FFF) ∧ plainLeaf (e 0x2000) ∧ plainLeaf (e 0x3000) ∧
       leafPermits (e 0x1FFF) .readWrite true ∧ ¬ leafPermits (e 0x2000) .write false ∧
       bitsOf (e 0x1FFF) 51 12 * 4096 + 0xFFF < 0x5400000000 ∧
       tget rigWalk.granules ((bitsOf (e 0x1FFF) 51 12 * 4096 + 0xFFF) / 2 ^ 21) = some 1 ∧
       tget rigWalk.granules (bitsOf (e 0x3000) 51 12 * 4096 / 2 ^ 21) ≠ some 1) := by
  refine ⟨by decide +kernel, by decide +kernel, by decide +kernel, fun va h => ?_, by decide +kernel, by decide +kernel, ?_⟩
  · simp only [List.mem_cons, List.not_mem_nil, or_false] at h
    rcases h with rfl | rfl | rfl | rfl <;>
      exact ⟨by decide +kernel, ⟨0x201000, 0x202000, by simp only [pointsTo]; decide +kernel⟩⟩
  · simp only [plainLeaf, leafPermits]; decide +kernel

/-- Commands of the three classes of issuer. -/
def cmdOf (issuer : Issuer) (part : Nat) : Cmd := { issuer := issuer, part := part, tag := 5, length := 32, zero := 0, formed := true }
def byHost (part : Nat) : Cmd := cmdOf .host part
def byOwner (part : Nat) : Cmd := cmdOf (.owner part) part
def byExec (part : Nat) : Cmd := cmdOf (.exec part) part

/-- The rig once it is up, its partition in a state and with a key, a launch of context 0 and a second context, of partition 2; in
the mailbox a command of partition 1 with code `op`, its doorbell rung. -/
noncomputable def rigFw (op : Nat) (tdisp : Tdisp) (key : Option (BitVec 256)) : State :=
  { rig with
    ready := true, partitions := rig.partitions.map fun q => { q with tdisp := tdisp, ownerKey := key, execDigest := some 7 },
    launches := [aLaunch 0x10000], contexts := rig.contexts ++ [{ Context.none with num := 1, part := 2 }],
    mem := memPut (memPut rig.mem 0x3FF000 (leBytes 8 1)) 0x3FF040 (leBytes 4 op ++ leBytes 4 32 ++ leBytes 8 5 ++ leBytes 2 1) }

theorem rigFw_host (n : Nat) (t : Tdisp) (k : Option (BitVec 256)) (part op : Nat) : (rigFw n t k).issued (byHost part) op := rfl
theorem rigFw_owner (n : Nat) (t : Tdisp) (k : Option (BitVec 256)) (part op : Nat) : (rigFw n t k).issued (byOwner part) op := rfl

/-- The codes of the executive's commands (R480). -/
def execCodes : List Nat := [0x06, 0x07, 0x0A, 0x0B, 0x0D, 0x10, 0x12]

theorem rigFw_exec (op : Nat) (h : op ∈ execCodes) (t : Tdisp) (k : Option (BitVec 256)) : (rigFw op t k).issued (byExec 1) op :=
  ⟨{ id := 1, tdisp := t, slotShare := 0, snapShare := 4096, ownerKey := k, mailbox := 0x3FF000, swapn := none,
     execDigest := some 7, key := (0, 0) }, rfl, by simp only [rigFw]; revert op; decide +kernel⟩

theorem takes_host {s : State} {i : Instr} {part op : Nat} {w : Issuers} (hi : s.issued (byHost part) op)
    (h : commandForm i = some (byHost part, op, w)) (a : w.host = true) (hp : part ≤ 16 := by omega) : s.takes i :=
  ⟨_, op, w, h, hi, by simp [Cmd.wellFormed, byHost, cmdOf, hp], .inl ⟨a, rfl⟩⟩
theorem takes_owner {s : State} {i : Instr} {part op : Nat} {w : Issuers} (hi : s.issued (byOwner part) op)
    (h : commandForm i = some (byOwner part, op, w)) (a : w.owner = true) (hp : part ≤ 16 := by omega) : s.takes i :=
  ⟨_, op, w, h, hi, by simp [Cmd.wellFormed, byOwner, cmdOf, hp], .inr (.inl ⟨a, rfl⟩)⟩
theorem takes_exec {s : State} {i : Instr} {part op : Nat} {w : Issuers} (hi : s.issued (byExec part) op)
    (h : commandForm i = some (byExec part, op, w)) (a : w.exec = true) (hp : part ≤ 16 := by omega) : s.takes i :=
  ⟨_, op, w, h, hi, by simp [Cmd.wellFormed, byExec, cmdOf, hp], .inr (.inr ⟨a, rfl⟩)⟩

/-- A command that does not stand, one that is malformed and one from an issuer that may not give it. -/
theorem witness_CommandsAreChecked :
    commandForm (.partDestroy (byHost 1)) = some (byHost 1, 0x02, { host := true }) ∧ ¬ rig.issued (byHost 1) 2 ∧
    (∀ c ∈ [{ byHost 1 with formed := false }, { byHost 1 with length := 65544 }, byHost 17, { byHost 1 with zero := 1 }],
      c.wellFormed = false ∧ (∃ op w, commandForm (.partDestroy c) = some (c, op, w)) ∧ (rigFw 0 .run none).issued c 2) ∧
    (byHost 1).wellFormed = true ∧ (byExec 1).wellFormed = true ∧
    (rigFw 6 .run none).issued (byExec 1) 6 ∧ ¬ ({ host := true } : Issuers).allow (byExec 1) ∧ ¬ ({ exec := true } : Issuers).allow (byHost 1) :=
  ⟨rfl, by simp [State.issued, byHost, cmdOf, rig, State.reset],
    fun c h => ⟨by revert c; decide +kernel, ⟨_, _, rfl⟩, by
      simp only [List.mem_cons, List.not_mem_nil, or_false] at h; rcases h with rfl | rfl | rfl | rfl <;> rfl⟩,
    by decide +kernel, by decide +kernel, rigFw_exec _ (by decide) _ _, by simp [Issuers.allow, byExec, cmdOf],
    by simp [Issuers.allow, byHost, cmdOf]⟩

theorem witness_PartitionCommands :
    (∀ t k part n, part ≤ 16 → (rigFw 0 t k).takes (.partCreate (byHost part) 0 0 none n)) ∧
    (((0 : Nat) = 0 ∨ 1 % 4096 ≠ 0) ∧ ¬ ((2 : Nat) = 0 ∨ 16 < 2 ∨ 0x3FF000 % 4096 ≠ 0)) ∧
    (∀ t k part, part ≤ 16 → (rigFw 0 t k).takes (.partDestroy (byHost part))) ∧
    (∀ t ∈ [Tdisp.unlocked, .locked, .run, .error], (rigFw 0 t none).interface 1 = some t ∧ (rigFw 0 t none).interface 2 = none) ∧
    (∀ t k part by_, part ≤ 16 → (rigFw 0 t k).takes (.execLoad (byOwner part) [] by_)) ∧
    (∃ m, (rigFw 0 .locked (some 3)).partOf 1 = some m ∧ m.tdisp = .locked ∧ m.ownerKey = some 3) ∧
    (∃ m, (rigFw 0 .unlocked none).partOf 1 = some m ∧ m.tdisp = .unlocked ∧ m.ownerKey = none) ∧
    (∀ t k part base n, part ≤ 16 → (rigFw 0 t k).takes (.granuleAssign (byHost part) base n) ∧
      (rigFw 0 t k).takes (.granuleRemove (byHost part) base n)) ∧
    (0x200001 % 2 ^ 21 ≠ 0 ∧ ¬ (0x400000 % 2 ^ 21 ≠ 0 ∨ 0x5400000000 < 0x400000 + 2 * 2 ^ 21)) ∧
    (∀ g ∈ [2, 3], tget (rigFw 0 .unlocked none).granules g = none) ∧ 4 ≤ (rigFw 0 .unlocked none).usableGranules ∧
    tget (rigFw 0 .unlocked none).granules 1 = some 1 :=
  ⟨fun t k part _ _ => takes_host (rigFw_host 0 t k part _) rfl rfl, by decide,
    fun t k part _ => takes_host (rigFw_host 0 t k part _) rfl rfl, by decide +kernel,
    fun t k part _ _ => takes_owner (rigFw_owner 0 t k part _) rfl rfl, ⟨_, rfl, rfl, rfl⟩, ⟨_, rfl, rfl, rfl⟩,
    fun t k part _ _ _ => ⟨takes_host (rigFw_host 0 t k part _) rfl rfl, takes_host (rigFw_host 0 t k part _) rfl rfl⟩, by decide,
    by decide +kernel, by decide +kernel, by decide +kernel⟩

theorem memRead_absent (m : Memory) (a : Nat) (h : ∀ x ∈ m, x.1 ≠ a) : memRead m a = 0 := by
  induction m with
  | nil => rfl
  | cons x m ih =>
    obtain ⟨k, v⟩ := x
    have hk := h (k, v) (List.mem_cons_self ..)
    simp only [memRead]
    rw [if_neg fun e => hk e.symm]
    split
    · rfl
    · exact ih fun y hy => h y (List.mem_cons_of_mem _ hy)

/-- A context block whose reserved part is clear. -/
theorem witness_ContextAndDeviceCommands_block :
    ∀ j, 0x30 ≤ j → j < 0x800 → memRead (rigFw 6 .run none).mem (0x340000 + j) = 0 := by
  have h : ∀ x ∈ (rigFw 6 .run none).mem, x.1 < 0x340030 ∨ 0x340800 ≤ x.1 := by decide +kernel
  intro j h1 h2
  exact memRead_absent _ _ fun x hx e => by have := h x hx; omega

/-- A context block that is misaligned, in no granule of the partition, not clear, and good; contexts of the partition and of another;
a launch that runs and one still in its queue. -/
theorem witness_ContextAndDeviceCommands :
    (∀ t k i op, op ∈ execCodes → commandForm i = some (byExec 1, op, { exec := true }) → (rigFw op t k).takes i) ∧
    (∀ b ctx lid line v, commandForm (.ctxCreate (byExec 1) b) = some (byExec 1, 0x06, { exec := true }) ∧
      commandForm (.ctxDestroy (byExec 1) ctx) = some (byExec 1, 0x07, { exec := true }) ∧
      commandForm (.launchEnd (byExec 1) ctx lid) = some (byExec 1, 0x12, { exec := true }) ∧
      commandForm (.poisonClear (byExec 1) line) = some (byExec 1, 0x0D, { exec := true }) ∧
      commandForm (.setParam (byExec 1) (.swapnPart v)) = some (byExec 1, 0x10, { exec := true })) ∧
    (∀ t k, (∀ par, (∀ v, par ≠ .swapnPart v) → (rigFw 0 t k).takes (.setParam (byHost 0) par)) ∧
      (rigFw 0 t k).takes (.health (byHost 0)) ∧ (rigFw 0x0B t k).takes (.health (byExec 1)) ∧ (rigFw 0 t k).takes (.reset (byHost 0))) ∧
    (∀ op ∈ execCodes,
     let s := rigFw op .run none
     0x340001 % 4096 ≠ 0 ∧ tget s.granules (0x400000 / 2 ^ 21) ≠ some 1 ∧ tget s.granules (0x340000 / 2 ^ 21) = some 1 ∧
       memRead s.mem (0x3FF000 - 0x40 + 0x40) ≠ 0 ∧
       (∀ j, j < 64 → s.linePoisoned (0x340000 / 64 + j) = false) ∧
       (∃ k ∈ s.contexts, k.num = 0) ∧ (∀ k ∈ s.contexts, k.num ≠ 2) ∧ (∀ l ∈ s.launches, l.completed = false → l.ctx ≠ 2) ∧
       (∃ m, s.partOf 1 = some m ∧ m.tdisp ≠ .error ∧ m.id = 1) ∧
       s.ctxOf 2 = none ∧ (∃ k, s.ctxOf 1 = some k ∧ k.part ≠ 1) ∧ (∃ k, s.ctxOf 0 = some k ∧ k.part = 1) ∧
       (s.launch 0).ctx = 0 ∧ (s.launch 0).lid = 7 ∧ (s.launch 0).completed = false ∧ (s.launch 0).refused = false ∧
       (∀ l ∈ s.launches, l.lid ≠ 8) ∧ (aHead 0 0).ctx = 0 ∧
       tget s.granules (64 * (0x200000 / 64 - 1) / 2 ^ 21) ≠ some 1 ∧ tget s.granules (64 * (0x200000 / 64) / 2 ^ 21) = some 1 ∧
       s.lostLine (0x200000 / 64) = false ∧
       ({ s with failedChannels := [(0, 0), (7, 0)] } : State).lostLine (0x200000 / 64) = true ∧
       s.cores.length = 256 ∧ s.clusters.length = 64 ∧ s.dies.length = 12 ∧ s.partMade = false ∧ s.mem.wf = true ∧
       s.poison.length < 2 ^ 32 ∧ s.failedChannels.length < 2 ^ 16 ∧ (s.links.getD 15 Link.reset).retries < 2 ^ 32) :=
  ⟨fun t k i op ho h => takes_exec (rigFw_exec op ho t k) h rfl,
    fun _ _ _ _ _ => ⟨rfl, rfl, rfl, rfl, rfl⟩,
    fun t k => ⟨fun par h => by cases par <;> first | exact takes_host (rigFw_host 0 t k 0 _) rfl rfl | exact absurd rfl (h _),
      takes_host (rigFw_host 0 t k 0 _) rfl rfl, takes_exec (rigFw_exec 0x0B (by decide) t k) rfl rfl,
      takes_host (rigFw_host 0 t k 0 _) rfl rfl⟩, by decide +kernel⟩

theorem witness_InterfaceStates :
    (rigFw 0 .unlocked none).interface 2 = none ∧ (rigFw 0 .unlocked none).interface 1 = some .unlocked ∧
    (rigFw 0 .locked none).interface 1 = some .locked ∧ rig.ready = false ∧ (rigFw 0 .run none).ready = true ∧
    (rigFw 0 .run none).partOf 2 = none ∧ (∃ m, (rigFw 0 .run none).partOf 1 = some m ∧ m.execDigest = some 7) ∧
    (let s := rigFw 0 .run none
     (s.launch 0).refused = false ∧ (s.launch 0).completed = false ∧ (∃ k ∈ s.contexts, k.num = (s.launch 0).ctx ∧ k.part = 1) ∧
       (s.pack 0).launch = 0) :=
  ⟨by decide +kernel, by decide +kernel, by decide +kernel, rfl, rfl, by decide +kernel, ⟨_, rfl, rfl⟩, by decide +kernel⟩

/-! ## Witnesses: debug, patches, host and links -/

def anyRow : Filter := { packId := none, rowId := none, launchId := none, queue := none }
def noRow : Filter := { anyRow with rowId := some 7 }
def aTrace (f : Filter) (written : Nat) (full : Bool) : TraceState :=
  { ctx := 0, set := { filter := f, base := 0x350000, size := Config.bufferHeader + 16 }, written := written, overflow := full }
def aSample (due : List (List (BitVec 64))) (written : Nat) : SampleState :=
  { ctx := 0, set := { period := 16, base := 0x350000, size := Config.bufferHeader + 64 }, count := 0, due := due, written := written }

/-- The device with context 0 under a debug right or not, and a row halted or not with writes kept for its release, with a trace and
a sampling of core 0. -/
noncomputable def rigDebug (right halted : Bool) (d : List DebugAccess) (tr : Option TraceState) (sm : Option SampleState) : State :=
  { rigFw 0x0A .run none with
    contexts := (rigFw 0x0A .run none).contexts.map fun k => { k with debugRight := right },
    packs := [{ rigPack with rows := [{ rigRow with
      dbg := { halted := halted, catch_ := false, right := right }, debugWrites := d }] }],
    cores := [{ Core.reset 0 with comparators := some (0, ⟨0x300002, none, anyRow⟩) :: List.replicate 7 none, trace := tr, sample := sm }] }

theorem rigDebug_exec (a b : Bool) (w : List DebugAccess) (c : Option TraceState) (d : Option SampleState) :
    (rigDebug a b w c d).issued (byExec 1) 0x0A := by
  have h := rigFw_exec 0x0A (by decide) .run none
  simp only [State.issued, byExec, cmdOf, State.partOf, rigDebug] at h ⊢
  exact h
theorem rigDebug_owner (a b : Bool) (w : List DebugAccess) (c : Option TraceState) (d : Option SampleState) (op : Nat) :
    (rigDebug a b w c d).issued (byOwner 1) op := rfl

/-- No command of the context was discarded, or one was; its row is resident or saved, halted, and waits at its instruction or with
an entry of its queue; a right that a second context lacks. -/
theorem witness_DebugCommands_states :
    (let s := rigDebug true true [] none none
     ((1, 0) ∉ s.voided ∧ (1, 0) ∈ ({ s with voided := [(1, 0)] } : State).voided) ∧ (s.pack 0).life = .resident ∧
       (s.row 0 0).debugWrites = [] ∧ (s.row 0 0).thread.waiting = none ∧ (s.row 0 0).status.intrap = false) ∧
    (∀ f : Fetch, ((rigDebug true true [] none none).modThread ctl fun t => { t with waiting := some (.slot, f) }).row 0 0 =
      { (rigDebug true true [] none none).row 0 0 with
        thread := { ((rigDebug true true [] none none).row 0 0).thread with waiting := some (.slot, f) } }) ∧
    (let s := (rigDebug true true [] none none).modPack 0 fun k => { k with life := .saved }
     (s.row 0 0).dbg.halted = true ∧ (s.pack 0).life ≠ .resident ∧ 0 < s.packs.length ∧ 0 < (s.pack 0).rows.length ∧
       (∃ k, s.ctxOf (s.pack 0).ctx = some k ∧ k.part = 1 ∧ k.debugRight = true)) :=
  ⟨by decide +kernel, fun _ => rfl, by decide +kernel⟩

theorem witness_DebugAndRecords_commands :
    (∀ a b w c d ctx, (rigDebug a b w c d).takes (.debugGrant (byOwner 1) ctx) ∧ (rigDebug a b w c d).takes (.debugRevoke (byOwner 1) ctx)) ∧
    (∀ a b w c d i, commandForm i = some (byExec 1, 0x0A, { exec := true }) → (rigDebug a b w c d).takes i) ∧
    (∀ ctx core idx cmp set sam acc, commandForm (.debugSetComparator (byExec 1) ctx core idx cmp) = some (byExec 1, 0x0A, { exec := true }) ∧
      commandForm (.debugTraceSet (byExec 1) ctx core set) = some (byExec 1, 0x0A, { exec := true }) ∧
      commandForm (.debugSampleSet (byExec 1) ctx core sam) = some (byExec 1, 0x0A, { exec := true }) ∧
      commandForm (.debugHalt (byExec 1) 0 0) = some (byExec 1, 0x0A, { exec := true }) ∧
      commandForm (.debugRelease (byExec 1) 0 0) = some (byExec 1, 0x0A, { exec := true }) ∧
      commandForm (.debugHistoryRead (byExec 1) 0 0) = some (byExec 1, 0x0A, { exec := true }) ∧
      commandForm (.debugStateAccess (byExec 1) 0 0 acc) = some (byExec 1, 0x0A, { exec := true })) ∧
    (∀ right ∈ [true, false],
      (∃ k, (rigDebug right true [] none none).ctxOf 0 = some k ∧ k.part = 1 ∧ k.debugRight = right) ∧
      ∃ k, (rigDebug right true [] none none).ctxOf 1 = some k ∧ k.part ≠ 1) ∧
    (∀ halted ∈ [true, false],
      let s := rigDebug true halted [] none none
      0 < s.packs.length ∧ 0 < (s.pack 0).rows.length ∧ (s.pack 0).ctx = 0 ∧ (s.row 0 0).dbg.halted = halted ∧
      (s.row 0 0).thread.midRun = false ∧ (∀ t ∈ (s.row 0 0).strands, t.thread.midRun = false) ∧ (s.row 0 0).strands.length = 16) ∧
    (∀ d ∈ [[], [DebugAccess.writeRow (8 * (31 : BitVec 6).toNat) 7], [.writeRow 0x200 0x300042],
        [.writeStrand 15 (8 * ((63 : BitVec 6).toNat + 4)) 7]],
      ((rigDebug true true d none none).row 0 0).debugWrites = d ∧ ((rigDebug true true d none none).row 0 0).dbg.halted = true) ∧
    (∃ x, ((rigDebug true true [] (some (aTrace anyRow 0 false)) none).core 0).trace = some x ∧ x.ctx = 0) ∧ rig.mem.wf = true ∧
    (let lies := fun (base size : Nat) => base + size ≤ 0x5400000000 ∧ ∀ b, base ≤ b → b < base + size → tget rig.granules (b / 2 ^ 21) = some 1
     lies 0x350000 0x1000 ∧ ¬ lies 0x3FFFC0 128) :=
  ⟨fun a b w c d _ => ⟨takes_owner (rigDebug_owner a b w c d _) rfl rfl, takes_owner (rigDebug_owner a b w c d _) rfl rfl⟩,
    fun a b w c d _ h => takes_exec (rigDebug_exec a b w c d) h rfl, fun _ _ _ _ _ _ _ => ⟨rfl, rfl, rfl, rfl, rfl, rfl, rfl⟩,
    by decide +kernel, by decide +kernel, by decide +kernel, ⟨_, rfl, rfl⟩, by decide +kernel,
    ⟨by decide, fun b h1 h2 => by have : b / 2 ^ 21 = 1 := by omega
                                  rw [this]; rfl⟩,
    fun h => absurd (h.2 0x400000 (by decide) (by decide)) (by decide +kernel)⟩

/-- A trace of another row with room for one record, one that is full, one that has overflowed, one of this row; samplings with a sample
due, with room for it and without, and with none. -/
theorem witness_DebugAndRecords_records :
    (∀ written full, let s := rigDebug true false [] (some (aTrace noRow written full)) none
      0 < s.packs.length ∧ 0 < (s.pack 0).rows.length ∧ (s.pack 0).life = .resident ∧ (s.pack 0).started = true ∧
      (s.pack 0).core < s.cores.length ∧ (s.core (s.pack 0).core).trace = some (aTrace noRow written full) ∧
      (s.row 0 0).dbg.right = true) ∧
    (∀ f ∈ [anyRow, noRow], (rigDebug true false [] (some (aTrace f 0 false)) none).fullTrace 0 = some (0, 0) ↔ f = anyRow) ∧
    (aTrace noRow 0 true).overflow = true ∧ Config.bufferHeader + (aTrace noRow 0 false).written + 16 ≤ (aTrace noRow 0 false).set.size ∧
    (aTrace noRow 16 false).set.size < Config.bufferHeader + (aTrace noRow 16 false).written + 16 ∧
    (∀ due written, ((rigDebug true false [] none (some (aSample due written))).core 0).sample = some (aSample due written) ∧
      0 < (rigDebug true false [] none (some (aSample due written))).cores.length) ∧
    (aSample [List.replicate 8 0] 0).due = List.replicate 8 0 :: [] ∧ (List.replicate 8 (0 : BitVec 64)).length = 8 ∧
    Config.bufferHeader + (aSample [] 0).written + 64 ≤ (aSample [] 0).set.size ∧
    (aSample [] 64).set.size < Config.bufferHeader + (aSample [] 64).written + 64 :=
  ⟨fun _ _ => ⟨by simp [rigDebug], by simp [rigDebug, State.pack], rfl, rfl, by simp [rigDebug, State.pack, rigPack, Pack.none], rfl, rfl⟩,
    by decide +kernel, rfl, Nat.le_refl _, by simp only [aTrace]; omega, fun _ _ => ⟨rfl, by simp [rigDebug]⟩, rfl, rfl, Nat.le_refl _,
    by simp only [aSample]; omega⟩

/-- A patch image of empty entries. -/
def emptyImage : List (BitVec 8) := List.replicate 32768 0

theorem emptyImage_ok : patchImageOk emptyImage = true := by
  unfold patchImageOk emptyImage
  simp only [List.length_replicate, decide_true, Bool.true_and, List.all_eq_true, List.mem_range]
  intro e he
  rw [List.drop_replicate, List.take_replicate, show min 128 (32768 - 128 * e) = 128 by omega]
  decide +kernel

/-- A halted row's control thread in a translation when a patch is loaded: nothing executes, and it stands at a place of the map. -/
theorem witness_PatchesAndTranslations_load :
    let x : Built := { ctx := 0, start := 0x300000, size := 4, text := [], strand := false, code := 0, digest := 0, dest := 0x360000,
                       len := 64, map := [(0x300001, 0x360002)], exits := [] }
    let s := ({ rigDebug true true [] none none with built := [x] } : State).modThread ctl fun t => { t with pc := 0x360002 }
    s.takes (.patchLoad (byHost 0) emptyImage .korlan) ∧ (¬ ∃ a, s.has a ∧ s.executing a = true) ∧ x ∈ s.built ∧
    x.ctx = (s.pack 0).ctx ∧ (0x300001, 0x360002) ∈ x.map ∧ (0x360002 : BitVec 48) = (s.thread ctl).pc ∧
    0 < (s.pack 0).rows.length := by
  refine ⟨takes_host rfl rfl rfl, fun ⟨a, h, e⟩ => ?_, by simp, rfl, by simp, rfl, by decide +kernel⟩
  cases a with
  | control p r =>
    obtain rfl : p = 0 := Nat.lt_one_iff.mp h.1
    obtain rfl : r = 0 := Nat.lt_one_iff.mp h.2
    revert e; decide +kernel
  | strand p r k =>
    obtain rfl : p = 0 := Nat.lt_one_iff.mp h.1
    obtain rfl : r = 0 := Nat.lt_one_iff.mp h.2.1
    have hk : k < 16 := h.2.2
    clear h
    revert e; revert k; decide +kernel

theorem witness_PatchesAndTranslations :
    Ready rig ctl ∧
    (let s := rigDebug true false [] none none
     s.issuer = ctl ∧ s.breakpoint ctl = some 0) ∧
    (∀ image by_ part, part ≤ 16 → (rigFw 0 .run none).takes (.patchLoad (byHost part) image by_)) ∧
    (rig.has ctl ∧ rig.executing ctl = true) ∧
    (¬ ∃ a, ({ rigFw 0 .run none with packs := [] } : State).has a ∧ ({ rigFw 0 .run none with packs := [] } : State).executing a = true) ∧
    patchImageOk emptyImage = true ∧ emptyImage.length = 32768 ∧
    (∃ img : List (BitVec 8), img.length = 32768 ∧ 8 < (img.getD (128 * 0 + 8) 0).toNat) ∧
    rig.ctxOf 5 = none ∧ (∃ c, rig.ctxOf 0 = some c) ∧ rig.built = [] ∧ (∃ b, rig.imgRead 0 0 0x300000 4 = some b) :=
  ⟨rig_ready, ⟨rfl, by decide +kernel⟩, fun _ _ part hp => takes_host (rigFw_host 0 .run none part _) rfl rfl,
    ⟨⟨by decide +kernel, by decide +kernel⟩, by decide +kernel⟩,
    fun ⟨a, h, _⟩ => by cases a <;> exact Nat.not_lt_zero _ h.1, emptyImage_ok, by rw [emptyImage, List.length_replicate],
    ⟨List.replicate 8 0 ++ 9 :: List.replicate 32759 0,
      by rw [List.length_append, List.length_cons, List.length_replicate, List.length_replicate], by decide +kernel⟩, by decide +kernel, ⟨_, rfl⟩, rfl,
    Option.isSome_iff_exists.mp (by decide +kernel)⟩

/-- A function of one Adtan word, halt (R73), that has been executed, and its translation of one line into the context's area. -/
noncomputable def rigAdtan : State :=
  { rigCalm [] with
    contexts := [{ Context.none with part := 1, root := 0x200000, transBase := 0x360000, transSize := 0x1000 }],
    mem := memPut (rigCalm []).mem 0x300000 (leBytes 4 0x00100000), ranAdtan := [(0x300001, 0x00100000)] }
def aTranslation : Translation :=
  { start := 0x300000, size := 4, map := [(0x300001, 0x360002)], dest := 0x360000, lines := lineOf false { head := 0x2002 } }

theorem witness_PatchesAndTranslations_adtan :
    (∃ c, rigAdtan.ctxOf 0 = some c ∧ c.fits aTranslation = true) ∧
    (let x := rigAdtan.imgReads 0 0 (aTranslation.start.signExtend 64) 4
     let u := x.2
     x.1 = some (leBytes 4 0x00100000) ∧ u.built = [] ∧ u.ranAdtan = [(0x300001, 0x00100000)] ∧
       0 * 2 ^ 48 + aTranslation.start.toNat < 0x300001 ∧ 0x300001 < 0 * 2 ^ 48 + aTranslation.start.toNat + aTranslation.size ∧
       transFaithful aTranslation u.patch ((lineWord aTranslation.lines 0).getLsbD 10) (leBytes 4 0x00100000) = true ∧
       aTranslation.lines.length = 64 ∧ Calm u ∧ u.mem.wf = true ∧
       u.translate 0 0 0x360000 .fetch false = .ok (plainAt 0x360000 false, u)) := by
  have hp : (rigAdtan.imgReads 0 0 (aTranslation.start.signExtend 64) 4).2.partitions = [] := by decide +kernel
  refine ⟨⟨_, rfl, by decide +kernel⟩, ⟨?_, ?_, ?_, ?_, ?_, ?_, rfl, ⟨?_, ?_, ?_, ?_, ?_, fun pa n => ?_⟩, ?_,
    translate_marked (loc := 0x201000) (e := 0xDF) (size := 2 ^ 30) ?_ (by decide) ?_⟩⟩
  case refine_12 => simp only [State.mailboxBusy, hp]; rfl
  all_goals decide +kernel

/-- A running partition with a session of tile device 3, nothing delayed or damaged, and a mailbox that is empty. -/
noncomputable def rigHost (poison : List Nat) : State := { rig with sessions := [{ tdev := 3, part := 1, route := [2], epoch := 0 }], poison := poison }

theorem rigHost_calm : Calm (rigHost []) where
  l1 := by show ∀ c ∈ (rigCalm []).cores, c.l1 = []; exact (rigCalm_calm []).l1
  l1Bad := by show ∀ c ∈ (rigCalm []).cores, c.l1Bad = []; exact (rigCalm_calm []).l1Bad
  counted := rfl
  poison := rfl
  channels := rfl
  mailbox pa n := by
    unfold State.mailboxBusy
    have h : leNat (memBytes (rigHost []).mem 0x3FF000 8) = 0 := by decide +kernel
    show (_ && decide (leNat (memBytes (rigHost []).mem 0x3FF000 8) ≠ 0) || false) = false
    rw [h]; simp

theorem witness_HostAndRemoteAccess :
    (rigHost []).counted = [] ∧ Calm (rigHost []) ∧ (rigHost []).mem.wf = true ∧ (rigHost []).reachable 1 0x300000 64 ∧
    ¬ (rigHost []).reachable 1 0x3FFFFF 2 ∧ ¬ (rigHost []).reachable 2 0x300000 1 ∧ ¬ (rigHost []).spoiled 0x300000 64 ∧
    (rigHost [0x300000 / 64]).spoiled 0x300000 1 ∧ (rigHost [0x300000 / 64]).linePoisoned (0x300000 / 64) = true ∧
    (∀ m ∈ (rigHost []).partitions, ¬ (m.mailbox < 0x300000 + 64 ∧ 0x300000 < m.mailbox + 8)) ∧
    (∃ c, rig.ctxOf 0 = some c ∧ c.part = 1 ∧ c.part ≠ 2) ∧ rig.ctxOf (bitsOf 7 15 0) = none ∧
    (((rigHost []).sessions.find? fun x => decide (x.tdev = 3)).map fun x => x.part) = some 1 ∧
    (((rigHost []).sessions.find? fun x => decide (x.tdev = 4)).map fun x => x.part) = none ∧ (0x300000 % 8 = 0 ∧ 0x300001 % 4 ≠ 0) := by
  refine ⟨rfl, rigHost_calm, by decide +kernel, ⟨by decide, by decide +kernel, by decide +kernel⟩,
    fun h => absurd (h.2.2 1 (by decide)) (by decide +kernel), fun h => absurd h.2.1 (by decide +kernel), ?_, ⟨0, by decide, by decide +kernel⟩,
    by decide +kernel, by decide +kernel, ⟨_, rfl, by decide +kernel, by decide +kernel⟩, by decide +kernel, by decide +kernel,
    by decide +kernel, by decide⟩
  rintro ⟨i, hi, h⟩
  revert h; revert i; decide +kernel

/-- A flit whose CRC holds, whatever the CRC is. -/
def goodFlit : List (BitVec 8) := List.replicate 248 0 ++ leBytes 8 (Config.crc64 (List.replicate 248 0)).toNat

theorem leWord_leBytes (v : BitVec 64) : leWord (leBytes 8 v.toNat) = v := by
  apply BitVec.eq_of_toNat_eq
  have := v.isLt
  simp only [leWord, leBytes, leNat, BitVec.toNat_ofNat]
  omega

theorem goodFlit_crc : leWord (goodFlit.drop 248) = Config.crc64 (goodFlit.take 248) := by
  unfold goodFlit
  rw [List.drop_left' List.length_replicate, List.take_left' List.length_replicate, leWord_leBytes]

theorem goodFlit_seq : leNat ((goodFlit.drop 1).take 4) = 0 := by
  unfold goodFlit
  rfl

theorem witness_LinkOperation :
    (∀ part i, part ≤ 16 → commandForm i = some (byOwner part, 0x11, { owner := true }) → (rigFw 0 .run none).takes i) ∧
    (∀ part tdev route ok, commandForm (.linkSession (byOwner part) tdev route ok) = some (byOwner part, 0x11, { owner := true })) ∧
    (∃ m, (rigFw 0 .run none).partOf 1 = some m ∧ m.tdisp ≠ .error) ∧ (∃ m, (rigFw 0 .error none).partOf 1 = some m ∧ m.tdisp = .error) ∧
    ¬ ((127 : Nat) = 0 ∨ 128 ≤ 127 ∨ [15, 3] = ([] : List Nat)) ∧
    (∀ unit, (rigFw 0 .run none).takes (.failUnit (byHost 0) unit)) ∧ 255 < (rigFw 0 .run none).cores.length ∧
    (∃ k, rig.links[15]? = some k ∧ k.state = 2 ∧ k.width = 2 ∧ k.seq = 0 ∧ k.tagFails = 0) ∧
    (let k : Link := { Link.reset with tagFails := 1, width := 1, recent := List.replicate 63 0 }
     k.state = 2 ∧ k.tagFails ≠ 0 ∧ (k.recent.filter fun x => decide (100 < x + 1050000)).length + 1 = 64) ∧
    goodFlit.length = 256 ∧ leWord (goodFlit.drop 248) = Config.crc64 (goodFlit.take 248) ∧ leNat ((goodFlit.drop 1).take 4) = 0 ∧
    leNat ((goodFlit.drop 7).take 1) = 0 ∧ 16 ≤ ({ Link.reset with group := 15 } : Link).group + 1 ∧
    (∀ taken ∈ [0, 2 ^ 32 - 1, 2 ^ 32], (∀ x ∈ [({ tdev := 3, part := 1, route := [15], epoch := 0, taken := taken } : Session)],
      x.route.head? = some 15 → x.taken < 2 ^ 32) ↔ taken ≠ 2 ^ 32) ∧
    ¬ ([] : List (BitVec 8)).length = 256 :=
  ⟨fun part _ hp h => takes_owner (rigFw_owner 0 .run none part _) h rfl, fun _ _ _ _ => rfl, ⟨_, rfl, by simp⟩, ⟨_, rfl, rfl⟩, by decide,
    fun _ => takes_host (rigFw_host 0 .run none 0 _) rfl rfl, by decide +kernel, ⟨_, rfl, rfl, rfl, rfl, rfl⟩, by decide +kernel,
    by rw [goodFlit, List.length_append, List.length_replicate, leBytes_length], goodFlit_crc, goodFlit_seq, rfl, by decide,
    by decide, by simp⟩

/-! ## Witnesses: accesses through the tables -/

/-- `rigWalk`'s tables, whose page 1 is at 0x30_0000 with every permission, with a line of one slot at its address 0x1040 and a datum
at 0x1100. -/
noncomputable def mapMem : Memory :=
  memPut (memPut rigWalk.mem 0x300040 (lineOf false { head := 0 })) 0x300100 (leBytes 8 0x1122334455667788)

theorem mapMem_points :
    leWord (memBytes mapMem 0x200000 8) = 0x201001 ∧ leWord (memBytes mapMem 0x201000 8) = 0x202001 ∧
    leWord (memBytes mapMem 0x202000 8) = 0x203001 ∧ leWord (memBytes mapMem 0x203008 8) = 0x30001F ∧ mapMem.wf = true ∧
    leNat (memBytes mapMem 0x300040 2) / 2 ^ 11 = 1 ∧ leWord (memBytes mapMem 0x300100 8) = 0x1122334455667788 := by decide +kernel
theorem mapMem_bits : ∀ n ∈ [0x200000, 0x201000, 0x202000, 0x203000], ∀ j, j < 16 →
    (leWord (memBytes mapMem (n + 8 * j) 8)).getLsbD 8 = false := by decide +kernel

/-- What a state has whose one partition's first granule of memory is `mapMem`, with nothing held of a table and no write pending. -/
structure Plain (s : State) (a : Agent) : Prop where
  mem : s.mem = mapMem
  granules : s.granules = [(1, 1)]
  part : (s.context (s.pack a.pr.1).ctx).part = 1
  root : bitsOf (s.context (s.pack a.pr.1).ctx).root 51 12 * 4096 = 0x200000
  fresh : (s.core (s.coreOf a)).tlb = [] ∧ (s.clusters.getD (s.coreOf a / 4) Cluster.reset).tlb = [] ∧
    (s.clusters.getD (s.coreOf a / 4) Cluster.reset).walks = []
  quiet : (s.core (s.coreOf a)).l1 = [] ∧ (s.core (s.coreOf a)).l1Bad = []
  sound : ∀ l ∈ [0xC001, 0xC004], s.linePoisoned l = false ∧ tget s.counted l = none
  early : s.early = []

theorem walk_leads {s : State} {a : Agent} (h : Plain s a) (va : BitVec 64) (hv : va ∈ [0x1040#64, 0x1100]) :
    Leads s 1 0x200000 va 0x203000 := by
  obtain ⟨p3, p2, p1, -⟩ := mapMem_points
  have i : walkIndex va 3 = 0 ∧ walkIndex va 2 = 0 ∧ walkIndex va 1 = 0 ∧ walkIndex va 0 = 1 := by
    simp only [List.mem_cons, List.not_mem_nil, or_false] at hv
    rcases hv with rfl | rfl <;> decide +kernel
  obtain ⟨i3, i2, i1, i0⟩ := i
  refine ⟨0x201000, 0x202000, ?_, ?_, ?_, fun x hx => ?_⟩
  · rw [entryAt, h.mem, i3, p3]; simp only [pointsTo]; decide +kernel
  · rw [entryAt, h.mem, i2, p2]; simp only [pointsTo]; decide +kernel
  · rw [entryAt, h.mem, i1, p1]; simp only [pointsTo]; decide +kernel
  · rw [h.mem, h.granules]
    simp only [List.mem_cons, List.not_mem_nil, or_false] at hx
    rcases hx with rfl | rfl | rfl | rfl <;> simp only [i0, i1, i2, i3] <;> refine ⟨by decide, by decide +kernel, fun j hj => ?_⟩ <;>
      simp only [Nat.zero_div, Nat.reduceDiv, Nat.zero_mul, Nat.zero_add] <;> exact mapMem_bits _ (by simp) j hj

/-- Every access of such a state to the datum and to the line is mapped. -/
theorem Plain.mapped {s : State} {a : Agent} (h : Plain s a) (user : Bool) (k : AccessKind) (va : BitVec 64)
    (hv : va ∈ [0x1040#64, 0x1100]) : Mapped s a user va k (0x300000 + va.toNat % 4096) 0x203008 := by
  have i : walkIndex va 0 = 1 ∧ (∀ j, j < 64 → 47 ≤ j → va.getLsbD j = va.getLsbD 47) ∧
      (0x300000 + va.toNat % 4096) / 64 ∈ [0xC001, 0xC004] ∧ 0x300000 + va.toNat % 4096 < 0x400000 := by
    simp only [List.mem_cons, List.not_mem_nil, or_false] at hv
    rcases hv with rfl | rfl <;> decide +kernel
  obtain ⟨i0, ic, il, ib⟩ := i
  have e : entryAt s.mem 0x203000 va 0 = 0x30001F := by rw [entryAt, h.mem, i0]; exact mapMem_points.2.2.2.1
  refine ⟨fun j h1 h2 => ic j h2 h1, ⟨0x203000, ?_, by rw [i0], ?_, ?_, ?_⟩, ⟨by omega, ?_⟩, h.fresh, h.quiet, ?_, ?_⟩
  · rw [h.part, h.root]; exact walk_leads h va hv
  · rw [e]; simp only [plainLeaf]; decide +kernel
  · rw [e]; simp only [leafPermits]; exact ⟨by cases k <;> decide +kernel, fun _ => by decide +kernel⟩
  · rw [e]; rfl
  · rw [h.granules, h.part, show (0x300000 + va.toNat % 4096) / 2 ^ 21 = 1 by omega]; rfl
  · exact ⟨(h.sound _ il).1, (h.sound _ il).2, by simp only [List.mem_cons, List.not_mem_nil, or_false] at il; omega⟩
  · rw [h.early]; intro e he; cases he

/-- The rig over those tables, x1 the datum's address and x2 a slot of the line; a row in a mode, in a handler entered at that slot.
Then its strand 3, with the same addresses. -/
noncomputable def rigMap (m : CMode) : State :=
  { rigWith (fun w => { w with
      x := (w.x.set 1 0x1100).set 2 0x1042
      status := { w.status with cmode := m, intrap := true }, trap := { w.trap with pc := 0x1042 } }) with mem := mapMem }
noncomputable def rigMapStrand : State :=
  { (rigMap .user).modStrand 0 0 3 fun t =>
      { t with state := .loose, thread := Thread.start 0x300002, g := (t.g.set 1 0x1100).set 2 0x1042 } with issuer := str }

theorem rigMap_ready (m : CMode) : Ready (rigMap m) ctl := ready_control (by cases m <;> rfl)
theorem rigMapStrand_ready : Ready rigMapStrand str := ready_strand (by decide +kernel)
theorem rigMap_plain (m : CMode) : Plain (rigMap m) ctl :=
  ⟨rfl, rfl, rfl, by cases m <;> decide +kernel, by cases m <;> decide +kernel, by cases m <;> decide +kernel, by cases m <;> decide +kernel, rfl⟩
theorem rigMapStrand_plain : Plain rigMapStrand str :=
  ⟨rfl, rfl, rfl, by decide +kernel, by decide +kernel, by decide +kernel, by decide +kernel, rfl⟩

theorem witness_TransfersOfControl_completes (m : CMode) :
    Ready (rigMap m) ctl ∧ (∃ f, (rigMap m).transfer ctl (.jmpr 2) = some f ∧ inFile ctl f.names ∧ f.target = 0x1042) ∧
    (rigMap m).mem.wf = true ∧ Mapped (rigMap m) ctl ((rigMap m).userMode ctl) ((0x1042 : BitVec 64) &&& ~~~0x3F#64) .fetch 0x300040 0x203008 ∧
    (0x1042#64).toNat / 2 % 32 ≠ 0 ∧ (0x1042#64).toNat / 2 % 32 ≤ leNat (memBytes (rigMap m).mem 0x300040 2) / 2 ^ 11 :=
  ⟨rigMap_ready m, ⟨_, rfl, by simp [inFile], by cases m <;> decide +kernel⟩, mapMem_points.2.2.2.2.1,
    (rigMap_plain m).mapped _ _ 0x1040 (by simp), by decide +kernel, by simp only [show (rigMap m).mem = mapMem from rfl, mapMem_points.2.2.2.2.2.1]; decide +kernel⟩

theorem witness_LoadResults_completes (m : CMode) :
    Ready (rigMap m) ctl ∧ (∃ f, loadForm (.ld64 31 1 0) = some f ∧ inFile ctl [f.d, f.a]) ∧
    (∃ f, snapLoadForm (.ldv8 0 1 0) = some f ∧ inFile ctl [f.d, f.a]) ∧ (rigMap m).mem.wf = true ∧
    (rigMap m).int ctl 1 + (0 : BitVec 22).signExtend 64 = 0x1100 ∧
    Mapped (rigMap m) ctl ((rigMap m).userMode ctl) 0x1100 .read 0x300100 0x203008 :=
  ⟨rigMap_ready m, ⟨_, rfl, by simp [inFile]⟩, ⟨_, rfl, by simp [inFile]⟩, mapMem_points.2.2.2.2.1,
    by cases m <;> decide +kernel, (rigMap_plain m).mapped _ _ 0x1100 (by simp)⟩

theorem witness_StoreResults_completes (m : CMode) :
    Ready (rigMap m) ctl ∧ (∃ f, storeForm (.st64 2 1 0) = some f ∧ inFile ctl [f.d, f.a]) ∧ (rigMap m).mem.wf = true ∧
    ((rigMap m).pack 0).ospec = none ∧ (rigMap m).int ctl 1 + (0 : BitVec 22).signExtend 64 = 0x1100 ∧
    Mapped (rigMap m) ctl ((rigMap m).userMode ctl) 0x1100 .write 0x300100 0x203008 ∧ (rigMap m).coreOf ctl < (rigMap m).cores.length :=
  ⟨rigMap_ready m, ⟨_, rfl, by simp [inFile]⟩, mapMem_points.2.2.2.2.1, rfl, by cases m <;> decide +kernel,
    (rigMap_plain m).mapped _ _ 0x1100 (by simp), by cases m <;> decide +kernel⟩

/-- A load of the datum gives it, and a store of the line's slot there leaves it pending. -/
theorem test_translated_access :
    (match exec (.ld64 5 1 0) (rigMap .user) with | .next t => (t.endRun ctl false).xr ctl 5 | _ => 0) = 0x1122334455667788 ∧
    (match exec (.st64 2 1 0) (rigMap .user) with | .next t => (t.core 0).l1.map fun e => (e.pa, e.bytes) | _ => []) =
      [(0x300100, [0x42, 0x10, 0, 0, 0, 0, 0, 0])] := by decide +kernel

theorem witness_TrapEntryAndReturn_completes :
    let s := rigMap .supervisor
    let w := s.row 0 0
    Ready s ctl ∧ w.status.cmode ≠ .user ∧ w.thread.run.owedSr = [] ∧ s.mem.wf = true ∧ w.trap.pc.signExtend 64 = 0x1042 ∧
    Mapped s ctl (w.status.pmode = .user) 0x1040 .fetch 0x300040 0x203008 ∧
    (0x1042#64).toNat / 2 % 32 ≤ leNat (memBytes s.mem 0x300040 2) / 2 ^ 11 :=
  ⟨rigMap_ready _, by decide +kernel, by decide +kernel, mapMem_points.2.2.2.2.1, by decide +kernel,
    (rigMap_plain _).mapped _ _ 0x1040 (by simp), by simp only [show (rigMap .supervisor).mem = mapMem from rfl, mapMem_points.2.2.2.2.2.1]; decide +kernel⟩

theorem witness_StrandTransitions_completes :
    let s := rigMapStrand
    Ready s str ∧ s.fetch.sub = false ∧ s.int str 2 = 0x1042 ∧ s.mem.wf = true ∧
    Mapped s str true 0x1040 .fetch 0x300040 0x203008 ∧ (0x1042#64).toNat / 2 % 32 ≤ leNat (memBytes s.mem 0x300040 2) / 2 ^ 11 ∧
    (s.strand 0 0 3).leash ≠ (0x1042#64).setWidth 48 :=
  ⟨rigMapStrand_ready, rfl, by decide +kernel, mapMem_points.2.2.2.2.1, rigMapStrand_plain.mapped _ _ 0x1040 (by simp),
    by simp only [show rigMapStrand.mem = mapMem from rfl, mapMem_points.2.2.2.2.2.1]; decide +kernel, by decide +kernel⟩

theorem witness_DispatchWaitAndDrain_completes :
    let s := rigMap .user
    let w := s.row 0 0
    Ready s ctl ∧ w.vq = [] ∧ w.strandsActive = false ∧ w.thread.run.owedSr = [] ∧ s.xr ctl 2 = 0x1042 ∧ s.mem.wf = true ∧
    Mapped s ctl true 0x1040 .fetch 0x300040 0x203008 ∧ (0x1042#64).toNat / 2 % 32 ≤ leNat (memBytes s.mem 0x300040 2) / 2 ^ 11 ∧
    15 < w.strands.length ∧ w.rowmask.getLsbD (15 % w.width.grant.toNat) = true ∧ (s.strand 0 0 15).state = .idle :=
  ⟨rigMap_ready _, by decide +kernel, by decide +kernel, by decide +kernel, by decide +kernel, mapMem_points.2.2.2.2.1,
    (rigMap_plain _).mapped _ _ 0x1040 (by simp),
    by simp only [show (rigMap .user).mem = mapMem from rfl, mapMem_points.2.2.2.2.2.1]; decide +kernel, by decide +kernel⟩

/-- The accesses of the completions of atomics, ordered accesses and timelines. -/
theorem witness_AtomicsAndOrderedAccesses_completes :
    let s := rigMap .user
    Ready s ctl ∧ (∃ f, amoForm (.amoFadd ⟨1, true⟩ 31 1 2 3 5 true) = some f ∧ f.gd.wf ∧ f.sc ≤ 5 ∧ s.guardOn ctl f.gd = true) ∧
    s.mem.wf = true ∧ (s.pack 0).ospec = none ∧ s.xr ctl 1 = 0x1100 ∧ s.coreOf ctl < s.cores.length ∧
    ∀ k, Mapped s ctl (s.userMode ctl) 0x1100 k 0x300100 0x203008 :=
  ⟨rigMap_ready _, ⟨_, rfl, by decide +kernel, by decide +kernel, by decide +kernel⟩, mapMem_points.2.2.2.2.1, rfl, by decide +kernel,
    by decide +kernel, fun k => (rigMap_plain _).mapped _ k 0x1100 (by simp)⟩

theorem witness_TimelineWaitAndPost_completes :
    let s := rigMap .user
    (s.xr ctl 2).toNat ≤ leNat (memBytes s.mem 0x300100 8) ∧ (s.row 0 0).posts.length < 16 ∧
    Mapped s ctl (s.userMode ctl) (s.xr ctl 1) .read 0x300100 0x203008 ∧ Mapped s ctl (s.userMode ctl) (s.xr ctl 1) .readWrite 0x300100 0x203008 := by
  have x : (rigMap .user).xr ctl 1 = 0x1100 := by decide +kernel
  refine ⟨by decide +kernel, by decide +kernel, ?_, ?_⟩ <;> rw [x] <;> exact (rigMap_plain _).mapped _ _ 0x1100 (by simp)
/-- FIPS 197, appendices A.3 and C.3 (the cipher R420 names): a substitution and AES-256's example. -/
theorem test_aes :
    aesSub 0x53 = 0xED ∧
    aesBlock (aesSchedule ((List.range 32).map fun i => BitVec.ofNat 8 i)) ((List.range 16).map fun i => BitVec.ofNat 8 (17 * i)) =
      [0x8E, 0xA2, 0xB7, 0xCA, 0x51, 0x67, 0x45, 0xBF, 0xEA, 0xFC, 0x49, 0x90, 0x4B, 0x49, 0x60, 0x89] := by decide +kernel

end Sys2Proof.Machine
end

namespace Sys2Proof.Machine

/-! ## The ordered sum of the lanes (R41, R42, R57) -/

/-- Each element width the ordered sum is defined for is the width of its element format (R201). -/
theorem elemFormat_width {ew : Nat} {half : Bool} (h : ew = 16 ∨ half = false ∧ (ew = 32 ∨ ew = 64)) :
    (elemFormat ew half).width = ew := by
  obtain rfl | ⟨-, rfl | rfl⟩ := h
  · cases half <;> rfl
  · rfl
  · rfl

/-- The lanes' list of active elements and the test of one element agree (R57). -/
theorem contains_activeElems (l : List Strand) (wv vl : Nat) (gd : Guard) (e : Nat) :
    (activeElems l wv vl gd).contains e = elemActive l wv vl gd e := by
  have hguard : guardedOn l wv gd e = (gd.g == 0 || maskGet l wv gd.g e != gd.n) := rfl
  rw [Bool.eq_iff_iff, List.contains_iff_mem, activeElems, List.mem_filter, List.mem_range, hguard, elemActive,
    Bool.and_eq_true, decide_eq_true_eq]

/-- One addition of the ordered sum: the sum rounded to nearest even, the flags joined (R25, R42). -/
def FFormat.sumStep (f : FFormat) (acc : Nat × Flags) (x : Nat) : Nat × Flags :=
  ((f.bin .add .rne acc.1 x).1, acc.2 ||| (f.bin .add .rne acc.1 x).2)

theorem orderedSum_eq_foldl_sumStep (f : FFormat) (init : Nat) (elems : List Nat) :
    orderedSum f init elems = elems.foldl f.sumStep (init % 2 ^ f.width, 0) := rfl

theorem floatReduce_ordered (f : FFormat) (init : Nat) (elems : List (Option Nat)) :
    floatReduce f .ordered init elems = orderedSum f (init % 2 ^ f.width) (elems.filterMap id) := rfl

/-- Marking the elements a test refuses as absent and dropping the absent ones keeps the elements of the test. -/
theorem filterMap_ite_some {α β : Type} (keep : α → Bool) (g : α → β) (xs : List α) :
    (xs.filterMap fun x => if keep x then some (g x) else none) = (xs.filter keep).map g := by
  induction xs with
  | nil => rfl
  | cons x xs ih => cases h : keep x <;> simp [h, ih]

/-- The ordered sum adds the present elements, in ascending order, to the initial value (R41, R42). -/
theorem laneReduce_ordered {half : Bool} {l : List Strand} {c : VCtx} {wv : Nat} {gd : Guard} {va : BitVec 6}
    {init : BitVec 64} (hw : (elemFormat c.ew half).width = c.ew) :
    laneReduce .ordered half l c wv gd va init =
      (((List.range c.vl).filter (elemActive l wv c.vl gd)).map (elemGet l wv c.ew va)).foldl
        (elemFormat c.ew half).sumStep (init.toNat % 2 ^ c.ew, 0) := by
  simp only [laneReduce, floatReduce_ordered, orderedSum_eq_foldl_sumStep, contains_activeElems, List.filterMap_map,
    Function.id_comp, filterMap_ite_some, hw, Nat.mod_mod]

end Sys2Proof.Machine

namespace Sys2Proof.Laws
open Sys2Proof.Machine

/-- Settles O32: the present elements are those of the range that are active, so the sum over them is one pass over the range
that passes over the others, and none is added when none is active. -/
theorem orderedSum : Obligations.OrderedSum := by
  unfold Obligations.OrderedSum
  intro half l c wv gd va init first hew
  rw [laneReduce_ordered (elemFormat_width hew)]
  constructor
  · rw [List.foldl_map, List.foldl_filter]
    rfl
  · intro hnone
    have hempty : (List.range c.vl).filter (elemActive l wv c.vl gd) = [] := by
      simpa [List.filter_eq_nil_iff] using hnone
    rw [hempty, List.map_nil, List.foldl_nil]

end Sys2Proof.Laws

namespace Sys2Proof.Machine

/-! ## Groups of strands (R100, R101, R103) -/

theorem State.modRow_modRow (s : State) (p r : Nat) (f g : Row → Row) :
    (s.modRow p r f).modRow p r g = s.modRow p r (g ∘ f) := by
  simp only [State.modRow, State.modPack, List.modify_modify_eq]
  congr 1
  refine congrArg (s.packs.modify p) (funext fun k => ?_)
  simp only [Function.comp_apply, List.modify_modify_eq]

theorem State.pack_modRow_ne (s : State) (p r q : Nat) (f : Row → Row) (h : q ≠ p) :
    (s.modRow p r f).pack q = s.pack q := by
  rw [State.pack_modRow, if_neg fun e => h e.1]

/-- The strands of a row with those at the given places changed. -/
def modifyAll (f : Strand → Strand) (l : List Nat) (ts : List Strand) : List Strand :=
  l.foldl (fun ts k => ts.modify k f) ts

theorem getElem?_modifyAll (f : Strand → Strand) {l : List Nat} (hl : l.Nodup) (ts : List Strand) (j : Nat) :
    (modifyAll f l ts)[j]? = if j ∈ l then ts[j]?.map f else ts[j]? := by
  induction l generalizing ts with
  | nil => rfl
  | cons k l ih =>
    obtain ⟨hk, hl⟩ := List.nodup_cons.1 hl
    rw [modifyAll, List.foldl_cons, ← modifyAll, ih hl, List.getElem?_modify]
    by_cases hj : k = j
    · subst hj
      simp [hk]
    · simp [hj, Ne.symm hj]

/-- Changing strands one by one and then their row is one change of the row. -/
theorem State.modRow_foldl_modStrand (s : State) (p r : Nat) (l : List Nat) (f : Strand → Strand) (g : Row → Row) :
    (l.foldl (fun s k => s.modStrand p r k f) s).modRow p r g =
      s.modRow p r fun w => g { w with strands := modifyAll f l w.strands } := by
  induction l generalizing s with
  | nil => rfl
  | cons k l ih =>
    rw [List.foldl_cons, ih, State.modStrand, State.modRow_modRow]
    rfl

/-- A strand as a member of a new group (R100). -/
def Strand.joined (t : Strand) (group : Nat) : Strand := { t with state := .lockstep, group := group }

/-- A row of which some strands have become one group (R100). -/
def Row.grouped (w : Row) (l : List Nat) (f : Strand → Strand) (group : Nat) : Row :=
  { w with strands := modifyAll (fun t => (f t).joined group) l w.strands, nextGroup := group + 1 }

theorem State.formGroup_eq_modRow (s : State) (p r : Nat) (l : List Nat) (f : Strand → Strand) :
    s.formGroup p r l f = s.modRow p r fun w => w.grouped l f (s.row p r).nextGroup :=
  State.modRow_foldl_modStrand s p r l _ _

/-- Forming a group changes the strands named and no other. -/
theorem State.strand_formGroup {s : State} {p r : Nat} {l : List Nat} (f : Strand → Strand) (hp : p < s.packs.length)
    (hr : r < (s.pack p).rows.length) (hl : l.Nodup) (hn : ∀ k ∈ l, k < (s.row p r).strands.length) (j : Nat) :
    (s.formGroup p r l f).strand p r j =
      if j ∈ l then (f (s.strand p r j)).joined (s.row p r).nextGroup else s.strand p r j := by
  rw [State.formGroup_eq_modRow, State.strand, State.row_modRow_same s p r _ hp hr, State.strand, Row.grouped,
    List.getD_eq_getElem?_getD, List.getD_eq_getElem?_getD, getElem?_modifyAll _ hl]
  split
  case isTrue hj => rw [List.getElem?_eq_getElem (hn j hj)]; rfl
  case isFalse => rfl

/-! ## The release of a leash (R103) -/

/-- The strands of a row that are HELD at a leash. -/
def State.heldAt (s : State) (p r : Nat) (l : BitVec 48) : List Nat :=
  (List.range (s.row p r).strands.length).filter fun k =>
    decide ((s.strand p r k).state = .held ∧ (s.strand p r k).leash = l)

theorem State.mem_heldAt {s : State} {p r : Nat} {l : BitVec 48} {j : Nat} :
    j ∈ s.heldAt p r l ↔
      j < (s.row p r).strands.length ∧ (s.strand p r j).state = .held ∧ (s.strand p r j).leash = l := by
  rw [State.heldAt, List.mem_filter, List.mem_range, decide_eq_true_iff]

theorem State.nodup_heldAt (s : State) (p r : Nat) (l : BitVec 48) : (s.heldAt p r l).Nodup :=
  List.nodup_range.filter _

/-- The release condition of R103: every strand with the leash lets the held ones go. -/
def State.mayRelease (s : State) (p r : Nat) (l : BitVec 48) : Prop :=
  ∀ j, j < (s.row p r).strands.length → (s.strand p r j).leash = l → (s.strand p r j).state.letsGo = true

/-- The model's test of one strand against the release condition. -/
theorem letsGo_test_iff (t : Strand) (l : BitVec 48) :
    (decide (t.leash ≠ l) || decide (t.state = .held) || decide (t.state = .idle) || decide (t.state = .halted)) = true ↔
      (t.leash = l → t.state.letsGo = true) := by
  have hstate : t.state.letsGo = true ↔ t.state = .held ∨ t.state = .idle ∨ t.state = .halted := by
    cases t.state <;> simp [StrandState.letsGo]
  simp only [hstate, Bool.or_eq_true, decide_eq_true_iff, or_assoc, ne_eq, Decidable.imp_iff_not_or]

theorem State.all_letsGo_iff_mayRelease (s : State) (p r : Nat) (l : BitVec 48) :
    ((s.row p r).strands.all fun t =>
      decide (t.leash ≠ l) || decide (t.state = .held) || decide (t.state = .idle) || decide (t.state = .halted)) = true ↔
      s.mayRelease p r l := by
  simp only [List.all_eq_true, letsGo_test_iff, List.forall_mem_iff_forall_getElem, State.mayRelease, State.strand]
  refine forall_congr' fun j => forall_congr' fun hj => ?_
  rw [List.getD_eq_getElem?_getD, List.getElem?_eq_getElem hj, Option.getD_some]

/-- A strand let go of its leash: it starts a new run at its address, in the line it read if `keep` (R50, R101). -/
def Strand.unleashed (keep : Bool) (t : Strand) : Strand :=
  { t with leash := 0, thread := { t.thread with
      run := Run.empty, waiting := none, line := if keep then t.thread.line else none } }

theorem State.release_of_not_mayRelease {s : State} {p r : Nat} {l : BitVec 48} (h : ¬ s.mayRelease p r l) :
    s.release p r l = s := by
  have hfree := mt (s.all_letsGo_iff_mayRelease p r l).1 h
  rw [State.release]
  simp only [hfree, Bool.and_false, Bool.false_and, Bool.false_eq_true, if_false]

theorem State.release_of_heldAt_nil {s : State} {p r : Nat} {l : BitVec 48} (h : s.heldAt p r l = []) :
    s.release p r l = s :=
  if_neg (by rw [← State.heldAt, h]; simp)

theorem State.release_of_mayRelease {s : State} {p r : Nat} {l : BitVec 48} (hl : l ≠ 0) (h : s.mayRelease p r l)
    (hheld : s.heldAt p r l ≠ []) :
    s.release p r l =
      s.formGroup p r (s.heldAt p r l) (Strand.unleashed (s.oneSnapshot p r (s.heldAt p r l))) :=
  if_pos (by rw [← State.heldAt, (s.all_letsGo_iff_mayRelease p r l).2 h]; simpa [hheld] using hl)

theorem State.bounds_of_rowRuns {s : State} {p r : Nat} (h : s.rowRuns p r = true) :
    p < s.packs.length ∧ r < (s.pack p).rows.length := by
  simp only [State.rowRuns, Bool.and_eq_true, decide_eq_true_iff, and_assoc] at h
  exact ⟨h.1, h.2.1⟩

theorem exec_release {s : State} {p r : Nat} (l : BitVec 48) (hruns : s.rowRuns p r = true)
    (htrap : (s.row p r).status.intrap = false) : exec (.release p r l) s = .next (s.release p r l) :=
  if_pos (by rw [hruns, htrap]; rfl)

end Sys2Proof.Machine

namespace Sys2Proof.Laws
open Sys2Proof.Machine

/-- Settles O25: where the condition of R103 fails the release leaves the state; where it holds the held strands, if there are
any, are formed into one group, which changes nothing outside them but the row's next group number. -/
theorem releaseFormsGroup : Obligations.ReleaseFormsGroup := by
  unfold Obligations.ReleaseFormsGroup
  intro s p r l n held hruns htrap hl
  obtain ⟨hp, hr⟩ := State.bounds_of_rowRuns hruns
  have hheld : ∀ j, held j ↔ j ∈ s.heldAt p r l := fun j => State.mem_heldAt.symm
  refine ⟨s.release p r l, exec_release l hruns htrap, ?_, fun hfree => ?_⟩
  · rintro ⟨j, hj, hleash, hgo⟩
    refine State.release_of_not_mayRelease fun h => ?_
    rw [h j hj hleash] at hgo
    cases hgo
  · simp only [hheld]
    by_cases hnil : s.heldAt p r l = []
    · rw [State.release_of_heldAt_nil hnil, hnil]
      simp
    · have hstrand := State.strand_formGroup (Strand.unleashed (s.oneSnapshot p r (s.heldAt p r l))) hp hr
        (s.nodup_heldAt p r l) fun k hk => (State.mem_heldAt.1 hk).1
      rw [State.release_of_mayRelease hl hfree hnil]
      refine ⟨fun j hj => ?_, fun j hj => by rw [hstrand, if_neg hj], ?_⟩
      · rw [hstrand, if_pos hj]
        exact ⟨rfl, rfl, rfl, rfl, rfl, fun i hi => by rw [hstrand, if_pos hi]; rfl⟩
      · rw [State.formGroup_eq_modRow]
        exact ⟨rfl, rfl, fun q hq => s.pack_modRow_ne p r q _ hq,
          fun j hj => s.row_modRow_ne p r p j _ fun e => hj e.2⟩

end Sys2Proof.Laws

namespace Sys2Proof.Machine

/-! ## The checks of an instruction's form (R67) -/

@[simp] theorem guardOn_noGuard (s : State) (a : Agent) : s.guardOn a noGuard = true := rfl

/-- An S-kind instruction whose integer registers lie in the thread's file passes the checks (R67, R117). -/
theorem issueCheck_s {l : List (BitVec 6)} {a : Agent} (s : State) (h : inFile a l) :
    issueCheck (Form.s l) s a = none := by
  cases a with
  | control p r =>
    have hlow : ∀ n ∈ l, n.toNat < 32 := h
    have hany : (l.any fun n => decide (32 ≤ n.toNat)) = false := by simpa [List.any_eq_false] using hlow
    simp [issueCheck, Form.s, hany]
  | strand p r k => rfl

theorem inFile_nil (a : Agent) : inFile a [] := by
  cases a with
  | control p r => exact fun _ hn => nomatch hn
  | strand p r k => trivial

theorem issueCheck_illegal (f : Form) (s : State) (a : Agent) : issueCheck (f.when False) s a = some 0x01 := by
  simp [issueCheck, Form.when]

/-- Past the checks, with no comparator matching, an unguarded instruction's outcome is its own. -/
theorem checkedRes_of_ready {i : Form} {f : State → Agent → Res} {s : State} {a : Agent} (hr : Ready s a)
    (hc : issueCheck i s a = none) : checkedRes i noGuard f s a = f s a := by
  simp only [checkedRes, hc, hr.free, guardOn_noGuard, if_true]

/-! ## An instruction that traps (R67, R111, R278) -/

/-- An instruction of a thread alone in its stream whose outcome is a trap takes that trap at its own address. -/
theorem issue_trap {i : Form} {g : Guard} {f : State → Agent → Res} {s s' : State} {a : Agent} {cause : BitVec 8}
    {val : BitVec 64} (hi : s.issuer = a) (ha : s.alone a) (hres : checkedRes i g f s a = .trap s' cause val 0)
    (hpc : s'.fetch.pc = s.fetch.pc) : issue i g f s = .next (s'.trapsTo a cause val) := by
  rw [issue, hi]
  cases a with
  | control p r => simp only [controlStep, hres, State.trapsTo, hpc]
  | strand p r k =>
    obtain ⟨hgroup, -, hstored⟩ := ha
    have hmember : memberRes i g f s (.strand p r k) = .trap s' cause val 0 := by
      rw [memberRes]
      split
      next ws hw => exact absurd hw (hstored ws)
      next => exact hres
    simp only [groupStep, hgroup, groupEffects, hmember, List.foldl_nil, State.trapsTo]

/-- An unguarded instruction that passes the checks and traps leaves nothing else of its own. -/
theorem issue_trapAt {i : Form} {f : State → Agent → Res} {s : State} {a : Agent} {cause : BitVec 8} {val : BitVec 64}
    (hr : Ready s a) (hc : issueCheck i s a = none) (hf : f s a = trapAt s cause val) :
    issue i noGuard f s = .next (s.trapsTo a cause val) :=
  issue_trap hr.issuer hr.alone ((checkedRes_of_ready hr hc).trans hf) rfl

/-- An instruction with an illegal field traps with 0x01 and its encoding, whatever else it is (R67, R68). -/
theorem issue_illegal {i : Form} {g : Guard} {f : State → Agent → Res} {s : State} {a : Agent} (hi : s.issuer = a)
    (ha : s.alone a) (hc : issueCheck i s a = some 0x01) : issue i g f s = .next (s.trapsTo a 0x01 s.fetch.raw) :=
  issue_trap hi ha (by simp only [checkedRes, hc]) rfl

/-! ## nop, brk, trap and undefined encodings (R67, R142, R153) -/

theorem srNumber_eq_toNat_append (x y : BitVec 6) : srNumber x y = (x ++ y).toNat := by
  rw [BitVec.toNat_append, ← Nat.shiftLeft_add_eq_or_of_lt y.isLt, Nat.shiftLeft_eq, srNumber]

theorem trapCode_eq (x y : BitVec 6) : BitVec.ofNat 64 (srNumber x y) = (x ++ y).setWidth 64 := by
  rw [srNumber_eq_toNat_append, BitVec.ofNat_toNat]

theorem exec_nop {s : State} {a : Agent} (hr : Ready s a) :
    ∃ t, exec .nop s = .next t ∧ Frame s t a [] ∧ Goes s t a s.next := by
  obtain ⟨t, ht, hwent⟩ :=
    issue_go (f := fun s _ => proceed s) hr (issueCheck_s s (inFile_nil a)) (guardOn_noGuard s a) rfl hr.has
  exact ⟨t, ht, hwent.frame, hwent.toGoes⟩

theorem exec_brk {s : State} {a : Agent} (hr : Ready s a) : exec .brk s = .next (s.trapsTo a 0x0E 0) :=
  issue_trapAt hr (issueCheck_s s (inFile_nil a)) rfl

theorem exec_trap {s : State} {a : Agent} (hr : Ready s a) (x y : BitVec 6) :
    exec (.trap x y) s = .next (s.trapsTo a 0x0F ((x ++ y).setWidth 64)) := by
  rw [← trapCode_eq]
  exact issue_trapAt hr (issueCheck_s s (inFile_nil a)) rfl

/-- The encoding that the latch holds is no part of what makes a thread ready. -/
theorem exec_illegalInstruction {s : State} {a : Agent} (hr : Ready s a) (raw : BitVec 64) :
    exec (.illegalInstruction raw) s =
      .next (({ s with fetch := { s.fetch with raw := raw } } : State).trapsTo a 0x01 raw) := by
  have halone : ({ s with fetch := { s.fetch with raw := raw } } : State).alone a := by
    cases a <;> exact hr.alone
  exact issue_illegal hr.issuer halone (issueCheck_illegal _ _ a)

/-! ## Compares and predicate logic (R126–R128) -/

theorem cmpFn64_eq_iff (x y : BitVec 64) : cmpFn64 .eq x y = true ↔ x = y := beq_iff_eq

theorem cmpFn64_ne_iff (x y : BitVec 64) : cmpFn64 .ne x y = true ↔ x ≠ y := bne_iff_ne

theorem cmpFn64_lt_iff (x y : BitVec 64) : cmpFn64 .lt x y = true ↔ x.toInt < y.toInt := BitVec.slt_iff_toInt_lt

theorem cmpFn64_ge_iff (x y : BitVec 64) : cmpFn64 .ge x y = true ↔ y.toInt ≤ x.toInt := by
  simp [cmpFn64, BitVec.slt]

theorem cmpFn64_ltu_iff (x y : BitVec 64) : cmpFn64 .ltu x y = true ↔ x.toNat < y.toNat := BitVec.ult_iff_toNat_lt

theorem cmpFn64_geu_iff (x y : BitVec 64) : cmpFn64 .geu x y = true ↔ y.toNat ≤ x.toNat := by
  simp [cmpFn64, BitVec.ult]

/-- A sign-extended immediate has the value of the immediate (R127). -/
theorem toInt_signExtend_imm (imm : BitVec 22) : (imm.signExtend 64).toInt = imm.toInt :=
  BitVec.toInt_signExtend_of_le (by decide)

theorem cmpFn64_eq_imm_iff (x : BitVec 64) (imm : BitVec 22) :
    cmpFn64 .eq x (imm.signExtend 64) = true ↔ x.toInt = imm.toInt := by
  rw [cmpFn64_eq_iff, ← BitVec.toInt_inj, toInt_signExtend_imm]

theorem cmpFn64_ne_imm_iff (x : BitVec 64) (imm : BitVec 22) :
    cmpFn64 .ne x (imm.signExtend 64) = true ↔ x.toInt ≠ imm.toInt := by
  rw [cmpFn64_ne_iff, ← BitVec.toInt_ne, toInt_signExtend_imm]

theorem cmpFn64_lt_imm_iff (x : BitVec 64) (imm : BitVec 22) :
    cmpFn64 .lt x (imm.signExtend 64) = true ↔ x.toInt < imm.toInt := by
  rw [cmpFn64_lt_iff, toInt_signExtend_imm]

theorem cmpFn64_ge_imm_iff (x : BitVec 64) (imm : BitVec 22) :
    cmpFn64 .ge x (imm.signExtend 64) = true ↔ imm.toInt ≤ x.toInt := by
  rw [cmpFn64_ge_iff, toInt_signExtend_imm]

/-- A compare's result is the word of the truth value it decides (R126). -/
theorem aluPred_eq_bitWord {c : Prop} [Decidable c] {b : Bool} (s : State) (a : Agent) (pd : BitVec 5)
    (h : b = true ↔ c) : aluPred s a pd b = .done (s.writeNow a (.pred pd) (bitWord c)) (.go s.next) := by
  simp only [aluPred, bitWord, h]

/-- Every instruction of R126–R128 is an unguarded S-kind instruction over the registers it names, which writes its value into its
predicate at once and goes on. -/
theorem exec_predResult {s : State} {a : Agent} {i : Instr} {pd : BitVec 5} {l : List (BitVec 6)} {v : BitVec 64}
    (h : predResult s a i = some (pd, l, v)) :
    ∃ f : State → Agent → Res, exec i s = issue (Form.s l) noGuard f s ∧
      f s a = .done (s.writeNow a (.pred pd) v) (.go s.next) := by
  cases i with
  | ceq => cases h; exact ⟨_, rfl, aluPred_eq_bitWord s a _ (cmpFn64_eq_iff _ _)⟩
  | cne => cases h; exact ⟨_, rfl, aluPred_eq_bitWord s a _ (cmpFn64_ne_iff _ _)⟩
  | clt => cases h; exact ⟨_, rfl, aluPred_eq_bitWord s a _ (cmpFn64_lt_iff _ _)⟩
  | cge => cases h; exact ⟨_, rfl, aluPred_eq_bitWord s a _ (cmpFn64_ge_iff _ _)⟩
  | cltu | cltui => cases h; exact ⟨_, rfl, aluPred_eq_bitWord s a _ (cmpFn64_ltu_iff _ _)⟩
  | cgeu | cgeui => cases h; exact ⟨_, rfl, aluPred_eq_bitWord s a _ (cmpFn64_geu_iff _ _)⟩
  | ceqi => cases h; exact ⟨_, rfl, aluPred_eq_bitWord s a _ (cmpFn64_eq_imm_iff _ _)⟩
  | cnei => cases h; exact ⟨_, rfl, aluPred_eq_bitWord s a _ (cmpFn64_ne_imm_iff _ _)⟩
  | clti => cases h; exact ⟨_, rfl, aluPred_eq_bitWord s a _ (cmpFn64_lt_imm_iff _ _)⟩
  | cgei => cases h; exact ⟨_, rfl, aluPred_eq_bitWord s a _ (cmpFn64_ge_imm_iff _ _)⟩
  | pand | por | pxor | pandn | pnot | pmov => cases h; exact ⟨_, rfl, rfl⟩
  | _ => cases h

end Sys2Proof.Machine

namespace Sys2Proof.Laws
open Sys2Proof.Machine

/-- Settles O11: each of the instructions writes one predicate at once, and such an instruction completes with that predicate
alone changed. -/
theorem predicateResult : Obligations.PredicateResult := by
  unfold Obligations.PredicateResult
  intro s a i pd l v hr hfile hres
  obtain ⟨f, hexec, hf⟩ := exec_predResult hres
  obtain ⟨t, ht, hread, hframe, hgoes⟩ :=
    completes_now hr (issueCheck_s s hfile) (guardOn_noGuard s a) (n := .pred pd) trivial hf
  refine ⟨t, hexec.trans ht, ?_, hframe, hgoes⟩
  rw [State.pred, hread]
  simp [RegName.zero, RegName.const]

/-- Settles O14: nop's outcome is to go on in the state as it is, that of the others a trap at the instruction. -/
theorem nopAndTraps : Obligations.NopAndTraps := by
  unfold Obligations.NopAndTraps
  intro s a hr
  exact ⟨exec_nop hr, exec_brk hr, exec_trap hr, exec_illegalInstruction hr⟩

end Sys2Proof.Laws
